-- ==== Sys2Proof/Word.lean ====
section
/-! DEFINITION. The plain types every other file uses: words, sparse maps, element
types (R31), floating-point formats (R70), rounding modes (R32), exact values. -/

namespace Sys2Proof

abbrev Byte := BitVec 8
abbrev Word := BitVec 32
abbrev DWord := BitVec 64

/-- A sparse map from natural keys to words of `w` bits. In canonical form the keys rise
strictly and no entry is zero; a key that is not listed reads as zero. -/
abbrev SMap (w : Nat) := List (Nat × BitVec w)

/-- A table of records by identifier. -/
abbrev Tbl (α : Type) := List (Nat × α)

/-- The element types of R31; code 15 is reserved and MR never holds it (R30). -/
inductive ET where
  | i32 | ui32 | i16x2 | ui16x2 | i8x4 | ui8x4 | f32 | f16x2 | bf16x2
  | e4m3x4 | e5m2x4 | i64 | i4x8 | cb4x8 | a96
deriving DecidableEq, Repr

/-- The floating-point formats of R70. -/
inductive FFmt where
  | f32 | f16 | bf16 | e4m3 | e5m2
deriving DecidableEq, Repr

/-- The rounding modes of R32. -/
inductive RMode where
  | rne | rtz | rup | rdn
deriving DecidableEq, Repr

/-- An exact value as the floating-point rules use it: `fin neg m e` is
(-1)^neg * m * 2^e; `m = 0` is a zero of the sign `neg`. -/
inductive FVal where
  | nan
  | inf (neg : Bool)
  | fin (neg : Bool) (m : Nat) (e : Int)
deriving DecidableEq, Repr

/-- The six word formats of R25, in the order of EMUOP.FMT (R48). -/
inductive Fmt where
  | V | I | K | J | S | M
deriving DecidableEq, Repr

/-- The role of a register field (R28). -/
inductive Role where
  | vector | scalar | predicate
deriving DecidableEq, Repr

/-- The scopes of R6, from narrowest to widest. -/
inductive Scope where
  | core | blk | die | dev | vdt | sys
deriving DecidableEq, Repr

end Sys2Proof
end

