-- ==== Sys2Proof/Machine/Crypto.lean ====
section
/-! DEFINITION. The standard algorithms that the spec names: AES-256 in GCM (R384) and SHA3-512 (R445 to R447),
over bytes as numbers below 256. -/

namespace Sys2Proof.Machine

/-! ## AES-256 -/

/-- Multiplication by x in the field of AES. -/
def aesXtime (b : Nat) : Nat := if 128 ≤ b then Nat.xor (2 * b % 256) 0x1B else 2 * b

/-- The product of two bytes in the field of AES, over the low `n` bits of `b`. -/
def aesMul (a b : Nat) : Nat → Nat
  | 0 => 0
  | n + 1 => Nat.xor (if b % 2 = 1 then a else 0) (aesMul (aesXtime a) (b / 2) n)

/-- The inverse of a byte, its 254th power. -/
def aesInv (x : Nat) : Nat :=
  let sq (y : Nat) : Nat := aesMul y y 8
  let x2 := sq x
  let x4 := sq x2
  let x8 := sq x4
  let x16 := sq x8
  let x32 := sq x16
  let x64 := sq x32
  let x128 := sq x64
  [x4, x8, x16, x32, x64, x128].foldl (fun a y => aesMul a y 8) x2

/-- The substitution of a byte. -/
def aesSub (x : Nat) : Nat :=
  let y := aesInv x
  let rot (k : Nat) : Nat := (y * 2 ^ k) % 256 + y / 2 ^ (8 - k)
  [rot 1, rot 2, rot 3, rot 4, 0x63].foldl Nat.xor y

/-- Bytewise exclusive or. -/
def xorBytes (a b : List Nat) : List Nat := a.zipWith Nat.xor b

/-- The round constant of round `i`. -/
def aesRcon : Nat → Nat
  | 0 => 1
  | 1 => 1
  | n + 1 => aesXtime (aesRcon n)

/-- The next word of the key schedule of a 256-bit key. -/
def aesNextWord (w : List (List Nat)) : List Nat :=
  let i := w.length
  let prev := w.getD (i - 1) []
  let t :=
    if i % 8 = 0 then xorBytes ((prev.drop 1 ++ prev.take 1).map aesSub) [aesRcon (i / 8), 0, 0, 0]
    else if i % 8 = 4 then prev.map aesSub else prev
  xorBytes (w.getD (i - 8) []) t

/-- The key schedule: 60 words of four bytes. -/
def aesSchedule (key : List Nat) : List (List Nat) :=
  (List.range 52).foldl (fun w _ => w ++ [aesNextWord w]) ((List.range 8).map (fun i => (key.drop (4 * i)).take 4))

/-- The round key `r`, sixteen bytes. -/
def aesRoundKey (w : List (List Nat)) (r : Nat) : List Nat := ((w.drop (4 * r)).take 4).flatten

/-- Row `i mod 4` of the state moves left by its number. -/
def aesShift (s : List Nat) : List Nat := (List.range 16).map (fun i => s.getD ((i + 4 * (i % 4)) % 16) 0)

/-- The mix of one column. -/
def aesMix (s : List Nat) : List Nat :=
  (List.range 16).map (fun i =>
    let c (k : Nat) : Nat := s.getD (i / 4 * 4 + (i + k) % 4) 0
    [aesMul (c 1) 3 8, c 2, c 3].foldl Nat.xor (aesMul (c 0) 2 8))

/-- AES-256 of one block under an expanded key. -/
def aesBlock (w : List (List Nat)) (b : List Nat) : List Nat :=
  let s := (List.range 13).foldl (fun s r => xorBytes (aesMix (aesShift (s.map aesSub))) (aesRoundKey w (r + 1)))
    (xorBytes b (aesRoundKey w 0))
  xorBytes (aesShift (s.map aesSub)) (aesRoundKey w 14)

/-! ## GCM -/

/-- Bytes as one number, the first byte most significant. -/
def bigEndian (b : List Nat) : Nat := b.foldl (fun a x => a * 256 + x) 0

/-- The `n` bytes of a number, most significant first. -/
def bytesBig (x : Nat) (n : Nat) : List Nat := (List.range n).map (fun i => x / 256 ^ (n - 1 - i) % 256)

/-- The product of GHASH over the highest `n` bits of `x` still to come. -/
def ghashMul (x v : Nat) : Nat → Nat
  | 0 => 0
  | n + 1 =>
    Nat.xor (if x.testBit n then v else 0)
      (ghashMul x (if v % 2 = 1 then Nat.xor (v / 2) (0xE1 * 2 ^ 120) else v / 2) n)

/-- Bytes padded with zeros to whole blocks of `n`. -/
def padTo (n : Nat) (b : List Nat) : List Nat := b ++ List.replicate ((n - b.length % n) % n) 0

/-- GHASH over whole blocks. -/
def ghash (h : Nat) (b : List Nat) : Nat :=
  (List.range (b.length / 16)).foldl (fun y i => ghashMul (Nat.xor y (bigEndian ((b.drop (16 * i)).take 16))) h 128) 0

/-- Counter block `k` of an IV of twelve bytes. -/
def gcmCounter (iv : List Nat) (k : Nat) : List Nat := iv ++ bytesBig (k % 2 ^ 32) 4

/-- The key stream of 128-byte chunk `j`. -/
def gcmStream (key iv : List Nat) (j : Nat) : List Nat :=
  let w := aesSchedule key
  (List.range 8).flatMap (fun i => aesBlock w (gcmCounter iv (2 + 8 * j + i)))

/-- The tag of a ciphertext with its additional data. -/
def gcmTag (key iv aad ct : List Nat) : List Nat :=
  let w := aesSchedule key
  let h := bigEndian (aesBlock w (List.replicate 16 0))
  let s := ghash h (padTo 16 aad ++ padTo 16 ct ++ bytesBig (8 * aad.length) 8 ++ bytesBig (8 * ct.length) 8)
  xorBytes (bytesBig s 16) (aesBlock w (gcmCounter iv 1))

/-! ## SHA3-512 -/

/-- A 64-bit lane rotated left. -/
def rotl64 (x k : Nat) : Nat := (x * 2 ^ (k % 64)) % 2 ^ 64 + x / 2 ^ (64 - k % 64)

/-- The rotation offsets of rho, by lane x + 5y. -/
def keccakRho : List Nat :=
  [0, 1, 62, 28, 27, 36, 44, 6, 55, 20, 3, 10, 43, 25, 39, 41, 45, 15, 21, 8, 18, 2, 61, 56, 14]

/-- One step of the register that gives the round constants. -/
def keccakLfsr (r : Nat) : Nat := if 128 ≤ r then Nat.xor (2 * r % 256) 0x71 else 2 * r

/-- Whether bit `t` of the sequence of the round constants is one. -/
def keccakBit (t : Nat) : Bool := decide (Nat.repeat keccakLfsr t 1 % 2 = 1)

/-- The round constant of round `i`. -/
def keccakRC (i : Nat) : Nat :=
  (List.range 7).foldl (fun a j => if keccakBit (7 * i + j) then a + 2 ^ (2 ^ j - 1) else a) 0

/-- One round of Keccak-f on 25 lanes. -/
def keccakRound (a : List Nat) (i : Nat) : List Nat :=
  let at_ (x y : Nat) : Nat := a.getD (x % 5 + 5 * (y % 5)) 0
  let c := (List.range 5).map (fun x => [at_ x 1, at_ x 2, at_ x 3, at_ x 4].foldl Nat.xor (at_ x 0))
  let d := (List.range 5).map (fun x => Nat.xor (c.getD ((x + 4) % 5) 0) (rotl64 (c.getD ((x + 1) % 5) 0) 1))
  let b := (List.range 25).map (fun k =>
    let x := k % 5
    let y := k / 5
    let sx := (x + 3 * y) % 5
    let sy := x
    rotl64 (Nat.xor (at_ sx sy) (d.getD sx 0)) (keccakRho.getD (sx + 5 * sy) 0))
  let bt (x y : Nat) : Nat := b.getD (x % 5 + 5 * y) 0
  let e := (List.range 25).map (fun k =>
    let x := k % 5
    let y := k / 5
    Nat.xor (bt x y) (Nat.land (2 ^ 64 - 1 - bt (x + 1) y) (bt (x + 2) y)))
  e.set 0 (Nat.xor (e.getD 0 0) (keccakRC i))

/-- Keccak-f[1600]. -/
def keccakF (a : List Nat) : List Nat := (List.range 24).foldl keccakRound a

/-- The 64-bit lanes of bytes, least significant byte first. -/
def lanes64 (b : List Nat) : List Nat :=
  (List.range (b.length / 8)).map (fun i => ((b.drop (8 * i)).take 8).foldr (fun x a => x + 256 * a) 0)

/-- The padding of SHA3 to blocks of 72 bytes. -/
def sha3Pad (b : List Nat) : List Nat :=
  let n := 72 - b.length % 72
  if n = 1 then b ++ [0x86] else b ++ [0x06] ++ List.replicate (n - 2) 0 ++ [0x80]

/-- SHA3-512: 64 bytes. -/
def sha3 (b : List Nat) : List Nat :=
  let p := sha3Pad b
  let s := (List.range (p.length / 72)).foldl (fun s i =>
    let m := lanes64 ((p.drop (72 * i)).take 72)
    keccakF ((List.range 25).map (fun k => Nat.xor (s.getD k 0) (m.getD k 0)))) (List.replicate 25 0)
  (s.take 8).flatMap (fun x => (List.range 8).map (fun k => x / 256 ^ k % 256))

/-! ## Numbers as bytes -/

/-- The `n` bytes of a number, least significant first (R2). -/
def bytesLittle (x n : Nat) : List Nat := (List.range n).map (fun i => x / 256 ^ i % 256)

/-- Bytes as one number, the first byte least significant (R2). -/
def littleEndian (b : List Nat) : Nat := b.foldr (fun x a => x + 256 * a) 0

end Sys2Proof.Machine
end

