-- ==== Sys2Proof/Machine/Maps.lean ====
section
/-! DEFINITION. Sparse maps and tables: the one place that reads, writes and orders them. -/

namespace Sys2Proof.Machine

/-- The word at key `k`; an unlisted key reads as zero. -/
def mget {w : Nat} (m : SMap w) (k : Nat) : BitVec w :=
  match m with
  | [] => 0
  | (k', v) :: t => if k = k' then v else mget t k

/-- Removes key `k`. -/
def mdel {w : Nat} (m : SMap w) (k : Nat) : SMap w :=
  match m with
  | [] => []
  | (k', v) :: t => if k = k' then mdel t k else (k', v) :: mdel t k

/-- Inserts a nonzero word, keeping the keys rising. -/
def mins {w : Nat} (m : SMap w) (k : Nat) (x : BitVec w) : SMap w :=
  match m with
  | [] => [(k, x)]
  | (k', v) :: t =>
    if k = k' then (k, x) :: t else if k < k' then (k, x) :: (k', v) :: t else (k', v) :: mins t k x

/-- Writes a word; writing zero removes the entry, so equal maps are equal lists. -/
def mset {w : Nat} (m : SMap w) (k : Nat) (x : BitVec w) : SMap w :=
  if x = 0 then mdel m k else mins m k x

/-- The canonical form: keys at or above `lo`, strictly rising, no zero word. -/
def mwfFrom {w : Nat} (lo : Nat) (m : SMap w) : Bool :=
  match m with
  | [] => true
  | (k, v) :: t => decide (lo ≤ k) && decide (v ≠ 0) && mwfFrom (k + 1) t

/-- The canonical form of a sparse map. -/
def mwf {w : Nat} (m : SMap w) : Bool := mwfFrom 0 m

/-- Drops every entry with a key in [lo, hi). -/
def mclear {w : Nat} (m : SMap w) (lo hi : Nat) : SMap w :=
  m.filter (fun c => decide (c.1 < lo ∨ hi ≤ c.1))

/-- The record at identifier `k`. -/
def tget {α : Type} (t : Tbl α) (k : Nat) : Option α :=
  match t with
  | [] => none
  | (k', a) :: r => if k = k' then some a else tget r k

/-- Changes the record at identifier `k`, if there is one. -/
def tmod {α : Type} (t : Tbl α) (k : Nat) (f : α → α) : Tbl α :=
  match t with
  | [] => []
  | (k', a') :: r => if k = k' then (k', f a') :: r else (k', a') :: tmod r k f

/-- Inserts a record, keeping identifiers rising. -/
def tins {α : Type} (t : Tbl α) (k : Nat) (a : α) : Tbl α :=
  match t with
  | [] => [(k, a)]
  | (k', a') :: r => if k < k' then (k, a) :: (k', a') :: r else (k', a') :: tins r k a

/-- Writes the record at identifier `k`: in its place, or inserted in order. -/
def tset {α : Type} (t : Tbl α) (k : Nat) (a : α) : Tbl α :=
  if (tget t k).isSome then tmod t k (fun _ => a) else tins t k a

/-- Removes the record at identifier `k`. -/
def tdel {α : Type} (t : Tbl α) (k : Nat) : Tbl α :=
  match t with
  | [] => []
  | (k', a') :: r => if k = k' then tdel r k else (k', a') :: tdel r k

/-- The records of a table. -/
def tvals {α : Type} (t : Tbl α) : List α := t.map Prod.snd

/-- The first list element that `f` accepts, with its index. -/
def findIdx? {α : Type} (f : α → Bool) : List α → Nat → Option (Nat × α)
  | [], _ => none
  | a :: r, i => if f a then some (i, a) else findIdx? f r (i + 1)

/-- The `n` bytes at key `a`, least significant first (R2), as one number. -/
def mbytes (m : SMap 8) (a : Nat) : Nat → Nat
  | 0 => 0
  | n + 1 => (mget m a).toNat + 256 * mbytes m (a + 1) n

/-- Writes the low `n` bytes of `x` at key `a`, least significant first (R2). -/
def msetBytes (m : SMap 8) (a : Nat) : Nat → Nat → SMap 8
  | 0, _ => m
  | n + 1, x => msetBytes (mset m a (BitVec.ofNat 8 x)) (a + 1) n (x / 256)

end Sys2Proof.Machine
end

