-- ==== Sys2Proof/Syntax.lean ====
section
/-! DEFINITION. The one inductive of instructions: one constructor per row of spec/opcode_table.json.
A Harran or hart word carries its raw fields under the names the table gives them; a near-bank
microinstruction carries the fields of R336; an event of a device, the host or another agent carries
what says which object it concerns and what data it brings. -/

namespace Sys2Proof

inductive Instr where
  -- Harran instruction words (R25, R45).
  | nop
  | bra (i : BitVec 23)
  | bc (s : BitVec 1) (p : BitVec 3) (i : BitVec 16)
  | bany (s : BitVec 1) (p : BitVec 3) (i : BitVec 16)
  | ball (s : BitVec 1) (p : BitVec 3) (i : BitVec 16)
  | jset (i : BitVec 16)
  | join
  | call (i : BitVec 23)
  | ret
  | jr (a : BitVec 7) (i : BitVec 9)
  | exit
  | mode (t : BitVec 1) (r : BitVec 2) (e : BitVec 4) (g : BitVec 1) (p : BitVec 3)
  | lit (i : BitVec 23)
  | xacq (n : BitVec 2)
  | xrel (n : BitVec 2)
  | rgb (s : BitVec 1) (p : BitVec 3) (i : BitVec 16)
  | refill (d : BitVec 7) (i : BitVec 16)
  | itemp (d : BitVec 7) (a : BitVec 7) (i : BitVec 9)
  | yield
  | brk (i : BitVec 23)
  | sysc (i : BitVec 23)
  | trapret (k : BitVec 1)
  | sret (k : BitVec 1)
  | vsw (j : BitVec 6)
  | claunch (d : BitVec 7) (a : BitVec 7) (i : BitVec 9)
  | cwait
  | capr (d : BitVec 7) (a : BitVec 7) (i : BitVec 9)
  | smov (d : BitVec 7) (b : BitVec 7)
  | sli (d : BitVec 7) (i : BitVec 16)
  | sadd (d : BitVec 7) (a : BitVec 7) (b : BitVec 7)
  | saddi (d : BitVec 7) (a : BitVec 7) (i : BitVec 9)
  | ssub (d : BitVec 7) (a : BitVec 7) (b : BitVec 7)
  | smul (d : BitVec 7) (a : BitVec 7) (b : BitVec 7)
  | smulh (d : BitVec 7) (a : BitVec 7) (b : BitVec 7)
  | smulhu (d : BitVec 7) (a : BitVec 7) (b : BitVec 7)
  | sdiv (d : BitVec 7) (a : BitVec 7) (b : BitVec 7)
  | sdivu (d : BitVec 7) (a : BitVec 7) (b : BitVec 7)
  | srem (d : BitVec 7) (a : BitVec 7) (b : BitVec 7)
  | sremu (d : BitVec 7) (a : BitVec 7) (b : BitVec 7)
  | sand (d : BitVec 7) (a : BitVec 7) (b : BitVec 7)
  | sor (d : BitVec 7) (a : BitVec 7) (b : BitVec 7)
  | sxor (d : BitVec 7) (a : BitVec 7) (b : BitVec 7)
  | sshl (d : BitVec 7) (a : BitVec 7) (b : BitVec 7)
  | sshr (d : BitVec 7) (a : BitVec 7) (b : BitVec 7)
  | ssra (d : BitVec 7) (a : BitVec 7) (b : BitVec 7)
  | smin (d : BitVec 7) (a : BitVec 7) (b : BitVec 7)
  | smax (d : BitVec 7) (a : BitVec 7) (b : BitVec 7)
  | sminu (d : BitVec 7) (a : BitVec 7) (b : BitVec 7)
  | smaxu (d : BitVec 7) (a : BitVec 7) (b : BitVec 7)
  | sclz (d : BitVec 7) (b : BitVec 7)
  | spopc (d : BitVec 7) (b : BitVec 7)
  | ssetlt (d : BitVec 7) (a : BitVec 7) (b : BitVec 7)
  | ssetltu (d : BitVec 7) (a : BitVec 7) (b : BitVec 7)
  | sseteq (d : BitVec 7) (a : BitVec 7) (b : BitVec 7)
  | gets (d : BitVec 7) (i : BitVec 9)
  | puts (a : BitVec 7) (i : BitVec 9)
  | sbcast (d : BitVec 7) (b : BitVec 7)
  | slane (h : BitVec 2) (d : BitVec 7) (a : BitVec 7) (b : BitVec 7)
  | vmov (h : BitVec 2) (d : BitVec 7) (b : BitVec 7)
  | vadd (h : BitVec 2) (d : BitVec 7) (a : BitVec 7) (b : BitVec 7)
  | vsub (h : BitVec 2) (d : BitVec 7) (a : BitVec 7) (b : BitVec 7)
  | vmul (h : BitVec 2) (d : BitVec 7) (a : BitVec 7) (b : BitVec 7)
  | vmulh (h : BitVec 2) (d : BitVec 7) (a : BitVec 7) (b : BitVec 7)
  | vmad (h : BitVec 2) (d : BitVec 7) (a : BitVec 7) (b : BitVec 7)
  | vmin (h : BitVec 2) (d : BitVec 7) (a : BitVec 7) (b : BitVec 7)
  | vmax (h : BitVec 2) (d : BitVec 7) (a : BitVec 7) (b : BitVec 7)
  | vabs (h : BitVec 2) (d : BitVec 7) (a : BitVec 7)
  | vneg (h : BitVec 2) (d : BitVec 7) (a : BitVec 7)
  | vand (h : BitVec 2) (d : BitVec 7) (a : BitVec 7) (b : BitVec 7)
  | vor (h : BitVec 2) (d : BitVec 7) (a : BitVec 7) (b : BitVec 7)
  | vxor (h : BitVec 2) (d : BitVec 7) (a : BitVec 7) (b : BitVec 7)
  | vnot (h : BitVec 2) (d : BitVec 7) (a : BitVec 7)
  | vshl (h : BitVec 2) (d : BitVec 7) (a : BitVec 7) (b : BitVec 7)
  | vshr (h : BitVec 2) (d : BitVec 7) (a : BitVec 7) (b : BitVec 7)
  | vsra (h : BitVec 2) (d : BitVec 7) (a : BitVec 7) (b : BitVec 7)
  | vclz (h : BitVec 2) (d : BitVec 7) (a : BitVec 7)
  | vpopc (h : BitVec 2) (d : BitVec 7) (a : BitVec 7)
  | vbfx (h : BitVec 2) (d : BitVec 7) (a : BitVec 7) (b : BitVec 7)
  | vbfi (h : BitVec 2) (d : BitVec 7) (a : BitVec 7) (b : BitVec 7)
  | vsel (h : BitVec 2) (d : BitVec 7) (a : BitVec 7) (b : BitVec 7)
  | vcmpeq (h : BitVec 2) (d : BitVec 7) (a : BitVec 7) (b : BitVec 7)
  | vcmplt (h : BitVec 2) (d : BitVec 7) (a : BitVec 7) (b : BitVec 7)
  | vcmple (h : BitVec 2) (d : BitVec 7) (a : BitVec 7) (b : BitVec 7)
  | vpand (d : BitVec 7) (a : BitVec 7) (b : BitVec 7)
  | vpor (d : BitVec 7) (a : BitVec 7) (b : BitVec 7)
  | vpxor (d : BitVec 7) (a : BitVec 7) (b : BitVec 7)
  | vpnot (d : BitVec 7) (a : BitVec 7)
  | vshfl (h : BitVec 2) (d : BitVec 7) (a : BitVec 7) (b : BitVec 7)
  | vradd (h : BitVec 2) (d : BitVec 7) (a : BitVec 7)
  | vrmin (h : BitVec 2) (d : BitVec 7) (a : BitVec 7)
  | vrmax (h : BitVec 2) (d : BitVec 7) (a : BitVec 7)
  | vscan (h : BitVec 2) (d : BitVec 7) (a : BitVec 7)
  | vlane (h : BitVec 2) (d : BitVec 7) (a : BitVec 7) (b : BitVec 7)
  | vaddi (d : BitVec 7) (a : BitVec 7) (i : BitVec 9)
  | fadd (h : BitVec 2) (d : BitVec 7) (a : BitVec 7) (b : BitVec 7)
  | fsub (h : BitVec 2) (d : BitVec 7) (a : BitVec 7) (b : BitVec 7)
  | fmul (h : BitVec 2) (d : BitVec 7) (a : BitVec 7) (b : BitVec 7)
  | fma (h : BitVec 2) (d : BitVec 7) (a : BitVec 7) (b : BitVec 7)
  | fms (h : BitVec 2) (d : BitVec 7) (a : BitVec 7) (b : BitVec 7)
  | fnma (h : BitVec 2) (d : BitVec 7) (a : BitVec 7) (b : BitVec 7)
  | fmin (h : BitVec 2) (d : BitVec 7) (a : BitVec 7) (b : BitVec 7)
  | fmax (h : BitVec 2) (d : BitVec 7) (a : BitVec 7) (b : BitVec 7)
  | fabs (h : BitVec 2) (d : BitVec 7) (a : BitVec 7)
  | fneg (h : BitVec 2) (d : BitVec 7) (a : BitVec 7)
  | fcmpeq (h : BitVec 2) (d : BitVec 7) (a : BitVec 7) (b : BitVec 7)
  | fcmplt (h : BitVec 2) (d : BitVec 7) (a : BitVec 7) (b : BitVec 7)
  | fcmple (h : BitVec 2) (d : BitVec 7) (a : BitVec 7) (b : BitVec 7)
  | fcmpun (h : BitVec 2) (d : BitVec 7) (a : BitVec 7) (b : BitVec 7)
  | fdiv (h : BitVec 2) (d : BitVec 7) (a : BitVec 7) (b : BitVec 7)
  | fsqrt (h : BitVec 2) (d : BitVec 7) (a : BitVec 7)
  | frcp (h : BitVec 2) (d : BitVec 7) (a : BitVec 7)
  | frsq (h : BitVec 2) (d : BitVec 7) (a : BitVec 7)
  | fexp2 (h : BitVec 2) (d : BitVec 7) (a : BitVec 7)
  | flog2 (h : BitVec 2) (d : BitVec 7) (a : BitVec 7)
  | fsin (h : BitVec 2) (d : BitVec 7) (a : BitVec 7)
  | fcos (h : BitVec 2) (d : BitVec 7) (a : BitVec 7)
  | ftanh (h : BitVec 2) (d : BitVec 7) (a : BitVec 7)
  | fclass (h : BitVec 2) (d : BitVec 7) (a : BitVec 7)
  | frint (h : BitVec 2) (d : BitVec 7) (a : BitVec 7)
  | fradd (h : BitVec 2) (d : BitVec 7) (a : BitVec 7)
  | fdota (h : BitVec 2) (d : BitVec 7) (a : BitVec 7) (b : BitVec 7)
  | aadd (h : BitVec 2) (d : BitVec 7) (a : BitVec 7) (b : BitVec 7)
  | areda (h : BitVec 2) (d : BitVec 7) (a : BitVec 7)
  | cvt (t : BitVec 4) (d : BitVec 7) (a : BitVec 7)
  | cvti (t : BitVec 4) (d : BitVec 7) (a : BitVec 7)
  | pack (h : BitVec 2) (d : BitVec 7) (a : BitVec 7) (b : BitVec 7)
  | unpk (h : BitVec 2) (d : BitVec 7) (a : BitVec 7) (b : BitVec 7)
  | qnt (s : BitVec 3) (w : BitVec 1) (k : BitVec 5) (d : BitVec 7) (a : BitVec 7)
  | dqnt (s : BitVec 3) (w : BitVec 1) (k : BitVec 5) (d : BitVec 7) (a : BitVec 7)
  | hadr (s : BitVec 3) (b : BitVec 5) (d : BitVec 7) (a : BitVec 7)
  | hadi (s : BitVec 3) (b : BitVec 5) (d : BitVec 7) (a : BitVec 7)
  | amax (h : BitVec 2) (d : BitVec 7) (a : BitVec 7) (b : BitVec 7)
  | adrn (s : BitVec 3) (c : BitVec 1) (d : BitVec 7) (a : BitVec 7)
  | afrom (s : BitVec 3) (e : BitVec 1) (d : BitVec 7) (a : BitVec 7)
  | fslt (d : BitVec 7) (w : BitVec 3) (s : BitVec 3)
  | vld8 (s : BitVec 4) (d : BitVec 7) (b : BitVec 5) (o : BitVec 7)
  | vld16 (s : BitVec 4) (d : BitVec 7) (b : BitVec 5) (o : BitVec 7)
  | vld32 (s : BitVec 4) (d : BitVec 7) (b : BitVec 5) (o : BitVec 7)
  | vld64 (s : BitVec 4) (d : BitVec 7) (b : BitVec 5) (o : BitVec 7)
  | vld128 (s : BitVec 4) (d : BitVec 7) (b : BitVec 5) (o : BitVec 7)
  | vst8 (s : BitVec 4) (d : BitVec 7) (b : BitVec 5) (o : BitVec 7)
  | vst16 (s : BitVec 4) (d : BitVec 7) (b : BitVec 5) (o : BitVec 7)
  | vst32 (s : BitVec 4) (d : BitVec 7) (b : BitVec 5) (o : BitVec 7)
  | vst64 (s : BitVec 4) (d : BitVec 7) (b : BitVec 5) (o : BitVec 7)
  | vst128 (s : BitVec 4) (d : BitVec 7) (b : BitVec 5) (o : BitVec 7)
  | sld (s : BitVec 4) (d : BitVec 7) (b : BitVec 5)
  | sst (s : BitVec 4) (d : BitVec 7) (b : BitVec 5)
  | vldc (s : BitVec 4) (d : BitVec 7) (b : BitVec 5) (o : BitVec 7)
  | pft (b : BitVec 5) (o : BitVec 7)
  | cpy (d : BitVec 7) (a : BitVec 7) (b : BitVec 7)
  | cpyb (d : BitVec 7) (a : BitVec 7) (b : BitVec 7)
  | wait (n : BitVec 4) (p : BitVec 4) (c : BitVec 4) (s : BitVec 4) (l : BitVec 4)
  | fence (s : BitVec 4)
  | flush (b : BitVec 5) (o : BitVec 7)
  | invl (b : BitVec 5) (o : BitVec 7)
  | zero (b : BitVec 5) (o : BitVec 7)
  | sealst (d : BitVec 7) (b : BitVec 5)
  | sealld (d : BitVec 7) (b : BitVec 5)
  | sealfin (d : BitVec 7) (a : BitVec 7)
  | sealchk (d : BitVec 7) (a : BitVec 7)
  | amoadd (s : BitVec 4) (d : BitVec 7) (b : BitVec 5) (o : BitVec 7)
  | amomin (s : BitVec 4) (d : BitVec 7) (b : BitVec 5) (o : BitVec 7)
  | amomax (s : BitVec 4) (d : BitVec 7) (b : BitVec 5) (o : BitVec 7)
  | amominu (s : BitVec 4) (d : BitVec 7) (b : BitVec 5) (o : BitVec 7)
  | amomaxu (s : BitVec 4) (d : BitVec 7) (b : BitVec 5) (o : BitVec 7)
  | amoand (s : BitVec 4) (d : BitVec 7) (b : BitVec 5) (o : BitVec 7)
  | amoor (s : BitVec 4) (d : BitVec 7) (b : BitVec 5) (o : BitVec 7)
  | amoxor (s : BitVec 4) (d : BitVec 7) (b : BitVec 5) (o : BitVec 7)
  | amoswp (s : BitVec 4) (d : BitVec 7) (b : BitVec 5) (o : BitVec 7)
  | amofadd (s : BitVec 4) (d : BitVec 7) (b : BitVec 5) (o : BitVec 7)
  | amoaadd (s : BitVec 4) (d : BitVec 7) (b : BitVec 5) (o : BitVec 7)
  | cas (s : BitVec 4) (d : BitVec 7) (b : BitVec 5) (o : BitVec 7)
  | redadd (s : BitVec 4) (d : BitVec 7) (b : BitVec 5) (o : BitVec 7)
  | redmin (s : BitVec 4) (d : BitVec 7) (b : BitVec 5) (o : BitVec 7)
  | redmax (s : BitVec 4) (d : BitVec 7) (b : BitVec 5) (o : BitVec 7)
  | redfadd (s : BitVec 4) (d : BitVec 7) (b : BitVec 5) (o : BitVec 7)
  | redaadd (s : BitVec 4) (d : BitVec 7) (b : BitVec 5) (o : BitVec 7)
  | watch (d : BitVec 7) (a : BitVec 7) (q : BitVec 3) (z : BitVec 1) (c : BitVec 3)
  | bara (d : BitVec 7) (i : BitVec 4)
  | barw (i : BitVec 4)
  | bars (d : BitVec 7) (i : BitVec 4)
  | opbind (d : BitVec 7) (a : BitVec 7) (s : BitVec 3)
  | opunb (d : BitVec 7) (a : BitVec 7)
  | opgnt (d : BitVec 7) (a : BitVec 7) (w : BitVec 4)
  | oprev (d : BitVec 7) (a : BitVec 7) (w : BitVec 4)
  | opstat (d : BitVec 7) (a : BitVec 7) (e : BitVec 2) (f : BitVec 1) (w : BitVec 4)
  | opdisc (d : BitVec 7) (a : BitVec 7) (l : BitVec 1) (w : BitVec 4)
  | opgang (d : BitVec 7) (a : BitVec 7) (n : BitVec 4) (p : BitVec 1) (s : BitVec 3)
  | nbld (d : BitVec 7) (a : BitVec 7)
  | nbexec (h : BitVec 2) (d : BitVec 7) (a : BitVec 7) (b : BitVec 7)
  | nbcpy (h : BitVec 2) (d : BitVec 7) (a : BitVec 7) (b : BitVec 7)
  | nbz (h : BitVec 2) (d : BitVec 7) (a : BitVec 7) (b : BitVec 7)
  | nbstat (d : BitVec 7) (a : BitVec 7) (e : BitVec 2)
  | pmap (d : BitVec 7) (a : BitVec 7) (p : BitVec 1) (r : BitVec 1) (l : BitVec 2)
  | punmap (d : BitVec 7) (a : BitVec 7) (r : BitVec 1) (l : BitVec 2)
  | tlbi (a : BitVec 7) (l : BitVec 1) (z : BitVec 6)
  | poolget (d : BitVec 7) (a : BitVec 7) (r : BitVec 1) (p : BitVec 1) (e : BitVec 1) (z : BitVec 2)
  -- Near-bank microinstructions (R336, R337).
  | nbEnd
  | nbSel (add : BitVec 1) (row : BitVec 6) (sj : BitVec 8)
  | nbCmp (cm : BitVec 2) (mask : BitVec 8) (key : BitVec 8)
  | nbWr (mask : BitVec 8) (key : BitVec 8)
  | nbTag (cm : BitVec 2)
  | nbCnt (imm : BitVec 12)
  | nbDjnz (imm : BitVec 12)
  -- Capability and notify words of the harts (R440).
  | csetbnd (b : BitVec 5) (a : BitVec 5) (d : BitVec 5)
  | candperm (b : BitVec 5) (a : BitVec 5) (d : BitVec 5)
  | cincoff (b : BitVec 5) (a : BitVec 5) (d : BitVec 5)
  | csetoff (b : BitVec 5) (a : BitVec 5) (d : BitVec 5)
  | cseal (b : BitVec 5) (a : BitVec 5) (d : BitVec 5)
  | cunseal (b : BitVec 5) (a : BitVec 5) (d : BitVec 5)
  | csubset (b : BitVec 5) (a : BitVec 5) (d : BitVec 5)
  | cjalr (b : BitVec 5) (a : BitVec 5) (d : BitVec 5)
  | cgetbase (e : BitVec 5) (a : BitVec 5) (d : BitVec 5)
  | cgetlen (a : BitVec 5) (d : BitVec 5)
  | cgetperm (a : BitVec 5) (d : BitVec 5)
  | cgettag (a : BitVec 5) (d : BitVec 5)
  | cclrtag (a : BitVec 5) (d : BitVec 5)
  | clc (i : BitVec 12) (a : BitVec 5) (d : BitVec 5)
  | csc (i : BitVec 7) (b : BitVec 5) (a : BitVec 5) (j : BitVec 5)
  | wfn (b : BitVec 5) (a : BitVec 5) (d : BitVec 5)
  | ntfy (b : BitVec 5) (a : BitVec 5) (d : BitVec 5)
  | ntfySet (b : BitVec 5) (a : BitVec 5) (d : BitVec 5)
  -- Steps of devices, the host, Quinmin and other nodes (95).
  | loadReturn (g : Nat)
  | storePerformed (g : Nat)
  | refusalArrival (g : Nat) (cls : Nat) (addr : BitVec 64) (lanes : BitVec 32)
  | engineLockRegister (die : Nat)
  | copyComplete (id : Nat)
  | waitSatisfied (g : Nat) (side : Nat)
  | fenceComplete (g : Nat) (side : Nat)
  | cwaitComplete (g : Nat) (side : Nat)
  | xacqGrant (core : Nat)
  | allocatorPark (core : Nat)
  | allocatorReturn (core : Nat)
  | barrierWaitEnd (g : Nat) (side : Nat)
  | monitorResume (g : Nat)
  | watchReread (g : Nat)
  | groupExitComplete (g : Nat)
  | notifyDependenceMet (grid : Nat)
  | dispatchAdmit (p : Nat)
  | dispatchPlaceBlock (p : Nat)
  | dispatchReturnBlock (p : Nat)
  | gangReserve (p : Nat)
  | queueEnable (p : Nat) (q : Nat)
  | queueDisable (p : Nat) (q : Nat)
  | queueTailRaise (p : Nat) (q : Nat)
  | queueRecordRead (p : Nat) (q : Nat)
  | serviceWake (g : Nat)
  | serviceResume (g : Nat)
  | stage2Resolve (p : Nat) (ia : BitVec 64) (leaf : BitVec 64) (ok : Bool)
  | biasFlipEnd (id : Nat)
  | atsInvalidation (pasid : Nat) (addr : BitVec 64)
  | operatorInputStore (core : Nat)
  | heldStoreApply (core : Nat)
  | operatorResultLoad (core : Nat)
  | tileStep (core : Nat) (mac : Nat)
  | trussCellsArrive (core : Nat) (stripe : Nat)
  | passEnd (core : Nat) (pass : Nat)
  | nbQueueHead (stack : Nat) (bank : Nat)
  | nbPreparationDone (cmd : Nat)
  | nbUnitEnd (cmd : Nat) (lane : Nat)
  | nbIssueLimit (cmd : Nat)
  | nbCommandComplete (cmd : Nat)
  | rds (cache : Nat) (line : Nat)
  | rdx (cache : Nat) (line : Nat)
  | upg (cache : Nat) (line : Nat)
  | wbd (cache : Nat) (line : Nat)
  | evc (cache : Nat) (line : Nat)
  | prbshr (cache : Nat) (line : Nat)
  | prbinv (cache : Nat) (line : Nat)
  | data (cache : Nat) (line : Nat)
  | datax (cache : Nat) (line : Nat)
  | prbrsp (cache : Nat) (line : Nat)
  | invack (cache : Nat) (line : Nat)
  | cmp (cache : Nat) (line : Nat)
  | wback (cache : Nat) (line : Nat)
  | snpdata (line : Nat)
  | snpinv (line : Nat)
  | snpcur (line : Nat)
  | hostCacheCompletion (id : Nat)
  | hostMemRead (addr : BitVec 64) (size : Nat)
  | hostMemWrite (addr : BitVec 64) (size : Nat) (data : BitVec 512)
  | notifyPageWrite (p : Nat) (i : Nat) (v : BitVec 64)
  | notifyPageAdd (p : Nat) (i : Nat) (v : BitVec 64)
  | queue0TailWrite (p : Nat) (v : BitVec 64)
  | biasreq (p : Nat) (v : BitVec 64)
  | pcerrClr (p : Nat) (v : BitVec 64)
  | linkEnable (h : Nat) (port : Nat)
  | linkDisable (h : Nat) (port : Nat)
  | linkClear (h : Nat) (port : Nat)
  | linkTrained (port : Nat) (width : Nat)
  | trainingAttemptFail (port : Nat)
  | linkTrainingFailed (port : Nat)
  | linkLockLost (port : Nat)
  | flitRetry (port : Nat)
  | urradRd (snode : Nat) (spart : Nat) (addr : BitVec 64) (size : Nat) (consume : Bool)
  | urradWr (snode : Nat) (spart : Nat) (addr : BitVec 64) (mask : BitVec 128) (data : BitVec 1024)
  | urradAmo (snode : Nat) (spart : Nat) (addr : BitVec 64) (op : Nat) (size : Nat) (a : BitVec 128) (b : BitVec 128)
  | urradNtf (snode : Nat) (spart : Nat) (idx : Nat) (add : Bool) (v : BitVec 64)
  | urradAnswer (id : Nat) (status : Nat) (poison : Bool) (data : BitVec 1024)
  | hartDeviceAccess (h : Nat) (store : Bool) (size : Nat) (addr : BitVec 64) (reg : Nat)
  | contextLoad (p : Nat) (c : Nat)
  | contextRun (p : Nat) (c : Nat)
  | contextSave (p : Nat) (c : Nat)
  | saveQuiesced (p : Nat) (c : Nat)
  | saveGridEnd (p : Nat) (c : Nat)
  | contextRestore (p : Nat) (c : Nat)
  | restoreGridEnd (p : Nat) (c : Nat)
  | contextDrain (p : Nat) (c : Nat)
  | contextDestroy (p : Nat) (c : Nat)
  | partitionCreate (p : Nat)
  | partitionResize (p : Nat)
  | partitionAbort (p : Nat)
  | partitionDestroy (p : Nat)
  | partitionEnter (p : Nat)
  | resizeAdmitEnd (p : Nat)
  | resizeDrainEnd (p : Nat)
  | resizeForce (p : Nat)
  | rehashHandover (p : Nat)
  | coreMove (p : Nat) (v : Nat)
  | pageMove (p : Nat)
  | resizeDetach (p : Nat)
  | bootStageVerify (stage : Nat) (ok : Bool) (svn : Nat) (pk : BitVec 512) (digest : BitVec 512)
  | getVersion (r : Nat)
  | getCapabilities (r : Nat)
  | negotiateAlgorithms (r : Nat)
  | getDigests (r : Nat)
  | getCertificate (r : Nat)
  | challenge (r : Nat) (nonce : BitVec 256)
  | getMeasurements (r : Nat) (nonce : BitVec 256)
  | keyExchange (r : Nat) (data : BitVec 512)
  | ideKmMessage (r : Nat) (stream : Nat) (op : Nat) (key : BitVec 256)
  | tdispMessage (r : Nat) (f : Nat) (msg : Nat) (arg : BitVec 256)
  | tagRefusalLimit (p : Nat) (c : Nat)
  | keystoneKillRequest (p : Nat) (c : Nat)
  | keyStoreError (p : Nat) (c : Nat) (other : Bool)
  | eraseAlarm (src : Nat)
  | correctedError (hop : Nat) (unit : Nat) (addr : BitVec 64)
  | repeatedCorrection (hop : Nat) (unit : Nat) (addr : BitVec 64)
  | powerGood
  | powerOnReset
  | pcieFundamentalReset
  | mrst (h : Nat)
  | powerComparison (meas : Nat) (temps : BitVec 104)
  | hbmHot (stack : Nat) (temp : Nat)
  | thermalTrip (unit : Nat) (temp : Nat)
  | mstatTripClear (h : Nat) (v : BitVec 64)
  | mpowMaxwClear (h : Nat) (v : BitVec 64)
  | registerWrite (agent : Nat) (reg : Nat) (idx : Nat) (v : BitVec 64)
  | powerRemoved
  | uncorrectableError (hop : Nat) (unit : Nat) (addr : BitVec 64)
  | ideStreamFailure (stream : Nat)
  | windowEntryWrite (h : Nat) (idx : Nat) (v : BitVec 128)
  | peeringEntryWrite (h : Nat) (idx : Nat) (v : BitVec 64)
  | secondStageInvalidation (p : Nat) (ia : BitVec 64)
  | tenantImageLoad (p : Nat) (digest : BitVec 512)
  | hartTrap (h : Nat) (cause : Nat) (tval : BitVec 64)
  | hartSret (h : Nat)
deriving DecidableEq, Repr

end Sys2Proof
end

