-- ==== Sys2Proof/Machine/State.lean ====
section
/-! DEFINITION. The state of the machine as plain data: every piece of state the spec names, the state
right after reset, and the reasons a step can stop. -/

namespace Sys2Proof.Machine

/-! ## Groups (R142 to R164) -/

/-- The five outstanding-operation counters of R172. -/
inductive OCls where
  | ld | st | cp | op | nb
deriving DecidableEq, Repr

/-- What a trap is raised with: cause (R249), faulters' mask, handler mask (R250), fault address, the
frame's INFO word, and for EMU the decoded-field registers of R48 in the order EMUWORD, EMUOP, EMUD, EMUA,
EMUB, EMUIMM. -/
structure TrapI where
  cause : Nat
  tmask : Word
  hmask : Word
  taddr : DWord
  info : DWord
  emu : Option (List DWord)
deriving DecidableEq, Repr

/-- What a live PC slot waits in (R142, R255); the arguments are what the waiting instruction has
already read. -/
inductive Wait where
  /-- Not waiting: the slot issues the word at its PC. -/
  | none
  /-- WAIT, with its 23-bit immediate (R180). -/
  | counters (limits : BitVec 23)
  /-- FENCE, with its sem (R181). -/
  | fence (sem : BitVec 4)
  /-- CWAIT (R140). -/
  | cwait
  /-- CLAUNCH stalled on the limit of 64 children: record address and destination (R138). -/
  | claunch (addr : DWord) (d : Nat)
  /-- XACQ waiting for the total `n` (R150, R161). -/
  | xacq (n : Nat)
  /-- BARA or BARS waiting for barrier `k` to leave `phase` before it arrives with count `c`. -/
  | barArrive (k : Nat) (phase : Word) (c : Nat) (andWait : Bool)
  /-- BARW or BARS waiting for barrier `k` to leave `phase` (R274). -/
  | barWait (k : Nat) (phase : Word)
  /-- RGB gathered: the target, the join PC it consumed, and the lanes that branch (R162). -/
  | rgb (tgt jpc : DWord) (branch : Word)
  /-- VSW of joint `id`, first draining the counters, then gathered (R137). -/
  | vsw (id : Nat) (gathered : Bool)
  /-- WATCH with a registered monitor: destination and monitor identifier (R277). -/
  | watchMon (d : Nat) (mon : Nat)
  /-- WATCH without a monitor: destination, address, size, comparison, value (R279). -/
  | watchPoll (d : Nat) (addr : DWord) (n cond : Nat) (v : DWord)
  /-- SYSC before its post: the lanes and the kind (R266). -/
  | sysc (lanes : Word) (kind : BitVec 23)
  /-- An engine operation that waits for its range locks (R189), or a bind that waits for those of others (R311), by identifier. -/
  | engine (id : Nat)
  /-- PMAP waiting for the bias flip `id`; destination of its code (R225, R230). -/
  | flip (d : Nat) (id : Nat)
  /-- OPUNB waiting for an operator to become FREE: core, index, destination (R312). -/
  | opFree (core idx d : Nat)
  /-- OPGNT or OPREV waiting for the stores accepted under the old grant: core, index, slot, destination (R313). -/
  | opGrant (core idx w d : Nat)
  /-- OPDISC waiting for the queued passes of its entries: core, index, slot or all, destination. -/
  | opDisc (core idx : Nat) (w : Option Nat) (d : Nat)
  /-- TRAPRET or SRET or a supervisor instruction waiting for outstanding accesses elsewhere. -/
  | drain
  /-- Stalled at issue until `n` more operations fit a counter (R142, R172). -/
  | room (c : OCls) (n : Nat)
  /-- A trap is being entered: the group issues nothing until its frame is written (R253). -/
  | trap (t : TrapI)
  /-- The record that was read back says WR = 1 of a wait that the device did not record there (R255). -/
  | resume
deriving DecidableEq, Repr

/-- One PC slot (R144): PC, execution mask, mode register, literal latch with its count (R35), join
latch with its pending bit (R37), wait, and the count of cycles it was passed over (R146). -/
structure Slot where
  live : Bool
  pc : DWord
  exec : Word
  mr : BitVec 11
  lat : DWord
  lc : BitVec 2
  jpc : DWord
  jp : Bool
  wait : Wait
  passed : Nat
deriving DecidableEq, Repr

/-- A free slot holds nothing (R144). -/
def Slot.free : Slot :=
  { live := false, pc := 0, exec := 0, mr := 7, lat := 0, lc := 0, jpc := 0, jp := false,
    wait := .none, passed := 0 }

/-- A divergence-stack entry (R147). -/
structure SEntry where
  pc : DWord
  mrs : BitVec 11
  mask : Word
  arr : Word
deriving DecidableEq, Repr

/-- Where the bytes of an access lie once it has been routed (R165 to R167, R211). -/
inductive Target where
  /-- Paged memory of this module: die and physical offset. -/
  | hbm (die off : Nat)
  /-- The same through a page of host bias: the access goes to the host over port C (R224, R247). -/
  | hdm (die off : Nat)
  /-- Scratchpad of a physical core. -/
  | spad (core off : Nat)
  /-- A notify register of a partition (R351). -/
  | notify (p i : Nat)
  /-- Operator window of a physical core (R294). -/
  | window (core off : Nat)
  /-- A word of a stack's sequencer store, seen through the near-bank control region (R339). -/
  | nbctl (stack idx : Nat)
  /-- Host memory: offset behind node 510. -/
  | host (off : Nat)
  /-- Another node, with the full address. -/
  | remote (node : Nat) (addr : DWord)
deriving DecidableEq, Repr

/-- One lane of a store: lane, address, where it goes, its size and its bytes. -/
structure StLane where
  lane : Nat
  addr : DWord
  tgt : Target
  size : Nat
  data : BitVec 128
deriving DecidableEq, Repr

/-- An outstanding operation of a group, in issue order (R172). `vw` are the vector-register writes
it still owes (key 32 * register + lane), `sw` the scalar write, `stores` the lanes still to be
performed, `pend` the answers still to come from elsewhere (other nodes, the host, windows of other cores), `fin` that it only awaits retirement, `sealed` that the registers it owes are a chunk of ciphertext
(R389), `lanes` the lanes that a refusal of a scalar access names (R173, R250), `rmw` that it reads although it returns nothing
(a RED, R200). -/
structure Out where
  uid : Nat
  cls : OCls
  sem : BitVec 4
  regs : List Nat
  vw : List (Nat × Word)
  sw : Option (Nat × DWord)
  stores : List StLane
  zero : Bool
  pend : Nat
  fin : Bool
  sealed : Bool
  lanes : Option Word
  rmw : Bool
deriving DecidableEq, Repr

/-- The refusal record of R173: class 0 ld, 1 st, 2 cp. -/
structure Refused where
  addr : DWord
  mask : Word
  cls : Nat
deriving DecidableEq, Repr

/-- Whether a group is resident, parked, waiting for its counters to exit, or gone (R142). -/
inductive GState where
  | resident | parked | exiting | exited
deriving DecidableEq, Repr

/-- A sealing or unsealing session of one group (R384, R388 to R390): the key and counter, the context and
partition it names, the chunks of ciphertext so far in issue order, how many were issued, and how it ended. -/
structure Seal where
  save : Bool
  key : BitVec 256
  ctr : DWord
  ctx : Nat
  part : Nat
  seg : Nat
  cts : List (BitVec 1024)
  issued : Nat
  ended : Bool
  code : Nat
deriving DecidableEq, Repr

/-- A group (R142). `v`, `s`, `p` are the register files (keys 32 * register + lane; register;
predicate). Every register not listed reads zero. `susp` keeps the waits of slots recorded with WR = 1
(R255): level of the frame or 0 for the park area, side, PC, wait. `recs` are the words of records on other nodes that an instruction asked for while it
waits at issue, with what came back; `s2at` is the die and page whose second stage a group parked with REASON 5
waits for. `tslot1`, `tslot2` and `plev2` are the read-only frame fields TSLOT and PLEV as
the device keeps them (R254). -/
structure Group where
  blk : Nat
  idx : Nat
  wgid : Nat
  grpid : Nat
  core : Nat
  gslot : Nat
  age : Nat
  st : GState
  a : Slot
  b : Slot
  v : SMap 32
  s : SMap 64
  p : SMap 32
  held : Nat
  stack : List SEntry
  out : List Out
  posted : Nat
  ref : Option Refused
  hlev : BitVec 2
  tcause : DWord
  tpc : DWord
  tmask : DWord
  taddr : DWord
  emuword : DWord
  emuop : DWord
  emud : DWord
  emua : DWord
  emub : DWord
  emuimm : DWord
  opst : BitVec 2
  nbwin : DWord
  tslot1 : Nat
  tslot2 : Nat
  plev2 : BitVec 2
  pidx : Nat
  reason : Nat
  seq : DWord
  xreq : Option Nat
  susp : List (Nat × Nat × DWord × Wait)
  kids : Nat
  sess : Option Seal
  recs : List (DWord × Option DWord)
  s2at : Option (Nat × Nat)
deriving DecidableEq, Repr

/-! ## Blocks and grids (R119 to R141) -/

/-- A variant entry (R120). -/
structure Variant where
  wgs : Nat
  groups : Nat
  xblk : Nat
  rank : Nat
  spad : Nat
  entry : DWord
deriving DecidableEq, Repr

/-- A joint-table entry (R121). -/
structure Joint where
  carry : Nat
  id : Nat
  vswpc : List DWord
  ats : List Nat
deriving DecidableEq, Repr

/-- The block's copy of the kernel descriptor (R119, R122). -/
structure KDesc where
  threads : Nat
  ophnd : Nat
  barriers : Nat
  monitors : Nat
  itemq : Nat
  rlocks : Nat
  emupc : DWord
  variants : List Variant
  joints : List Joint
deriving DecidableEq, Repr

/-- A named barrier (R270): phase, arrived block-group indices, expected count (none in ALL mode),
and whether the phase has begun. -/
structure Bar where
  phase : Word
  arrived : List Nat
  expect : Option Nat
  gathering : Bool
deriving DecidableEq, Repr

/-- A monitor in use (R276): `cap` is the captured value of a FIRED one. -/
structure Mon where
  die : Nat
  gid : Nat
  tgt : Target
  size : Nat
  cond : Nat
  val : DWord
  cap : Option DWord
deriving DecidableEq, Repr

/-- A placed block. `vcores` and `spadOff` give each workgroup's virtual core and allocation. `stop` says
that its groups issue nothing because a swap-out, save or move waits for their operations (R365, R376,
R405); `released` that a save has released its reservations and `claimed` that a restore claims its
scratchpad again (R376, R386). `mdies` are the dies whose monitor tables it holds its reservation in (R269). -/
structure Block where
  grid : Nat
  part : Nat
  ctx : Nat
  lin : Nat
  bx : Nat
  by_ : Nat
  bz : Nat
  variant : Nat
  desc : KDesc
  slots : List DWord
  vcores : List Nat
  spadOff : List Nat
  bars : List Bar
  items : List (List (Word × Word))
  mons : Tbl Mon
  ophnd : Nat
  rlocks : Nat
  itemq : Nat
  monitors : Nat
  mdies : List Nat
  joint : Bool
  swapped : Bool
  marked : Option Nat
  passed : Nat
  kids : Nat
  order : Nat
  prio : Nat
  resident : Bool
  nosw : Bool
  service : Bool
  stop : Bool
  released : Bool
  claimed : Bool
deriving DecidableEq, Repr

/-- The states of a grid (R131). -/
inductive GridSt where
  | queued | eligible | placing | running | draining | done | refused | faulted | killed
deriving DecidableEq, Repr

/-- Where a grid comes from: a queue, a block's CLAUNCH (group, block and grid), or the device itself for
a save or restore grid (R383). -/
inductive GridSrc where
  | queue (q : Nat)
  | child (gid blk parent : Nat)
  | device (restore : Bool)
deriving DecidableEq, Repr

/-- A grid (R131). `lrec` is the dispatcher's copy of its launch record (R123). -/
structure Grid where
  st : GridSt
  part : Nat
  ctx : Nat
  src : GridSrc
  addr : DWord
  lrec : List DWord
  gridid : Word
  depth : Nat
  next : Nat
  blkdone : Nat
  live : Nat
  code : Nat
  detail : Nat
  finfo : DWord
  later : Option (Nat × DWord)
  kids : Nat
  passed : Nat
deriving DecidableEq, Repr

/-! ## Operators (R291 to R327) -/

/-- The states of an operator handle (R296). -/
inductive OpSt where
  | bound | suspended | moving | unbinding
deriving DecidableEq, Repr

/-- An entry pair of an operator (R301). -/
structure Entry where
  q : Nat
  r : Bool
  fill : List Nat
  staged : SMap 8
  result : SMap 8
deriving DecidableEq, Repr

/-- A bound operator: its descriptor (R292), the format slot it was bound with (R80), its entries by
index w * S + s, and its grants. A truss (R319, R320) has one record per member: `members` of the root
lists their keys, the root's first, and `root` of another member names the root. `sk`, `sn`, `k0` and `n0`
are the rows and columns of the share at `deck` and its first row and column. -/
structure Oper where
  st : OpSt
  blk : Nat
  wg : Nat
  ctx : Nat
  part : Nat
  reuse : BitVec 3
  deck : Nat
  k : Nat
  n : Nat
  w : Nat
  s : Nat
  prio : Nat
  scale : Option Nat
  zeroabs : Bool
  overwrite : Bool
  raw : Bool
  readable : Bool
  trans : Bool
  fslot : Nat
  slot : List DWord
  entries : Tbl Entry
  grants : List DWord
  root : Option Nat
  members : List Nat
  split : Bool
  sk : Nat
  sn : Nat
  k0 : Nat
  n0 : Nat
deriving DecidableEq, Repr

/-- A queued pass (R302, R308): the root's key, its entry, the captured input bytes (rotated if ROT), whether
they were poisoned, the tiles still to be stepped as member index and tile, the cells so far by member
index * 65536 + column, the members whose cells the root has, the group and the operation whose op counter
it holds, and the grants of each macro that passed it over. -/
structure Pass where
  op : Nat
  entry : Nat
  input : SMap 8
  poisoned : Bool
  tiles : List (Nat × Nat)
  cells : SMap 128
  arrived : List Nat
  gid : Option (Nat × Nat)
  skips : Tbl Nat
deriving DecidableEq, Repr

/-- Who makes an access to a window: partition, context, block for a thread's or its copy's access, die,
source class (R305), node for class NODE, and the group with its outstanding operation. -/
structure Who where
  part : Nat
  ctx : Nat
  blk : Option Nat
  die : Nat
  cls : Nat
  node : Nat
  gid : Option (Nat × Nat)
deriving DecidableEq, Repr

/-- An access that waits at the owning core: an input store or a result load (R303, R304). `reg` is the
destination register of a thread's load, `held` says that the store waits for a place in the reservation
table, `req` names the request of another agent, `more` that a later part of it follows. `ident` is the operator it came to, by its
block and REUSE count, `susp` that this was SUSPENDED or MOVING (R297), and `grant` the grant it is checked under where an OPGNT or
OPREV has replaced that of its writer slot since it came (R313). -/
structure HeldAcc where
  core : Nat
  load : Bool
  consume : Bool
  who : Who
  reg : Nat
  lanes : List StLane
  held : Bool
  req : Option Nat
  more : Bool
  ident : Option (Nat × BitVec 3)
  susp : Bool
  grant : Option DWord
deriving DecidableEq, Repr

/-- An OPBIND or OPGANG whose checks have passed and which waits for engine locks on its deck or scales (R311, R324): the group, the
destination, the handle, and the operators by key, whose indices are claimed. -/
structure Bind where
  gid : Nat
  side : Nat
  d : Nat
  handle : DWord
  ops : List (Nat × Oper)
deriving DecidableEq, Repr

/-- An NBLD that waits for the microprograms of its partition (R349): the group, the destination, the first store index and the image. -/
structure NbLoad where
  part : Nat
  gid : Nat
  side : Nat
  d : Nat
  base : Nat
  img : List DWord
deriving DecidableEq, Repr

/-! ## Copies and range locks (R182 to R189) -/

/-- A range lock (R188): the die whose table holds it, the interval of virtual addresses, its kind,
owner and block, and the engine operation it belongs to. -/
structure RLock where
  die : Nat
  lo : Nat
  hi : Nat
  write : Bool
  part : Nat
  ctx : Nat
  blk : Nat
  op : Nat
deriving DecidableEq, Repr

/-- A copy (R185, R186) or a counted or posted near-bank command that waits for its range locks or is
under way: the issuing group, the source record, the destination records and where the status goes. `phase`
is 0 until its reads of other nodes and the host are sent, 1 until they are answered, 2 once all its writes are made, 3 once its
outcome is decided, 4 while its status is on its way to another node or the host, 5 for the status of a near-bank command there;
`prog` counts the units written, `waits` the unanswered requests; `buf` holds the bytes read from them by source byte number,
`fails` the reads that failed (source byte number, code, address), `wfails` the writes that did (code, address), `ends` the outcome:
units or elements done, code and address. -/
structure Copy where
  part : Nat
  ctx : Nat
  blk : Nat
  gid : Nat
  core : Nat
  user : Bool
  out : Nat
  src : List DWord
  dsts : List (List DWord)
  status : Option DWord
  locks : List RLock
  started : Bool
  phase : Nat
  prog : Nat
  waits : Nat
  buf : SMap 8
  fails : List (Nat × Nat × DWord)
  wfails : List (Nat × DWord)
  ends : Option (Nat × Nat × DWord)
deriving DecidableEq, Repr

/-! ## Near-bank commands (R330 to R346) -/

/-- The states of a unit while its command is there (R340): waiting in its bank's queue, PREPARING, RUNNING,
STOPPED, or back in IDLE. -/
inductive NbSt where
  | queued | preparing | running | stopped | ended
deriving DecidableEq, Repr

/-- The unit of one lane of a command (R334): its lane, state, status code (0 none so far), selectors, KEY, MASK, TAG,
C and IP, and the physical pages of the lane's first and second span as translated at the start. -/
structure NbUnit where
  lane : Nat
  st : NbSt
  code : Nat
  sel : List (BitVec 6)
  key : BitVec 8
  mask : BitVec 8
  tag : BitVec 8192
  c : BitVec 12
  ip : Nat
  src : List Nat
  dst : List Nat
deriving DecidableEq, Repr

/-- A near-bank command (R330, R342): kind 0 NBEXEC, 1 NBCPY, 2 NBZ; the command word; the two spans of each lane; the
status block; its locks, and whether they are registered; its units; the microinstructions issued, the store indices of
the last of them, and the fault window. -/
structure NbCmd where
  kind : Nat
  part : Nat
  ctx : Nat
  blk : Nat
  gid : Nat
  user : Bool
  word : DWord
  spans : List (Nat × DWord × DWord)
  status : Option DWord
  locks : List RLock
  started : Bool
  out : Nat
  units : List NbUnit
  issued : Nat
  past : List Nat
  first : Nat
  last : Nat
deriving DecidableEq, Repr

/-! ## Paging (R211 to R233) -/

/-- A leaf that an MTLB may still use although the table no longer holds it (R217): partition,
context, die, offset and level of the leaf, and the old entry. `used` says that an MTLB may still hold it; one that an
invalidation other than a TLBI has dropped still keeps its frame RETIRING (R222, R223). -/
structure Stale where
  part : Nat
  ctx : Nat
  die : Nat
  off : Nat
  lvl : Nat
  pte : DWord
  used : Bool
deriving DecidableEq, Repr

/-- A bias flip in progress (R225, R226): the leaf and the bias it goes to. `host` is the port H
function whose BIASREQ asked for it, `none` for a PMAP. `snoop` says of the back-invalidation snoops of a flip to device bias that
they are to be sent (0), that they are under way (1), or that the host holds no line any more (2). -/
structure Flip where
  part : Nat
  ctx : Nat
  die : Nat
  off : Nat
  lvl : Nat
  run : Bool
  pte : DWord
  toHost : Bool
  host : Option Nat
  snoop : Nat
deriving DecidableEq, Repr

/-- A frame that a context holds (R220): intermediate frame, size code of R233, kind, whether it is
free in the pool, how many leaves map it, and whether it is an intermediate table, which lies outside every virtual
space and stays until the context is destroyed (R212, R220). -/
structure Frame where
  die : Nat
  num : Nat
  size : Nat
  br : Bool
  free : Bool
  maps : Nat
  table : Bool
deriving DecidableEq, Repr

/-! ## Queues and the dispatcher (R351 to R368) -/

/-- The states of a queue (R357). -/
inductive QSt where
  | off | active | blocked | halted
deriving DecidableEq, Repr

/-- What the dispatcher keeps of a queue (R354 to R357): its state, the last TAIL it read, its HEAD, HCAUSE and HADDR,
the fields of its record as they were when it was enabled, its head grid, and the grid of its previous record; `en` is EN as the
dispatcher last saw it: a queue whose context was destroyed stays OFF until EN has been 0 (R358). -/
structure Queue where
  st : QSt
  tail : DWord
  head : DWord
  cause : Nat
  haddr : DWord
  ring : DWord
  ctx : Nat
  logn : Nat
  serial : Bool
  grid : Option Nat
  prev : Option Nat
  en : Bool
deriving DecidableEq, Repr

/-- A source of the round robin of R361: a queue, the block whose groups launched child grids, or the device for a
save or restore grid of a context; and a block that waits to return, which may reserve as a source does (R366). -/
inductive Src where
  | queue (q : Nat)
  | block (b : Nat)
  | device (ctx : Nat)
  | ret (b : Nat)
deriving DecidableEq, Repr

/-- A reservation of cores (R364): its source, its PRIO, the variant reserved for and the physical
cores. -/
structure Resv where
  src : Src
  prio : Nat
  variant : Nat
  cores : List Nat
deriving DecidableEq, Repr

/-- The dispatcher of a partition (R360 to R364): decisions made, marks given, per PRIO the cycle of
child sources and the source served last, the reserving grid or block with its run, those that
wait to reserve, and the words of structures on other nodes that it has asked for, with what came back. -/
structure Disp where
  decisions : Nat
  marks : Nat
  cycle : List (Nat × Nat)
  last : List (Nat × Src)
  reserving : Option Resv
  waiters : List Src
  recs : List (DWord × Option (Option DWord))
deriving DecidableEq, Repr

/-! ## Contexts and partitions (R369 to R409) -/

/-- The states of a context (R373). -/
inductive CtxSt where
  | created | loaded | running | preempting | saved | restoring | faulted | destroyed
deriving DecidableEq, Repr

/-- A context as the device holds it: the fields of its record (R369) that it read, and what it keeps
beside the record. -/
structure Ctx where
  st : CtxSt
  addr : Nat
  dseq : Word
  prot : Bool
  pasid : Nat
  suph : DWord
  frame : DWord
  park : DWord
  npark : Nat
  spark : Nat
  ring : DWord
  swapbase : DWord
  nswap : Nat
  swapstride : Nat
  saverec : DWord
  restrec : DWord
  roots : List DWord
  frames : List Frame
  nv : Bool
  nidx : Nat
  stopped : Bool
  before : CtxSt
  sgrid : Option Nat
  checks : List (Nat × Nat)
  cmd : Nat
  cseq : Word
  ph : Nat
deriving DecidableEq, Repr

/-- The states of a partition (R396). -/
inductive PartSt where
  | active | resizing | destroying
deriving DecidableEq, Repr

/-- A partition (R391 to R396): its control block's address and the fields the device holds. `cmap`
maps virtual cores (16-bit entries of R394); `slices` and `chans` are bit masks by die. -/
structure Part where
  st : PartSt
  pcb : Nat
  phase : Nat
  dseq : Word
  capen : BitVec 18
  ndie : Nat
  qtab : DWord
  ctab : Nat
  sqbase : Nat
  sqlen : Nat
  s2root : List DWord
  cmap : SMap 16
  slices : List Nat
  chans : List Nat
  tmap : SMap 16
  tslices : List Nat
  tchans : List Nat
  force : Bool
  forced : Bool
  sweep : List (Nat × Nat)
  moving : Option Nat
  cmd : Nat
  cseq : Word
deriving DecidableEq, Repr

/-- A service-call request (R264): its sequence number, group, lanes, kind, entry slot, and whether
the reply was accepted. `wake` is the home of the wake word and `hit` that a write has made it equal
to the sequence number. `asked`, `waits` and `bad` are for reply buffers on other nodes and in host memory: that they were sent,
the answers still to come, and the lanes whose buffer was refused (R267). -/
structure SvcReq where
  part : Nat
  ctx : Nat
  seq : DWord
  gid : Nat
  lanes : Word
  kind : Nat
  slot : DWord
  wake : Target
  hit : Bool
  woken : Bool
  args : List Nat
  reply : List DWord
  asked : Bool
  waits : Nat
  bad : List Nat
deriving DecidableEq, Repr

/-- A write of the device that waits for a second-stage resolution, for the end of a flip, or for another node (R124, R184,
R218, R225), with the notify increment that follows it, if any; `kid` is the group, block and grid that launched the grid whose end
it reports (R139), `asked` and `waits` that its words were sent and the answers still to come. -/
structure DevWrite where
  part : Nat
  ctx : Nat
  addr : DWord
  words : List DWord
  inc : Option (Nat × DWord)
  kid : Option (Nat × Nat × Nat)
  asked : Bool
  waits : Nat
deriving DecidableEq, Repr

/-! ## Links (R410 to R428) -/

/-- The states of a link (R411). -/
inductive LinkSt where
  | down | training | up | degraded | failed
deriving DecidableEq, Repr

/-- A link with what LSTAT shows of it (R410, R413). -/
structure Link where
  st : LinkSt
  en : Bool
  att : Nat
  width : Nat
  retry : Nat
deriving DecidableEq, Repr

/-- A link after reset (R411, R413). -/
def Link.reset : Link := { st := .down, en := false, att := 0, width := 0, retry := 0 }

/-- The kinds of request to another node or the host (R425): a read, a consuming read, a write, an RMW with
its operation in R288's order (9 and up as R287 numbers them), a notify access. -/
inductive RKind where
  | rd | rdc | wr | amo | ntf
deriving DecidableEq, Repr

/-- What a request to another node or the host belongs to: a lane of a vector access (`n` registers from
`reg`), a scalar load, a byte range of a copy's source, a write of a copy, a hart's access, a word that a dispatcher
reads, a back-invalidation of a flip, a part of a device write, or a lane's reply buffer. -/
inductive ROwner where
  | lane (gid uid lane reg n : Nat)
  | scalar (gid uid reg : Nat)
  | pair (gid uid lane reg : Nat)
  | record (gid : Nat) (lanes : Word)
  | watch (gid : Nat) (lanes : Word)
  | copyIn (id off : Nat)
  | copyOut (id : Nat)
  | hart (h reg : Nat)
  | disp (p : Nat)
  | flip (id : Nat)
  | post (id : Nat)
  | reply (id lane : Nat)
deriving DecidableEq, Repr

/-- A request to another node, or to the host (node 510), that has not been answered (R424 to R428): its
source agent with its partition and context (R211), and the port it went out on; without one it waits at its source. -/
structure RReq where
  src : Nat
  part : Nat
  ctx : Nat
  node : Nat
  addr : DWord
  kind : RKind
  op : Nat
  size : Nat
  a : BitVec 128
  b : BitVec 128
  port : Option Nat
  owner : ROwner
deriving DecidableEq, Repr

/-- Who waits for the answer to a request of another agent: the host over port C of a partition, another node,
or a hart with its destination register. -/
inductive InOrigin where
  | host (p : Nat)
  | node (snode : Nat)
  | hart (h reg : Nat)
deriving DecidableEq, Repr

/-- A request of another agent that the owner holds (R225, R297, R303, R304, R421, R427). `kind` is as for
outgoing requests; `mask` gives the bytes of a write within its line; `user` and `wcok` are the level and WCOK of a
hart's request (R437); `peer` is the peering entry that admitted a node's request. For the host, `a` is the host
physical address. -/
structure InReq where
  origin : InOrigin
  part : Nat
  ctx : Nat
  cls : Nat
  node : Nat
  addr : DWord
  kind : RKind
  op : Nat
  size : Nat
  mask : BitVec 128
  data : BitVec 1024
  a : BitVec 128
  b : BitVec 128
  user : Bool
  wcok : Bool
  peer : Nat
deriving DecidableEq, Repr

/-! ## The service cluster (R429 to R444) -/

/-- The levels of a hart (R429). -/
inductive HLevel where
  | m | hs | vs | vu
deriving DecidableEq, Repr

/-- A Blutos hart (R429 to R435): PC, integer, float and vector registers, the CSRs by number, the capability
registers k0 to k15 and KP (bit 128 is the tag, above the two words of R433), its level, ICR, an access that waits
for its answer, a refusal it has still to take as an access fault (its cause and address), a word fetched from
host memory, and the reservation of an LR: its address and what it read. -/
structure Hart where
  pc : DWord
  x : SMap 64
  f : SMap 64
  v : SMap 256
  csr : SMap 64
  k : SMap 129
  kp : BitVec 129
  lvl : HLevel
  icr : DWord
  busy : Bool
  refused : Option (Nat × DWord)
  fetched : Option (DWord × Word)
  resv : Option (DWord × Nat)
deriving DecidableEq, Repr

/-- A hart after reset (log 11): M level, ICR.PART 16 (R430), every register zero but the CSRs the family fixes: UXL of
vsstatus, SXL and UXL of mstatus, misa (RV64 with A, C, D, F, H, I, M, S, U and V), VSXL of hstatus. -/
def Hart.reset : Hart :=
  { pc := 0, x := [], f := [], v := [], csr := [(0x200, 0x200000000), (0x300, 0xA00000000), (0x301, 0x80000000003411AD), (0x600, 0x200000000)], k := [], kp := 0, lvl := .m, icr := 16, busy := false, refused := none, fetched := none, resv := none }

/-! ## Error records (R455) -/

/-- An error record of the keystone's log. -/
structure ErrRec where
  seq : Nat
  cls : Nat
  part : Nat
  hop : Nat
  kind : Nat
  addr : DWord
  count : Nat
  ctx : Nat
  unit : Nat
deriving DecidableEq, Repr

/-! ## Coherence (R234 to R248): states of copies and what homes track; the values lie in memory, since no protocol step changes
what a read returns (R169) -/

/-- The messages of R239 that a step of the table receives. -/
inductive CKind where
  | prbShr | prbInv | data | dataX | prbRsp | invAck | cmp | wbAck
deriving DecidableEq, Repr

/-- A message under way to or from a cache. -/
structure CMsg where
  kind : CKind
  cache : Nat
  line : Nat
deriving DecidableEq, Repr

/-- The requests of R239 to a home, and the two that a place performs for the level above it: a downgrade and an invalidation
(R244, R246). -/
inductive CReqK where
  | rds | rdx | upg | wbd | evc | fshr | finv
deriving DecidableEq, Repr

/-- A transaction on a line, or a request that waits for it. `place` is 0 at the home slice or the port C agent and d + 1 at the RDC
of die d (R244); `slice` the home slice that the request goes to (R398); `probes` the holders that have still to answer;
`sent` that data are on their way to the requester; `keep` that the owner stays in O; `grant` the state the requester will
take; `up` that the place waits for its own home, or the port for the host (R244, R246). -/
structure CTx where
  line : Nat
  place : Nat
  req : Nat
  kind : CReqK
  probes : List Nat
  sent : Bool
  keep : Bool
  grant : BitVec 3
  up : Bool
  slice : Nat
deriving DecidableEq, Repr

/-- A request of a cache that waits for its data and its Cmp. -/
structure CWait where
  line : Nat
  cache : Nat
  data : Bool
  cmp : Bool
deriving DecidableEq, Repr

/-- What the port C agent sends to the host: a D2H request about a host line, its response to a snoop with whether a copy held
data (R246), an access of the device to a page of host bias (R224), and the back-invalidation snoops (BISnpInv) for the lines
of a page (R226, R247). -/
inductive CHost where
  | rdShared (line : Nat)
  | rdOwn (line : Nat)
  | rdOwnNoData (line : Nat)
  | dirtyEvict (line : Nat)
  | cleanEvict (line : Nat)
  | snoop (line : Nat) (held : Bool)
  | access (die off : Nat) (write : Bool)
  | biSnpInv (die off n : Nat)
deriving DecidableEq, Repr

/-- The state of the protocol. -/
structure Coh where
  /-- The state of each copy, by line * 2048 + cache: 1 M, 2 O, 3 E, 4 S (R236). -/
  cst : SMap 3
  /-- The die directory: the 19 sharer bits of each 512-byte region, by line / 4 (R237). -/
  dir : SMap 19
  /-- The owner of each line at a place, by line * 8 + place: cache * 8 + state (R237, R244). -/
  own : SMap 13
  /-- The bay filters, by line * 64 + bay (R237, R244). -/
  bay : SMap 8
  /-- The snoop filter of port C: the RDCs that hold each host line (R246). -/
  snp : SMap 4
  /-- Transactions under way, requests that wait for a busy line, requests of caches that are not complete, messages under
  way, and eviction buffers with whether they were handed over (R235, R239 to R242). -/
  ctxn : List CTx
  cqueue : List CTx
  cwait : List CWait
  cmsgs : List CMsg
  evict : List (Nat × Nat × Bool)
  /-- What the port C agent has sent to the host, oldest first (R246, R247). -/
  tell : List CHost
deriving DecidableEq, Repr

/-- Nothing is cached. -/
def Coh.reset : Coh :=
  { cst := [], dir := [], own := [], bay := [], snp := [], ctxn := [], cqueue := [], cwait := [], cmsgs := [], evict := [], tell := [] }

/-! ## The keystone, power and reset (R445 to R462) -/

/-- The key store's entry of a protected context: K, C, the segments of its current image, and its TAG refusals
(R375, R448, R450). -/
structure KeyEnt where
  key : BitVec 256
  ctr : DWord
  nseg : Nat
  refusals : Nat
deriving DecidableEq, Repr

/-- Why the module is held in reset or does not run: nothing, power not good, the boot chain, an ERASE alarm, or a
thermal trip (R445, R449, R457, R460). -/
inductive Hold where
  | none | power | boot | erase | trip
deriving DecidableEq, Repr

/-- The state of an IDE stream: no keys, keys programmed, secure, or failed (R415, R416). -/
inductive IdeSt where
  | off | keyed | secure | failed
deriving DecidableEq, Repr

/-- The SPDM connection of the DOE mailbox: how far it has been negotiated, and the sessions that are open (R447). -/
structure Spdm where
  stage : Nat
  sessions : List Nat
deriving DecidableEq, Repr

/-! ## The machine -/

/-- The agent whose step is running (log 1). -/
inductive Issuer where
  | none
  | slot (gid side : Nat)
  | hart (h : Nat)
  | nb (cmd : Nat)
  | device
deriving DecidableEq, Repr

/-- A move that waits to be taken: by a PC slot, a hart, a near-bank command, an event of the
table, or a read of a function's BAR0 over port H, of some bytes at an offset, to which no row of the table corresponds (log 1). -/
inductive Move where
  | slot (gid side : Nat)
  | hart (h : Nat)
  | nb (cmd : Nat)
  | event (i : Instr)
  | bar (fn off size : Nat)
deriving DecidableEq, Repr

/-- A message the module has sent to the outside and nobody has taken yet. -/
inductive Msg where
  /-- An MSI-X interrupt of a partition's function: partition and vector (R422). -/
  | msix (p vec : Nat)
  /-- An answer to the host: partition, code, data. -/
  | host (p code : Nat) (data : BitVec 512)
  /-- A request over Urrad: identifier, node, source partition and context (R211), address, kind and operation, size, data
  (R425). -/
  | urrad (id node part ctx : Nat) (addr : DWord) (kind op size : Nat) (a b : BitVec 128)
  /-- An answer over Urrad: node, status, whether the data are poisoned, data. -/
  | urradAns (node status : Nat) (poison : Bool) (data : BitVec 1024)
  /-- An answer of the keystone: request, code, data, and the ML-DSA-87 signature where it is signed (R447). -/
  | spdm (req code : Nat) (data : List Byte) (sig : Option (BitVec 37016))
  /-- A signal to Quinmin: partition, context, code, address. -/
  | quinmin (p c code : Nat) (addr : DWord)
  /-- The answer to a read of a function's BAR0 over port H: function, offset, data (R352, R359, R414). -/
  | bar (fn off : Nat) (data : DWord)
  /-- An ATS invalidation completion (R228). -/
  | atsDone (pasid : Nat)
deriving DecidableEq, Repr

/-- The whole machine, as the spec gives it. Fields marked "model" are the model's own. -/
structure State where
  /-- Resident and parked groups (R142). -/
  groups : Tbl Group
  /-- Placed blocks (R127 to R129). -/
  blocks : Tbl Block
  /-- Grids (R131). -/
  grids : Tbl Grid
  /-- Operators that are not FREE, by physical core * 64 + index (R291, R296). -/
  ops : Tbl Oper
  /-- Operators that wait for engine locks before they are bound (R311, R324). -/
  binds : Tbl Bind
  /-- Loads of the sequencer stores that wait for running microprograms (R349). -/
  nblds : Tbl NbLoad
  /-- REUSE counts of the handle indices (R291). -/
  opReuse : SMap 3
  /-- Queued passes, by identifier in the order they were queued (R302, R308). -/
  passes : Tbl Pass
  /-- Accesses that wait at an operator's owner (R303, R304). -/
  heldAcc : List HeldAcc
  /-- Per (core * 32 + macro): the source served last and the tiles granted (R308). -/
  arbLast : Tbl Nat
  /-- The grants of a macro that passed over a source at its priority: key (core * 32 + macro) * 2^40 + source (R308). -/
  arbSkips : Tbl Nat
  /-- HBM bytes: key die * 2^53 + physical offset (R165, R212). -/
  hbm : SMap 8
  /-- Capability tags, one per 16 bytes of HBM (R438). -/
  ctag : SMap 1
  /-- Poison marks of HBM granules (R452). -/
  poison : SMap 1
  /-- Host memory behind node 510. -/
  host : SMap 8
  /-- Poison marks of granules of host memory, made where a copy in a cache of the device failed its check (R248, R452). -/
  hostPoison : SMap 1
  /-- The second-stage roots of Quinmin's service space, partition 16, by die (R430). -/
  svcRoots : List DWord
  /-- Scratchpad bytes: key core * 2^21 + offset (R166). -/
  spad : SMap 8
  /-- Swizzle tags of 64-byte scratchpad lines: key core * 2^15 + line (R171). -/
  swz : SMap 3
  /-- Notify registers: key partition * 4096 + index (R351). -/
  notify : SMap 64
  /-- Cycle counters of the cores (R43). -/
  cycles : SMap 64
  /-- Range locks (R188). -/
  locks : List RLock
  /-- Engine operations waiting for locks or under way, in arrival order (R185, R189). -/
  copies : Tbl Copy
  /-- Leaves that MTLBs may still use (R217). -/
  stale : List Stale
  /-- Words of second-stage tables that MTLBs may still use: the place in HBM and the old word (R217). -/
  s2old : List (Nat × DWord)
  /-- Bias flips (R226). -/
  flips : Tbl Flip
  /-- Host pages that the host IOMMU refuses: PASID and page (R227, log 7). -/
  hostRefused : List (Nat × Nat)
  /-- Second-stage failures that Quinmin must resolve: partition, die and intermediate page; and
  those it has refused (R218). -/
  s2wait : List (Nat × Nat × Nat)
  s2refused : List (Nat × Nat × Nat)
  /-- Service-call requests (R264). -/
  svcreqs : Tbl SvcReq
  /-- Queues that are not OFF, by partition * 256 + number (R357). -/
  queues : Tbl Queue
  /-- Dispatchers (R360). -/
  disps : Tbl Disp
  /-- Contexts, by partition * 1024 + number (R369). -/
  ctxs : Tbl Ctx
  /-- Partitions (R396). -/
  parts : Tbl Part
  /-- The module's node number, MNODE: 0 to 383, or 509 when it is no viaduct member (R19, R461). -/
  mnode : Nat
  /-- Virtual cores that a resize has moved to another physical core before DONE: key partition * 512
  + virtual core (R405). -/
  moved : SMap 16
  /-- Device writes that wait (R124, R218). -/
  devq : Tbl DevWrite
  /-- Poison marks of scratchpad granules: key core * 2^18 + offset div 8 (R452). -/
  spoison : SMap 1
  /-- The links of the twenty ports (R410). -/
  links : List Link
  /-- The route table: a mask of ports by node (R424). -/
  routes : SMap 18
  /-- The TDISP state of each partition's VF: 0 CONFIG_UNLOCKED, 1 CONFIG_LOCKED, 2 RUN, 3 ERROR (R416). -/
  tdi : SMap 2
  /-- The port C window table: entry of a partition (R419). -/
  windows : SMap 128
  /-- The peering table (R423). -/
  peers : SMap 64
  /-- BIASREQ and the two words of PCERR by function; PF0 is 16 (R417, R421). -/
  biasreq : SMap 64
  pcerr : SMap 64
  pcerrAddr : SMap 64
  /-- Requests to other nodes and to the host that are not answered (R424 to R428). -/
  reqs : Tbl RReq
  /-- Requests of other agents that an owner holds (R421, R427). -/
  inreqs : Tbl InReq
  /-- The 48 Blutos harts (R429); CSR 0xF14 of each, mhartid, is its number (log 11). -/
  harts : Tbl Hart
  /-- The error log, oldest record first, and the records lost (R455). -/
  elog : List ErrRec
  elogLost : Nat
  elogSeq : Nat
  /-- The coherence protocol: copies, tracking, transactions and messages (R234 to R248). -/
  co : Coh
  /-- Sequencer stores: stack * 4096 + physical index (R338, log 5). -/
  seqst : SMap 64
  /-- Near-bank commands that wait for their locks or are under way, in arrival order (R330, R342). -/
  nbcmds : Tbl NbCmd
  /-- The key store: by partition * 1024 + context (R375, R448). -/
  keys : Tbl KeyEnt
  /-- The partition registers (R392). -/
  pregs : SMap 64
  /-- Measurements by index, 64 bytes each (R447). -/
  meas : SMap 512
  /-- The SPDM connection and the IDE streams of the functions, PF0 being 16 (R415, R447). -/
  spdm : Spdm
  ide : Tbl IdeSt
  /-- The keys of the IDE streams, stream 17 being CXL IDE (R415, R418, R448). -/
  ideKeys : SMap 256
  /-- The nonce of each interface's last lock (R416). -/
  tdiNonce : SMap 256
  /-- Whether the key store holds the identity key, and the measurement its alias key was derived from (R446, R448). -/
  ident : Bool
  aliasOf : Option (BitVec 512)
  /-- Addresses and data of the MSI-X vectors, the vectors that are not masked, and the pending bits: key function *
  256 + vector (R414). -/
  msix : SMap 96
  msixOn : SMap 1
  msixPend : SMap 1
  /-- Per unit, the place of its newest corrected errors and how many in a row (R454). -/
  corr : Tbl (Nat × Nat)
  /-- Why the module does not run, and the boot stages that have been verified (R445, R461). -/
  hold : Hold
  stage : Nat
  /-- The power-good input (R457), and whether a thermal trip ends this power cycle (R460). -/
  pgood : Bool
  tripped : Bool
  /-- Whether an ERASE has left its log to the next power cycle (R449). -/
  logKeep : Bool
  /-- The management block (R462): MSTAT.TRIP and BOOT, PLIM, MAXW and NOWW, CMAX and STEP, TWARN, the temperatures of
  MTEMP and MSTKT; and the stacks whose refresh is doubled (R460). -/
  trip : Bool
  bootSt : Nat
  plim : BitVec 12
  maxw : Word
  noww : Word
  cmax : BitVec 4
  steps : BitVec 20
  twarn : BitVec 8
  temps : BitVec 40
  stemps : BitVec 64
  refresh2 : BitVec 8
  /-- Messages sent to the outside, oldest first (model; log 1). -/
  sent : List Msg
  /-- Moves waiting to be taken, first first (model; log 1). -/
  inputs : List Move
  /-- The core whose cycle is next, and its ports' view (model; log 2). -/
  turn : Nat
  /-- The agent whose step is running (model; log 1). -/
  issuer : Issuer
  /-- Steps taken; the argument of every free value (model; log 14). -/
  clock : Nat
  /-- The next identifier (model; log 14). -/
  uid : Nat
deriving DecidableEq, Repr

/-- Why the machine stops with a fault. -/
inductive Fault where
  /-- A step was asked to act for an agent that is not there: raised by the common prologue of the
  meanings when `exec` is called on a state whose `issuer` cannot issue the instruction. Safe: the
  hardware has no such step. -/
  | noIssuer
deriving DecidableEq, Repr

/-- Why the machine refuses a step. -/
inductive Refusal where
  /-- An instruction that has no meaning yet; raised by an arm of `exec`. Safe. -/
  | notModelled (mnemonic : String)
deriving DecidableEq, Repr

/-- The machine right after module reset (R461): no group, block, grid, operator, partition or context
exists, memory lists nothing, and every register holds its reset value (logs 3 to 13). -/
def State.reset : State where
  groups := []
  blocks := []
  grids := []
  ops := []
  binds := []
  nblds := []
  opReuse := []
  passes := []
  heldAcc := []
  arbLast := []
  arbSkips := []
  hbm := []
  ctag := []
  poison := []
  host := []
  hostPoison := []
  svcRoots := [0, 0, 0, 0]
  spad := []
  swz := []
  notify := []
  cycles := []
  locks := []
  copies := []
  stale := []
  s2old := []
  flips := []
  hostRefused := []
  s2wait := []
  s2refused := []
  svcreqs := []
  queues := []
  disps := []
  ctxs := []
  parts := []
  mnode := 509
  moved := []
  devq := []
  spoison := []
  links := List.replicate 20 Link.reset
  routes := []
  tdi := []
  windows := []
  peers := []
  biasreq := []
  pcerr := []
  pcerrAddr := []
  reqs := []
  inreqs := []
  harts := (List.range 48).map (fun h =>
    (h, { Hart.reset with csr := Hart.reset.csr ++ (if h = 0 then [] else [(0xF14, BitVec.ofNat 64 h)]) }))
  elog := []
  elogLost := 0
  elogSeq := 0
  co := Coh.reset
  seqst := []
  nbcmds := []
  keys := []
  pregs := []
  meas := []
  spdm := { stage := 0, sessions := [] }
  ide := []
  ideKeys := []
  tdiNonce := []
  ident := true
  aliasOf := none
  msix := []
  msixOn := []
  msixPend := []
  corr := []
  hold := .boot
  stage := 0
  pgood := true
  tripped := false
  logKeep := false
  trip := false
  bootSt := 0
  plim := 2400
  maxw := 0
  noww := 0
  cmax := 15
  steps := 0
  twarn := 95
  temps := 0
  stemps := 0
  refresh2 := 0
  sent := []
  inputs := []
  turn := 0
  issuer := .none
  clock := 0
  uid := 0

end Sys2Proof.Machine
end

