-- ==== Sys2Proof/Machine/Coh.lean ====
section
/-! DEFINITION. The coherence protocol on the states of copies (R235 to R247). Caches are numbered 0 to 511 for the L1 of a
physical core, 512 to 515 for the RDC of a die, 516 to 1027 for instruction caches. Lines are 128-byte numbers: a die has
2^46 of them, and host lines stand from 2^50. A line has two places where transactions are performed: place 0, its home
slice (for a host line the port C agent), and place d + 1, the RDC of a die d on which it is not homed (R244). No step changes a
value that a read returns (R169): the values lie in memory. -/

namespace Sys2Proof.Machine

/-- The codes of the states of R236. -/
def stM : BitVec 3 := 1
def stO : BitVec 3 := 2
def stE : BitVec 3 := 3
def stS : BitVec 3 := 4

/-- Whether a line is one of host memory. -/
def hostLine (line : Nat) : Bool := decide (2 ^ 50 ≤ line)

/-- A copy after a downgrade: a host line is never held in O (R239, R246). -/
def shared (line : Nat) (x : BitVec 3) : BitVec 3 :=
  if x = stM then (if 2 ^ 50 ≤ line then stS else stO) else if x = stE then stS else x

/-- Whether a state owns the line, and whether it may become M without a message (R236). -/
def owns (x : BitVec 3) : Bool := decide (x = stM) || decide (x = stO) || decide (x = stE)
def mayWrite (x : BitVec 3) : Bool := decide (x = stM) || decide (x = stE)

/-- The key of a copy. -/
def ckey (line cache : Nat) : Nat := line * 2048 + cache

/-- The die of a cache, the core of an L1 or instruction cache, and the die a line is homed on. -/
def cacheDie (cache : Nat) : Nat := if cache < 512 then cache / 128 else if cache < 516 then cache - 512 else (cache - 516) / 128
def cacheCore (cache : Nat) : Nat := if cache < 516 then cache else cache - 516
def lineDie (line : Nat) : Nat := line / 2 ^ 46
/-- Whether a cache is an RDC, or an instruction cache. -/
def isRdc (cache : Nat) : Bool := decide (512 ≤ cache) && decide (cache < 516)
def isICache (cache : Nat) : Bool := decide (516 ≤ cache)

/-- The place that serves a cache's requests for a line: an L1 asks the home slice of its own die, and its RDC for every
other line (R244). -/
def placeFor (cache line : Nat) : Nat :=
  if isRdc cache then 0
  else if !(hostLine line) && decide (lineDie line = cacheDie cache) then 0
  else cacheDie cache + 1

/-- The bit of an RDC in a region's entry: the RDCs of the other three dies in ascending die number (R237). -/
def rdcBit (line die : Nat) : Nat := 16 + (if die < lineDie line then die else die - 1)

/-- The cores that a bay's filter names for a line (R237). -/
def bayCores (c : Coh) (line bay : Nat) : List Nat :=
  ((List.range 8).filter (fun k => (mget c.bay (line * 64 + bay)).getLsbD k)).map (fun k => bay * 8 + k)

/-- The caches that a place's tracking names for a line, but for those of core `but` (R237, R244, R246). A bay without its sharer bit is not asked. -/
def named (c : Coh) (place line but : Nat) : List Nat :=
  let cores (die : Nat) (on : Nat → Bool) : List Nat :=
    (List.range 16).flatMap (fun b => if on b then (bayCores c line (die * 16 + b)).filter (fun k => decide (k ≠ but)) else [])
  if place = 0 then
    if hostLine line then ((List.range 4).filter (fun d => (mget c.snp line).getLsbD d && decide (512 + d ≠ but))).map (· + 512)
    else
      let e := mget c.dir (line / 4)
      let die := lineDie line
      cores die (fun b => e.getLsbD b)
        ++ ((List.range 4).filter (fun d => decide (d ≠ die) && e.getLsbD (rdcBit line d) && decide (512 + d ≠ but))).map (· + 512)
  else cores (place - 1) (fun _ => true)

/-- The owner of a line at a place: its cache and whether it holds M, O or E (R237). -/
def ownerAt (c : Coh) (place line : Nat) : Option (Nat × BitVec 3) :=
  let e := mget c.own (line * 8 + place)
  if e = 0 then none else some (e.toNat / 8, BitVec.ofNat 3 (e.toNat % 8))

/-- Records the owner of a line at a place, or that there is none. -/
def setOwner (c : Coh) (place line : Nat) (o : Option (Nat × BitVec 3)) : Coh :=
  { c with own := mset c.own (line * 8 + place) (match o with
    | some (k, x) => BitVec.ofNat 13 (k * 8 + x.toNat)
    | none => 0) }

/-- Sets or clears the bit of a core in its bay's filter. -/
def setBay (c : Coh) (line core : Nat) (on : Bool) : Coh :=
  let k := line * 64 + core / 8
  let b : BitVec 8 := BitVec.ofNat 8 (2 ^ (core % 8))
  { c with bay := mset c.bay k (if on then mget c.bay k ||| b else mget c.bay k &&& ~~~b) }

/-- Lists a cache as a holder of a line at a place, in a state (R237, R246). -/
def listCache (c : Coh) (place line cache : Nat) (x : BitVec 3) : Coh :=
  let c := if isRdc cache then
      (if hostLine line then { c with snp := mset c.snp line (mget c.snp line ||| BitVec.ofNat 4 (2 ^ (cache - 512))) }
       else { c with dir := mset c.dir (line / 4) (mget c.dir (line / 4) ||| BitVec.ofNat 19 (2 ^ rdcBit line (cache - 512))) })
    else
      let c := setBay c line (cacheCore cache) true
      if place = 0 then { c with dir := mset c.dir (line / 4) (mget c.dir (line / 4) ||| BitVec.ofNat 19 (2 ^ (cacheCore cache / 8 % 16))) } else c
  match ownerAt c place line with
  | some (k, _) => if owns x then setOwner c place line (some (cache, x)) else if k = cache then setOwner c place line none else c
  | none => if owns x then setOwner c place line (some (cache, x)) else c

/-- The copies of a core's two caches. -/
def coreHolds (c : Coh) (line core : Nat) : Bool := decide (mget c.cst (ckey line core) ≠ 0) || decide (mget c.cst (ckey line (516 + core)) ≠ 0)

/-- Clears a holder: its filter bit, and the bay's bit in the region's entry once no line of the region needs it. The bit of
an RDC stays, for it may hold other lines of the region (R237). -/
def unlist (c : Coh) (place line cache : Nat) : Coh :=
  let c := match ownerAt c place line with
    | some (k, _) => if k = cache then setOwner c place line none else c
    | none => c
  if isRdc cache then
    if hostLine line then { c with snp := mset c.snp line (mget c.snp line &&& ~~~(BitVec.ofNat 4 (2 ^ (cache - 512)))) } else c
  else
    let core := cacheCore cache
    if coreHolds c line core then c
    else
      let c := setBay c line core false
      if place = 0 ∧ (List.range 4).all (fun i => decide (mget c.bay ((line / 4 * 4 + i) * 64 + core / 8) = 0)) = true then
        { c with dir := mset c.dir (line / 4) (mget c.dir (line / 4) &&& ~~~(BitVec.ofNat 19 (2 ^ (core / 8 % 16)))) }
      else c

/-- Clears every holder of a line at a place but for the RDC bits of its region. -/
def unlistAll (c : Coh) (place line : Nat) : Coh :=
  (named c place line 2048).foldl (fun c k => unlist c place line k) (setOwner c place line none)

/-! ## Messages (R239) -/

def coSend (c : Coh) (k : CKind) (cache line : Nat) : Coh := { c with cmsgs := c.cmsgs ++ [{ kind := k, cache := cache, line := line }] }
def coHas (c : Coh) (k : CKind) (cache line : Nat) : Bool := c.cmsgs.contains { kind := k, cache := cache, line := line }
def coTake (c : Coh) (k : CKind) (cache line : Nat) : Coh := { c with cmsgs := c.cmsgs.erase { kind := k, cache := cache, line := line } }

/-- The data message that a request is answered with, and the probe that a transaction sends (R240, R246). -/
def CReqK.data : CReqK → CKind
  | .rds => .data
  | _ => .dataX
def CReqK.probe : CReqK → CKind
  | .rds => .prbShr
  | .fshr => .prbShr
  | _ => .prbInv
/-- Whether a transaction serves a probe of the level above: a home's probe at an RDC, or a snoop of the host at the port. -/
def CReqK.fwd : CReqK → Bool
  | .fshr => true
  | .finv => true
  | _ => false

/-- Replaces or removes a transaction. -/
def putTx (c : Coh) (old : CTx) (t : Option CTx) : Coh :=
  match t with
  | some t => { c with ctxn := c.ctxn.map (fun x => if x = old then t else x) }
  | none => { c with ctxn := c.ctxn.filter (fun x => decide (x ≠ old)) }

/-- An answer to the host: a D2H request or the response to a snoop (R246). -/
def coTell (c : Coh) (m : CHost) : Coh := { c with tell := c.tell ++ [m] }

/-- Two requesters that are no caches: an agent that keeps no copy, and a snoop of the host (R246, R247). -/
def noCache : Nat := 2047
def hostSnoop : Nat := 2046

/-- The owner of a line after the probe of a transaction for sharing: it stays in O, or there is none (R240). -/
def downgraded (c : Coh) (place line : Nat) (keep : Bool) : Coh :=
  match ownerAt c place line with
  | some (o, _) => setOwner c place line (if keep then some (o, stO) else none)
  | none => c

/-- What the transaction that asked learns of an answer with data: that they are on their way, and whether their holder stays the
owner (R240). -/
def supplied (c : Coh) (t : CTx) (keep : Bool) : Coh :=
  let t' := { t with sent := true, keep := t.keep || keep }
  if t.sent || t.kind.fwd then putTx c t (some t') else coSend (putTx c t (some t')) t.kind.data t.req t.line

/-! ## Transactions (R240, R243 to R246) -/

/-- An RDC has the answers of its L1s to a probe of the home: it takes its new state and gives its single answer (R244). A dirty host
line goes back to the host (R246). -/
def rdcAnswer (c : Coh) (t : CTx) : Coh :=
  let rdc := 511 + t.place
  let k := ckey t.line rdc
  let x := mget c.cst k
  let y : BitVec 3 := if t.kind = .finv then 0 else shared t.line x
  let supply := owns x || c.evict.contains (t.line, rdc, false)
  let c := { c with
    cst := mset c.cst k y
    evict := c.evict.map (fun e => if e = (t.line, rdc, false) then (t.line, rdc, true) else e) }
  let c := if t.kind = .finv then unlistAll c t.place t.line else downgraded c t.place t.line t.keep
  let c := if hostLine t.line && decide (x = stM) then coTell c (.dirtyEvict t.line) else c
  match c.ctxn.find? (fun y => decide (y.line = t.line) && decide (y.place = 0) && y.probes.contains rdc) with
  | none => c
  | some u => if supply then coSend (supplied c u (decide (y = stO))) .prbRsp rdc t.line else coSend c .invAck rdc t.line

/-- A place has every answer of a transaction (R240): data from the slice or RDC if no owner sent any, then Cmp, and its tracking
lists the outcome. A transaction for the level above ends with the answer to it. -/
def finishTx (c : Coh) (t : CTx) : Coh :=
  if t.kind.fwd then
    let c := putTx c t none
    if t.place = 0 then
      let c := if t.kind = .finv then unlistAll c 0 t.line
        else downgraded c 0 t.line t.keep
      if t.req = hostSnoop then coTell c (.snoop t.line t.sent) else c
    else rdcAnswer c t
  else
    let c := if t.sent then c else coSend c t.kind.data t.req t.line
    let c := coSend (putTx c t (some { t with sent := true })) .cmp t.req t.line
    let c := if t.kind = .rds then downgraded c t.place t.line t.keep
      else
        let c := unlistAll c t.place t.line
        if t.place = 0 then c else { c with cst := mset c.cst (ckey t.line (511 + t.place)) stM }
    listCache c t.place t.line t.req t.grant

/-- The caches that a transaction probes: for sharing the owner alone, else every other cache that the place's tracking names
(R240). -/
def probeSet (c : Coh) (t : CTx) : List Nat :=
  let own := match ownerAt c t.place t.line with
    | some (o, _) => if o = t.req then [] else [o]
    | none => []
  match t.kind with
  | .rds => own
  | .fshr => own
  | _ =>
    let but := if t.kind.fwd then 2048 else cacheCore t.req
    let l := named c t.place t.line but
    if own.all (fun o => l.contains o) then l else own ++ l

/-- Whether a place lists a requester as a holder with a copy that an Upg keeps (R240). -/
def upgListed (c : Coh) (t : CTx) : Bool :=
  let x := mget c.cst (ckey t.line t.req)
  (decide (x = stS) || decide (x = stO)) && (named c t.place t.line 2048).contains t.req

/-- The state a requester will take: E or S for RdS, M for the others (R240). -/
def grantOf (c : Coh) (t : CTx) : BitVec 3 :=
  if t.kind ≠ .rds then stM
  else if (named c t.place t.line (cacheCore t.req)).isEmpty && !(isICache t.req)
      && (decide (t.place = 0) || mayWrite (mget c.cst (ckey t.line (511 + t.place)))) then stE
  else stS

/-- A transaction begins at its place: its probes go out (R240). -/
def beginTx (c : Coh) (t : CTx) : Coh :=
  let t := { t with up := false, probes := probeSet c t, sent := decide (t.kind = .upg) && upgListed c t, grant := grantOf c t }
  let c := { c with
    ctxn := c.ctxn ++ [t]
    cwait := if t.kind.fwd then c.cwait else
      c.cwait.map (fun w => if w.line = t.line ∧ w.cache = t.req then { w with data := t.sent } else w) }
  let c := t.probes.foldl (fun c k => coSend c t.kind.probe k t.line) c
  if t.probes.isEmpty then finishTx c t else c

/-- Whether an RDC's own state, or for a host line what the device holds of it, satisfies a request (R244, R246). -/
def placeOk (c : Coh) (t : CTx) : Bool :=
  if t.place = 0 then
    if hostLine t.line && !t.kind.fwd then
      (match ownerAt c 0 t.line with
        | some (_, x) => decide (t.kind = .rds) || mayWrite x
        | none => false)
    else true
  else
    let x := mget c.cst (ckey t.line (511 + t.place))
    t.kind.fwd || (if t.kind = .rds then decide (x ≠ 0) else mayWrite x)

/-- What an RDC asks its home for (R240, R244). -/
def upKind (c : Coh) (t : CTx) : CReqK :=
  let x := mget c.cst (ckey t.line (511 + t.place))
  if t.kind = .rds then .rds else if x = stS ∨ x = stO then .upg else .rdx

/-- A transaction with its request alone. -/
def txOf (k : CReqK) (place cache line slice : Nat) : CTx :=
  { line := line, place := place, req := cache, kind := k, probes := [], sent := false, keep := false, grant := 0, up := false, slice := slice }

/-- Drops every copy of a region's lines, dirty data written back, and frees its entry (R238). -/
def dropRegion (c : Coh) (r : Nat) : Coh :=
  let inR (line : Nat) : Bool := decide (line / 4 = r)
  { c with
    cst := c.cst.filter (fun e => !(inR (e.1 / 2048)))
    own := c.own.filter (fun e => !(inR (e.1 / 8)))
    bay := c.bay.filter (fun e => !(inR (e.1 / 64)))
    dir := mset c.dir r 0 }

/-- Whether no transaction, request or message concerns a region. -/
def quietRegion (c : Coh) (r : Nat) : Bool :=
  c.ctxn.all (fun t => decide (t.line / 4 ≠ r)) && c.cqueue.all (fun t => decide (t.line / 4 ≠ r))
    && c.cmsgs.all (fun m => decide (m.line / 4 ≠ r)) && c.cwait.all (fun w => decide (w.line / 4 ≠ r))

/-- A request that a place serves, its line not being busy there (R235, R240). `vic` says which region a slice gives up when it has
no entry free for a new region (R238). -/
def serveReq (vic : Coh → Nat → Nat → Option Nat) (c : Coh) (t : CTx) : Coh :=
  match t.kind with
  | .wbd =>
    let isOwner := match ownerAt c t.place t.line with
      | some (o, _) => decide (o = t.req)
      | none => false
    let c := if isOwner then
        (let c := unlist c t.place t.line t.req
         if t.place = 0 then (if hostLine t.line then coTell c (.dirtyEvict t.line) else c)
         else
          let k := ckey t.line (511 + t.place)
          { c with cst := mset c.cst k (if mget c.cst k = stE then stM else mget c.cst k) })
      else c
    coSend c .wbAck t.req t.line
  | .evc =>
    let c := unlist c t.place t.line t.req
    let c := if t.place = 0 ∧ hostLine t.line = true ∧ mget c.snp t.line = 0 then coTell c (.cleanEvict t.line) else c
    coSend c .wbAck t.req t.line
  | _ =>
    if placeOk c t then
      let c := if t.place = 0 ∧ hostLine t.line = false ∧ t.kind.fwd = false ∧ mget c.dir (t.line / 4) = 0 then
          (match vic c t.line t.slice with
            | some r => if quietRegion c r ∧ r ≠ t.line / 4 then dropRegion c r else c
            | none => c)
        else c
      beginTx c t
    else
      let c := { c with ctxn := c.ctxn ++ [{ t with up := true }] }
      if t.place = 0 then coTell c (if t.kind = .rds then .rdShared t.line else if t.kind = .upg then .rdOwnNoData t.line else .rdOwn t.line)
      else
        let rdc := 511 + t.place
        { c with
          cqueue := c.cqueue ++ [txOf (upKind c t) 0 rdc t.line t.slice]
          cwait := c.cwait ++ [{ line := t.line, cache := rdc, data := false, cmp := false }] }

/-- Whether a request must wait at its place: a snoop of the host waits for no request that waits for the host (R235, R241, R246). -/
def heldUp (c : Coh) (t : CTx) : Bool :=
  c.ctxn.any (fun x => decide (x.line = t.line) && decide (x.place = t.place) && !(x.up && t.kind.fwd))

/-- Serves the requests whose lines are no longer busy, in order of arrival (R235). -/
def pumpCo (vic : Coh → Nat → Nat → Option Nat) : Nat → Coh → Coh
  | 0, c => c
  | n + 1, c =>
    match c.cqueue.find? (fun t => !(heldUp c t)) with
    | none => c
    | some t => pumpCo vic n (serveReq vic { c with cqueue := c.cqueue.erase t } t)

/-- Enough for every request that waits, and for those of RDCs that they lead to. -/
def pumpAll (vic : Coh → Nat → Nat → Option Nat) (c : Coh) : Coh := pumpCo vic (2 * c.cqueue.length + 2) c

/-- Whether a cache has a reason to ask: its own state does not satisfy the request, and an instruction cache asks for S only
(R236, R245). -/
def asks (c : Coh) (k : CReqK) (cache line : Nat) : Bool :=
  let x := mget c.cst (ckey line cache)
  match k with
  | .rds => decide (x = 0)
  | .rdx => !(mayWrite x) && !(isICache cache)
  | .upg => !(mayWrite x) && !(isICache cache)
  | _ => false

/-- A cache sends a request; it arrives at its place, which serves it or lets it wait (R235). -/
def requestCo (vic : Coh → Nat → Nat → Option Nat) (c : Coh) (k : CReqK) (cache line slice : Nat) : Coh :=
  if !(asks c k cache line) || c.cwait.any (fun w => decide (w.line = line) && decide (w.cache = cache)) then c
  else
    pumpAll vic { c with
      cqueue := c.cqueue ++ [txOf k (placeFor cache line) cache line slice]
      cwait := c.cwait ++ [{ line := line, cache := cache, data := false, cmp := false }] }

/-- A requester that holds both its data and Cmp takes the line, and its transaction is over (R239). An RDC goes on with the
request of its L1 that it asked for (R244); a writer's own instruction cache drops the line. -/
def takeLine (vic : Coh → Nat → Nat → Option Nat) (c : Coh) (cache line : Nat) : Coh :=
  match c.cwait.find? (fun w => decide (w.line = line) && decide (w.cache = cache)) with
  | none => c
  | some w =>
    if w.data && w.cmp then
      match c.ctxn.find? (fun t => decide (t.line = line) && decide (t.req = cache) && !t.up && !t.kind.fwd) with
      | none => c
      | some t =>
        let c := { putTx c t none with cwait := c.cwait.filter (fun x => decide (x ≠ w)) }
        let c := { c with cst := mset c.cst (ckey line cache) t.grant }
        let c := if t.grant = stM ∧ cache < 512 then { c with cst := mset c.cst (ckey line (516 + cache)) 0 } else c
        let c := if isRdc cache then
            (match c.ctxn.find? (fun y => decide (y.line = line) && decide (y.place = cache - 511) && y.up) with
              | some y => beginTx (putTx c y none) y
              | none => c)
          else c
        pumpAll vic c
    else c

/-- Marks what a requester has received. -/
def receive (vic : Coh → Nat → Nat → Option Nat) (c : Coh) (cache line : Nat) (data : Bool) : Coh :=
  takeLine vic { c with cwait := c.cwait.map (fun w =>
    if w.line = line ∧ w.cache = cache then (if data then { w with data := true } else { w with cmp := true }) else w) } cache line

/-- Whether a probe can be answered now: an RDC first ends the transaction that it performs for its own L1s. -/
def probeReady (c : Coh) (cache line : Nat) : Bool :=
  !(isRdc cache) || !(c.ctxn.any (fun t => decide (t.line = line) && decide (t.place = cache - 511) && !t.up))

/-- A holder answers a probe from its state, or from its eviction buffer (R241, R242); an RDC forwards it to the L1s of its
die (R244). A core that is told to drop a line drops it from both its caches. An owner whose Upg is
outstanding supplies the line as any owner does (log 40). -/
def answerProbe (vic : Coh → Nat → Nat → Option Nat) (c : Coh) (inv : Bool) (cache line : Nat) : Coh :=
  if isRdc cache then
    pumpAll vic (beginTx c (txOf (if inv then .finv else .fshr) (cache - 511) cache line 0))
  else
    let k := ckey line cache
    let x := mget c.cst k
    let y : BitVec 3 := if inv then 0 else shared line x
    let supply := owns x || c.evict.contains (line, cache, false)
    let place := placeFor cache line
    let c := { c with
      cst := if inv then mset (mset c.cst k 0) (ckey line (516 + cache)) 0 else mset c.cst k y
      evict := c.evict.map (fun e => if e = (line, cache, false) then (line, cache, true) else e) }
    let c := if place ≠ 0 ∧ x = stM ∧ mget c.cst (ckey line (511 + place)) = stE then { c with cst := mset c.cst (ckey line (511 + place)) stM } else c
    match c.ctxn.find? (fun t => decide (t.line = line) && t.probes.contains cache) with
    | none => c
    | some t => if supply then coSend (supplied c t (decide (y = stO))) .prbRsp cache line else coSend c .invAck cache line

/-- A place takes a holder's answer. -/
def homeAnswer (vic : Coh → Nat → Nat → Option Nat) (c : Coh) (cache line : Nat) : Coh :=
  match c.ctxn.find? (fun t => decide (t.line = line) && t.probes.contains cache) with
  | none => c
  | some t =>
    let t' := { t with probes := t.probes.erase cache }
    let c := putTx c t (some t')
    if t'.probes.isEmpty then pumpAll vic (finishTx c t') else c

/-- The host has given what the port asked for on a host line (R246). -/
def hostGrant (vic : Coh → Nat → Nat → Option Nat) (c : Coh) (line : Nat) : Coh :=
  match c.ctxn.find? (fun t => decide (t.line = line) && decide (t.place = 0) && t.up) with
  | some t => pumpAll vic (beginTx (putTx c t none) t)
  | none => c

/-- An eviction: the line goes to the eviction buffer, and WbD or EvC to its place (R240, R242). An RDC first invalidates the L1
copies of its die and takes their dirty data (R244). An instruction cache sends nothing (R245). -/
def evictCo (vic : Coh → Nat → Nat → Option Nat) (c : Coh) (cache line slice : Nat) (dirty : Bool) : Coh :=
  let c := if isRdc cache then
      (let ls := named c (cache - 511) line 2048
       let m := ls.any (fun k => decide (mget c.cst (ckey line k) = stM))
       let c := ls.foldl (fun c k => { c with cst := mset (mset c.cst (ckey line k) 0) (ckey line (516 + k)) 0 }) c
       let c := unlistAll c (cache - 511) line
       if m && decide (mget c.cst (ckey line cache) = stE) then { c with cst := mset c.cst (ckey line cache) stM } else c)
    else c
  let c := { c with cst := mset c.cst (ckey line cache) 0, evict := c.evict ++ [(line, cache, !dirty)] }
  pumpAll vic { c with cqueue := c.cqueue ++ [txOf (if dirty then .wbd else .evc) (placeFor cache line) cache line slice] }

/-! ## Whole transactions in one step -/

/-- Takes the next message about a line that can be taken; none is left when it answers `none`. -/
def deliverCo (vic : Coh → Nat → Nat → Option Nat) (c : Coh) (line : Nat) : Option Coh :=
  match c.cmsgs.find? (fun m => decide (m.line = line)
      && ((decide (m.kind ≠ .prbShr) && decide (m.kind ≠ .prbInv)) || probeReady c m.cache line)) with
  | some m =>
    let d := coTake c m.kind m.cache line
    some (match m.kind with
      | .prbShr => answerProbe vic d false m.cache line
      | .prbInv => answerProbe vic d true m.cache line
      | .data => receive vic d m.cache line true
      | .dataX => receive vic d m.cache line true
      | .cmp => receive vic d m.cache line false
      | .prbRsp => homeAnswer vic d m.cache line
      | .invAck => homeAnswer vic d m.cache line
      | .wbAck => { d with evict := d.evict.filter (fun e => !(decide (e.1 = line) && decide (e.2.1 = m.cache))) })
  | none =>
    if c.ctxn.any (fun t => decide (t.line = line) && decide (t.place = 0) && t.up) then some (hostGrant vic c line) else none

/-- Lets the transactions on a line run to their end: latencies are open (log 1). -/
def settleCo (vic : Coh → Nat → Nat → Option Nat) (line : Nat) : Nat → Coh → Coh
  | 0, c => c
  | n + 1, c =>
    match deliverCo vic c line with
    | some c => settleCo vic line n c
    | none => c

/-- The bound on the messages of the transactions on a line. -/
def coFuel : Nat := 8192

/-- A cache reads a line: it holds a copy, or gets one (R240). -/
def cacheRead (vic : Coh → Nat → Nat → Option Nat) (c : Coh) (cache line slice : Nat) : Coh :=
  if mget c.cst (ckey line cache) ≠ 0 then c
  else
    let c := settleCo vic line coFuel c
    settleCo vic line coFuel (requestCo vic c .rds cache line slice)

/-- A cache writes a line: it holds M, or E that becomes M without a message, or gets M first (R236, R240, R243). A copy that an
outstanding request lost is never written: the request ends first. -/
def cacheWrite (vic : Coh → Nat → Nat → Option Nat) (c : Coh) (cache line slice : Nat) : Coh :=
  let k := ckey line cache
  if mayWrite (mget c.cst k) then { c with cst := mset c.cst k stM }
  else
    let c := settleCo vic line coFuel c
    let x := mget c.cst k
    let c := settleCo vic line coFuel (requestCo vic c (if x = stS ∨ x = stO then .upg else .rdx) cache line slice)
    if mget c.cst k = 0 then c else { c with cst := mset c.cst k stM }

/-- An agent that keeps no copy reads a line at its home: the owner is downgraded (R240, R245, R247). -/
def agentRead (vic : Coh → Nat → Nat → Option Nat) (c : Coh) (line : Nat) : Coh :=
  if (c.own.all (fun e => decide (e.1 / 8 ≠ line))) then c
  else
    let c := settleCo vic line coFuel c
    settleCo vic line coFuel (pumpAll vic (beginTx c (txOf .fshr 0 noCache line 0)))

/-- An agent that keeps no copy writes a line at its home: every copy is invalidated (R240, R245, R247). -/
def agentWrite (vic : Coh → Nat → Nat → Option Nat) (c : Coh) (line : Nat) : Coh :=
  if c.cst.all (fun e => decide (e.1 / 2048 ≠ line)) && c.ctxn.all (fun t => decide (t.line ≠ line)) then c
  else
    let c := settleCo vic line coFuel c
    settleCo vic line coFuel (pumpAll vic (beginTx c (txOf .finv 0 noCache line 0)))

/-- FLUSH and INVL of a line: through its home with PrbShr or PrbInv, and dirty copies written back (R179, R245). -/
def flushCo (vic : Coh → Nat → Nat → Option Nat) (c : Coh) (line : Nat) (drop : Bool) : Coh :=
  if drop then agentWrite vic c line
  else
    let c := agentRead vic c line
    { c with
      cst := c.cst.map (fun e => if e.1 / 2048 = line ∧ e.2 = stO then (e.1, stS) else e)
      own := c.own.filter (fun e => decide (e.1 / 8 ≠ line)) }

end Sys2Proof.Machine
end

