-- ==== Sys2Proof/Config.lean ====
section
/-! DEFINITION. What an implementation fixes and what the spec leaves open. An opaque constant has
no body: no proof can learn its value, so a claim holds for every value it could have. -/

namespace Sys2Proof.Config

/-- The value of a one-operand function where no tried precision decides the rounding (log 20). -/
opaque transcendental : Nat → Nat → Nat

/-- Which of the old leaves that an MTLB may still hold an access uses, none when there are no more so many; and whether an
MTLB still holds the n-th old word of the second stage: by step and address, and by step and place (R217, log 19). -/
opaque mtlbStale : Nat → DWord → Nat
opaque mtlbOld : Nat → Nat → Bool

/-- How many cycles a core has counted since its counter was last read (R44, log 4). -/
opaque cycleStep : Nat → Nat → Nat

/-- The module serial number (R19, log 25). -/
opaque moduleSerial : DWord

/-- Whether the host maps a node-510 page again after it has invalidated it: by step and page (R227, R228, log 7). -/
opaque hostMaps : Nat → Nat → Bool

/-- The random source that context keys are drawn from: by step (R375, R448, log 17). -/
opaque randomKey : Nat → BitVec 256

/-- How far the window of a microprogram fault reaches back and on, in issues: by step (R345, log 21). -/
opaque nbWindowBack : Nat → Nat
opaque nbWindowOn : Nat → Nat

/-- What an illegal-instruction exception of a hart writes to its tval: by step (R429, log 11). -/
opaque illegalTval : Nat → DWord

/-- What the words of a hart give that are no more than named here: a counter, whether a reservation stands, an integer or float
register, a vector register: by step, and by step and register (R429, log 116). -/
opaque hartCount : Nat → DWord
opaque hartReserved : Nat → Bool
opaque hartX : Nat → Nat → DWord
opaque hartV : Nat → Nat → BitVec 256

/-- The seed fused at manufacture, the fused digest of the signing key, and the fused minimum SVN (R445, R446, log 12). -/
opaque fusedSeed : BitVec 256
opaque keyDigest : BitVec 512
opaque minSvn : BitVec 32

/-- The board straps of the node number (R461, log 12). -/
opaque nodeStrap : BitVec 9

/-- The certificate chain for an identity and an alias seed, an ML-DSA-87 signature with a seed over a nonce and an
answer, and the module's share of a key exchange: by step and the requester's share (R446, R447, log 18). -/
opaque certificate : BitVec 256 → BitVec 256 → List Byte
opaque signature : BitVec 256 → BitVec 256 → List Byte → BitVec 37016
opaque keyShare : Nat → BitVec 512 → List Byte

/-- Whether a slice has no directory entry free for the region of a line, and which of its regions it then gives up: by step and
line (R238, log 40). -/
opaque dirFull : Nat → Nat → Bool
opaque dirVictim : Nat → Nat → Nat

end Sys2Proof.Config
end

