-- ==== Sys2Proof/Machine/Flags.lean ====
section
/-! DEFINITION. Elements of packed registers (R31, R72), fitting and saturation (R100), and the
exact integer arithmetic of classes 1 and 2 (R96, R97, R102 to R104). The Harran machine has no
condition flags; the overflow cases that other machines flag are the Fit rule here. -/

namespace Sys2Proof.Machine

/-- The type a code of R31 names. -/
def etOfCode (c : Nat) : Option ET :=
  match c with
  | 0 => some .i32 | 1 => some .ui32 | 2 => some .i16x2 | 3 => some .ui16x2
  | 4 => some .i8x4 | 5 => some .ui8x4 | 6 => some .f32 | 7 => some .f16x2
  | 8 => some .bf16x2 | 9 => some .e4m3x4 | 10 => some .e5m2x4 | 11 => some .i64
  | 12 => some .i4x8 | 13 => some .cb4x8 | 14 => some .a96 | _ => none

/-- Bits of one element (R31, R72). -/
def etBits : ET → Nat
  | .i32 | .ui32 | .f32 => 32
  | .i16x2 | .ui16x2 | .f16x2 | .bf16x2 => 16
  | .i8x4 | .ui8x4 | .e4m3x4 | .e5m2x4 => 8
  | .i64 => 64
  | .i4x8 | .cb4x8 => 4
  | .a96 => 128

/-- Registers one operand takes: a pair under i64, a quad under a96 (R29). -/
def etRegs : ET → Nat
  | .i64 => 2
  | .a96 => 4
  | _ => 1

/-- Elements in one operand of one lane. -/
def etCount (t : ET) : Nat := 32 * etRegs t / etBits t

/-- Whether the elements are read as signed integers (R100; i4x8 is signed). -/
def etSigned : ET → Bool
  | .i32 | .i16x2 | .i8x4 | .i4x8 | .i64 => true
  | _ => false

/-- The floating-point format of a type's elements. -/
def etFloat : ET → Option FFmt
  | .f32 => some .f32 | .f16x2 => some .f16 | .bf16x2 => some .bf16
  | .e4m3x4 => some .e4m3 | .e5m2x4 => some .e5m2 | _ => none

/-- The unsigned value of element `k` of `w` bits (R72). -/
def elemU (w k x : Nat) : Nat := x / 2 ^ (w * k) % 2 ^ w

/-- The low `w` bits of `x`, read as two's complement. -/
def signedOf (w x : Nat) : Int :=
  if 2 * (x % 2 ^ w) < 2 ^ w then Int.ofNat (x % 2 ^ w) else Int.ofNat (x % 2 ^ w) - Int.ofNat (2 ^ w)

/-- The low `w` bits of the two's-complement form of `x`. -/
def wrapTo (w : Nat) (x : Int) : Nat := (x % Int.ofNat (2 ^ w)).toNat

/-- The value of element `k` under type `t`. -/
def elemI (t : ET) (k x : Nat) : Int :=
  if etSigned t then signedOf (etBits t) (elemU (etBits t) k x) else Int.ofNat (elemU (etBits t) k x)

/-- The least and greatest value of a `w`-bit integer. -/
def intMin (signed : Bool) (w : Nat) : Int := if signed then -Int.ofNat (2 ^ (w - 1)) else 0
def intMax (signed : Bool) (w : Nat) : Int :=
  if signed then Int.ofNat (2 ^ (w - 1)) - 1 else Int.ofNat (2 ^ w) - 1

/-- Clamps to [lo, hi]. -/
def clampI (lo hi x : Int) : Int := if x < lo then lo else if hi < x then hi else x

/-- Fit(x) of R100: modulo 2^w, or clamped to the range when SAT = 1. -/
def fitInt (signed : Bool) (w : Nat) (sat : Bool) (x : Int) : Nat :=
  wrapTo w (if sat then clampI (intMin signed w) (intMax signed w) x else x)

/-- Packs `n` elements of `w` bits, element 0 lowest (R2). -/
def packElems (w : Nat) (f : Nat → Nat) : Nat → Nat
  | 0 => 0
  | n + 1 => packElems w f n + f n % 2 ^ w * 2 ^ (w * n)

/-- Applies `f` to the elements of two operands, fitting each result (R100). -/
def mapInt2 (t : ET) (sat : Bool) (f : Int → Int → Int) (a b : Nat) : Nat :=
  packElems (etBits t)
    (fun k => fitInt (etSigned t) (etBits t) sat (f (elemI t k a) (elemI t k b))) (etCount t)

/-- The number of one bits in the low `n` bits of `x`. -/
def popCount (x : Nat) : Nat → Nat
  | 0 => 0
  | n + 1 => (if x.testBit n then 1 else 0) + popCount x n

/-- The number of leading zero bits of `x` within `n` bits. -/
def leadZeros (x : Nat) : Nat → Nat
  | 0 => 0
  | n + 1 => if x.testBit n then 0 else 1 + leadZeros x n

/-- The number of bits of `x` (0 for 0). -/
def bitLen (x : Nat) : Nat := if x = 0 then 0 else Nat.log2 x + 1

/-- Quotient truncated toward zero, with the cases of R97. -/
def sdivI (a b : DWord) : DWord := if b = 0 then BitVec.allOnes 64 else BitVec.sdiv a b
def udivI (a b : DWord) : DWord := if b = 0 then BitVec.allOnes 64 else BitVec.udiv a b
/-- Remainder with the sign of the dividend, with the cases of R97. -/
def sremI (a b : DWord) : DWord := if b = 0 then a else BitVec.srem a b
def uremI (a b : DWord) : DWord := if b = 0 then a else BitVec.umod a b

/-- The signed and unsigned high halves of a 64-bit product (R96). -/
def smulh (a b : DWord) : DWord := BitVec.ofInt 64 (a.toInt * b.toInt / Int.ofNat (2 ^ 64))
def umulh (a b : DWord) : DWord := BitVec.ofNat 64 (a.toNat * b.toNat / 2 ^ 64)

/-- The field length of VBFX and VBFI (R104). -/
def bfLen (w b : Nat) : Nat :=
  if w ≤ b % 64 ∨ b / 256 % 64 = 0 then 0 else min (b / 256 % 64) (w - b % 64)

/-- VBFX of R104. -/
def bfExtract (t : ET) (a b : Nat) : Nat :=
  if bfLen (etBits t) b = 0 then 0
  else if etSigned t then
    wrapTo (etBits t) (signedOf (bfLen (etBits t) b) (a / 2 ^ (b % 64)))
  else a / 2 ^ (b % 64) % 2 ^ bfLen (etBits t) b

/-- VBFI of R104. -/
def bfInsert (t : ET) (d a b : Nat) : Nat :=
  let mask := (2 ^ bfLen (etBits t) b - 1) <<< (b % 64)
  (d &&& (2 ^ etBits t - 1 - mask)) ||| ((a <<< (b % 64)) &&& mask)

end Sys2Proof.Machine
end

