-- ==== Sys2Proof/Machine/Translate.lean ====
section
/-! DEFINITION. Addresses and their routing (R165 to R167), page tables in memory and the two-stage
walk (R211 to R216), and what an MTLB may still use (R217). -/

namespace Sys2Proof.Machine

/-- Offset of the aperture within a die's space (R166). -/
def DA : Nat := 0x1FFF0000000000

/-- The fields of a virtual address (R165). -/
def vaNode (va : DWord) : Nat := va.toNat / 2 ^ 55
def vaDie (va : DWord) : Nat := va.toNat / 2 ^ 53 % 4
def vaOff (va : DWord) : Nat := va.toNat % 2 ^ 53
/-- An address of node 509 (R165). -/
def va509 (die off : Nat) : DWord := BitVec.ofNat 64 (509 * 2 ^ 55 + die * 2 ^ 53 + off)

/-- An address of this module in node-509 form: its own node number is served exactly as node 509 (R165), so that is how
intervals of addresses are compared. -/
def ownVa (s : State) (va : DWord) : DWord := if vaNode va = s.mnode then BitVec.ofNat 64 (509 * 2 ^ 55 + va.toNat % 2 ^ 55) else va

/-- The key of an HBM byte. -/
def hkey (die off : Nat) : Nat := die * 2 ^ 53 + off

/-- Whether record `k` of the capability list, in list order, is enabled in partition `p` (R20,
R393). -/
def capOn (s : State) (p k : Nat) : Bool :=
  match tget s.parts p with
  | some pt => pt.capen.getLsbD k
  | none => false

/-- The list positions of the capability ids of R19. -/
def capOperators : Nat := 2
def capRotation : Nat := 3
def capTruss : Nat := 4
def capCb4 : Nat := 5
def capA96 : Nat := 6
def capA96Atomics : Nat := 7
def capNbAssoc : Nat := 8
def capNbCopy : Nat := 9
def capVariants : Nat := 10
def capChild : Nat := 11
def capLive : Nat := 12
def capViaduct : Nat := 13
def capPortC : Nat := 14
def capSealed : Nat := 15
def capService : Nat := 16
def capNotify : Nat := 17

/-- Who makes a request: partition, context, and whether it is made at user level (R211, R216). -/
structure Req where
  part : Nat
  ctx : Nat
  user : Bool
deriving DecidableEq, Repr

/-- The kinds of access that R216 gives permissions for. -/
inductive AKind where
  | load | store | amo | fetch | line
deriving DecidableEq, Repr

/-! ## Page-table entries (R213) -/

def pteV (e : DWord) : Bool := e.getLsbD 0
def pteT (e : DWord) : Bool := e.getLsbD 1
def pteR (e : DWord) : Bool := e.getLsbD 2
def pteW (e : DWord) : Bool := e.getLsbD 3
def pteX (e : DWord) : Bool := e.getLsbD 4
def pteU (e : DWord) : Bool := e.getLsbD 5
def pteWC (e : DWord) : Bool := e.getLsbD 9
def pteRun (e : DWord) : Bool := e.getLsbD 10
def pteBias (e : DWord) : Bool := e.getLsbD 11
def pteBR (e : DWord) : Bool := e.getLsbD 12
/-- The offset that FRAME names, and the DIE field. -/
def pteOff (e : DWord) : Nat := e.toNat / 2 ^ 13 % 2 ^ 40 * 2 ^ 13
def pteDie (e : DWord) : Nat := e.toNat / 2 ^ 53 % 4

/-- The eight bytes of a table entry in HBM. -/
def rdPte (m : SMap 8) (die off : Nat) : DWord := BitVec.ofNat 64 (mbytes m (hkey die off) 8)

/-- Bytes covered by a leaf found with `k` index levels below it. -/
def leafSize (k : Nat) : Nat := 2 ^ (13 + 10 * k)

/-- The index of `off` with `k` levels below. -/
def tblIdx (off k : Nat) : Nat := off / leafSize k % 1024

/-- The second-stage walk from a physical table: the leaf and the number of levels below it. A leaf
at level 0 is none (R212, R214). -/
def s2walk (m : SMap 8) (die off : Nat) : Nat → Nat → Option (DWord × Nat)
  | 0, _ => none
  | k + 1, tbl =>
    let e := rdPte m die (tbl + 8 * tblIdx off k)
    if !pteV e then none
    else if pteT e then s2walk m die off k (pteOff e)
    else if k = 3 then none else some (e, k)

/-- The second-stage root of a partition for a die; partition 16 has its roots in service-die registers (R393,
R430). -/
def s2rootOf (s : State) (p die : Nat) : Option DWord :=
  if p = 16 then some (s.svcRoots.getD die 0)
  else (tget s.parts p).map (fun pt => pt.s2root.getD die 0)

/-- What an intermediate offset of a die maps to under a partition's second stage (R212). -/
def s2translate (s : State) (p die ia : Nat) : Option (Nat × DWord) :=
  match s2rootOf s p die with
  | none => none
  | some root =>
    match s2walk s.hbm die ia 4 (pteOff root) with
    | none => none
    | some (e, k) => some (pteOff e + ia % leafSize k, e)

/-- How a first-stage walk ends: a leaf with the levels below it and the physical offset of its
entry; an invalid entry, with the same; or a second-stage failure at an intermediate offset. -/
inductive Walk where
  | leaf (e : DWord) (k slot : Nat)
  | absent (k slot : Nat)
  | s2 (ia : Nat)
deriving DecidableEq, Repr

/-- The first-stage walk: tables are intermediate frames, so each read goes through the second stage
(R212). -/
def s1walk (s : State) (p die off : Nat) : Nat → Nat → Walk
  | 0, tbl => .s2 tbl
  | k + 1, tbl =>
    let ia := tbl + 8 * tblIdx off k
    match s2translate s p die ia with
    | none => .s2 ia
    | some (pa, _) =>
      let e := rdPte s.hbm die pa
      if !pteV e then .absent k pa
      else if pteT e then s1walk s p die off k (pteOff e)
      else if k = 3 then .absent k pa else .leaf e k pa

/-- The walk from a context's root for a die (R212). A context that is not loaded or is destroyed has no tables (R373). -/
def s1of (s : State) (p c die off : Nat) : Walk :=
  match tget s.ctxs (p * 1024 + c) with
  | none => .absent 3 0
  | some cx =>
    if cx.st = .created ∨ cx.st = .destroyed then .absent 3 0
    else s1walk s p die off 4 (pteOff (cx.roots.getD die 0))

/-- How a translation ends (R216, R218): a physical offset with the leaf's attributes; no leaf; a
leaf that denies the access; a second-stage failure at an intermediate offset; or a leaf whose bias
is changing (R225). -/
inductive TrRes where
  | ok (phys : Nat) (pte : DWord)
  | absent
  | denied
  | s2 (ia : Nat)
  | flip (id : Nat)
deriving DecidableEq, Repr

/-- Whether a leaf of the first stage and one of the second stage allow an access (R214, R216). -/
def permits (k : AKind) (user : Bool) (e e2 : DWord) : Bool :=
  let r := pteR e && pteR e2
  let w := pteW e && pteW e2
  let x := pteX e && pteX e2
  (match k with
   | .load => r
   | .line => r
   | .store => w
   | .amo => r && w
   | .fetch => x) && (!user || pteU e)

/-- Whether a leaf at offset `off` with `k` levels below it covers `va`. -/
def covers (off k va : Nat) : Bool := decide (off / leafSize k = va / leafSize k)

/-- Memory as an MTLB may still see it: the old words of second-stage tables that the free value of this step picks (R217). -/
def oldTables (s : State) : SMap 8 :=
  (s.s2old.zip (List.range s.s2old.length)).foldl (fun m e =>
    if Config.mtlbOld s.clock e.2 then msetBytes m e.1.1 8 e.1.2.toNat else m) s.hbm

/-- The second stage of a leaf: as the tables say, or as an MTLB may still hold it; an invalid entry is never held (R217). -/
def s2view (s : State) (p die ia : Nat) : Option (Nat × DWord) :=
  if s.s2old.isEmpty then s2translate s p die ia
  else
    match s2translate { s with hbm := oldTables s } p die ia with
    | some x => some x
    | none => s2translate s p die ia

/-- The last part of a translation, from a first-stage leaf: the second stage of the leaf's frame. A
bank-resident frame must map to one with the same low bits (R328). -/
def finishLeaf (s : State) (rq : Req) (kind : AKind) (die off : Nat) (e : DWord) (k : Nat) : TrRes :=
  let ia := pteOff e + off % leafSize k
  match s2view s rq.part die ia with
  | none => .s2 ia
  | some (pa, e2) =>
    if pteBR e && decide (pa / 2 ^ 13 % 2 ^ 15 ≠ ia / 2 ^ 13 % 2 ^ 15) then .s2 ia
    else if permits kind rq.user e e2 then .ok pa (e ||| (e2 &&& 0x200#64)) else .denied

/-- The flip in progress on the leaf that covers an offset, if any (R225). -/
def flipAt (s : State) (p c die off : Nat) : Option Nat :=
  match s.flips.find? (fun f => decide (f.2.part = p) && decide (f.2.ctx = c) && decide (f.2.die = die)
      && (if f.2.run then decide (f.2.off / 2 ^ 16 = off / 2 ^ 16) else covers f.2.off (3 - f.2.lvl) off)) with
  | some f => some f.1
  | none => none

/-- The old leaves that an MTLB may still use for an offset (R217). -/
def staleFor (s : State) (p c die off : Nat) : List Stale :=
  s.stale.filter (fun t => t.used && decide (t.part = p) && decide (t.ctx = c) && decide (t.die = die) && covers t.off (3 - t.lvl) off)

/-- Translation at the owning die (R211, R216, R217): one of the old leaves that an MTLB may still hold is used as the free value
of this step says; otherwise the tables decide. Flips stop only what has not begun (R226). -/
def translateE (s : State) (rq : Req) (kind : AKind) (die off : Nat) : TrRes :=
  match (staleFor s rq.part rq.ctx die off)[Config.mtlbStale s.clock (va509 die off)]? with
  | some t => finishLeaf s rq kind die off t.pte (3 - t.lvl)
  | none =>
    match s1of s rq.part rq.ctx die off with
    | .leaf e k _ => finishLeaf s rq kind die off e k
    | .absent _ _ => .absent
    | .s2 ia => .s2 ia

/-- The translation of an access that waits while the bias of its page changes (R225). -/
def translate (s : State) (rq : Req) (kind : AKind) (die off : Nat) : TrRes :=
  match flipAt s rq.part rq.ctx die off with
  | some id => .flip id
  | none => translateE s rq kind die off

/-! ## Routing -/

/-- The physical core under virtual core `v` of a partition (R167, R394, R405). -/
def physCore (s : State) (p v : Nat) : Option Nat :=
  match tget s.parts p with
  | none => none
  | some pt =>
    let m := mget s.moved (p * 512 + v)
    let e := if m = 0 then mget pt.cmap v else m
    if e.getLsbD 15 then some (e.toNat % 512) else none

/-- The virtual core that physical core `c` carries in a partition. -/
def virtCore (s : State) (p c : Nat) : Option Nat :=
  (List.range 512).find? (fun v => decide (physCore s p v = some c))

/-- Whether an allocation that context `c` holds covers a scratchpad byte (R168 check 3). -/
def allocHeld (s : State) (p c v off : Nat) : Bool :=
  s.blocks.any (fun b => decide (b.2.part = p) && decide (b.2.ctx = c) && !b.2.swapped &&
    (b.2.vcores.zip b.2.spadOff).any (fun w => decide (w.1 = v) && decide (w.2 ≤ off)
      && decide (off < w.2 + ((b.2.desc.variants.getD b.2.variant
            { wgs := 0, groups := 0, xblk := 0, rank := 0, spad := 0, entry := 0 }).spad))))

/-- Where an address leads before any check of ownership: a target, a hole or invalid node, or paged
memory that must still be translated. -/
inductive Route where
  | to (t : Target)
  | paged (die off : Nat)
  | spad (v core off : Nat)
  | hole
deriving DecidableEq, Repr

/-- The routing of R165 to R167 for a partition. -/
def route (s : State) (p : Nat) (va : DWord) : Route :=
  let node := vaNode va
  let die := vaDie va
  let off := vaOff va
  if node = 510 then .to (.host off)
  else if node = 509 ∨ node = s.mnode then
    if off < DA then .paged die off
    else
      let o := off - DA
      if o < 0x20000000 then
        if o % 0x400000 < 0x200000 then
          match physCore s p (die * 128 + o / 0x400000) with
          | some c => .spad (die * 128 + o / 0x400000) c (o % 0x400000)
          | none => .hole
        else .hole
      else if 0x100000000 ≤ o ∧ o < 0x300000000 then
        match physCore s p (die * 128 + (o - 0x100000000) / 0x4000000) with
        | some c => .to (.window c ((o - 0x100000000) % 0x4000000))
        | none => .hole
      else if 0x400000000 ≤ o ∧ o < 0x400008000 then
        if die = 0 ∧ capOn s p capNotify = true then .to (.notify p ((o - 0x400000000) / 8)) else .hole
      else if 0x500000000 ≤ o ∧ o < 0x510000000 then .to (.nbctl die (o - 0x500000000))
      else .hole
  else if node ≤ 383 ∧ capOn s p capViaduct = true then .to (.remote node va)
  else .hole

end Sys2Proof.Machine
end

