-- ==== Sys2Proof/Machine/Homes.lean ====
section
/-! DEFINITION. Home slices (R398, R404), the free entries of a die directory (R238), and what reads and writes of memory do to
the copies that caches hold (R235, R236, R245, R247). -/

namespace Sys2Proof.Machine

/-- The channel of a physical frame: stack and channel (R328). -/
def frameChan (f : Nat) : Nat := f / 2 ^ 9 % 64

/-- The home slice of a region under a mask of held slices (R398). -/
def homeSlice (mask off : Nat) : Nat :=
  let sl := (List.range 80).filter (fun k => mask.testBit k)
  let h := Nat.xor (off / 2 ^ 9 % 2 ^ 16) (Nat.xor (off / 2 ^ 25 % 2 ^ 16) (off / 2 ^ 41 % 2 ^ 12))
  sl.getD (h * sl.length / 2 ^ 16) 0

/-- The home slice of an offset of a die for a partition: during a REHASH, the old home of a region at or above its sweep
pointer (R404). -/
def partSlice (x : Part) (die off : Nat) : Nat :=
  let o := homeSlice (x.slices.getD die 0) off
  if x.st = .resizing ∧ 4 ≤ x.phase then
    (match x.sweep.find? (fun e => decide (e.1 = die * 80 + o)) with
      | some (_, sp) => if sp ≤ off / 512 * 512 then o else homeSlice (x.tslices.getD die 0) off
      | none => homeSlice (x.tslices.getD die 0) off)
  else o

/-- The home slice of a line: that of the partition which holds the channel of its frame (R235, R391, R398). -/
def sliceOf (s : State) (line : Nat) : Nat :=
  let die := lineDie line
  let off := line % 2 ^ 46 * 128
  match s.parts.find? (fun p => (p.2.chans.getD die 0).testBit (frameChan (off / 8192)) || (p.2.tchans.getD die 0).testBit (frameChan (off / 8192))) with
  | some (_, x) => partSlice x die off
  | none => 0

/-- The region that a slice gives up for a new one: whether it has no entry free, and which of its regions it chooses, are open
(R238, log 40). -/
def victim (s : State) (c : Coh) (line slice : Nat) : Option Nat :=
  let rs := (c.dir.map Prod.fst).filter (fun r => decide (lineDie (r * 4) = lineDie line) && decide (sliceOf s (r * 4) = slice))
  if rs.isEmpty then none
  else if Config.dirFull s.clock line then rs[Config.dirVictim s.clock line % rs.length]? else none

/-- The lines of `n` bytes from a place on. -/
def linesFrom (k n : Nat) : List Nat := (List.range ((k + n - 1) / 128 + 1 - k / 128)).map (fun i => k / 128 + i)

/-- Does something to the copies of each line of some bytes. -/
def onLines (s : State) (f : (Coh → Nat → Nat → Option Nat) → Coh → Nat → Coh) (ls : List Nat) : State :=
  { s with co := ls.foldl (f (victim s)) s.co }

/-- A cache reads or writes lines (R236, R240). -/
def cacheReads (s : State) (cache : Nat) (ls : List Nat) : State := onLines s (fun v c l => cacheRead v c cache l (sliceOf s l)) ls
def cacheWrites (s : State) (cache : Nat) (ls : List Nat) : State := onLines s (fun v c l => cacheWrite v c cache l (sliceOf s l)) ls

/-- An agent that keeps no copy reads or writes lines at their homes (R245, R247). -/
def agentReads (s : State) (ls : List Nat) : State := onLines s agentRead ls
def agentWrites (s : State) (ls : List Nat) : State := onLines s agentWrite ls

/-- The lines of host memory stand from 2^50 on. -/
def hostLineAt (off : Nat) : Nat := 2 ^ 50 + off / 128

end Sys2Proof.Machine
end

