-- ==== Sys2Proof/Machine/Access.lean ====
section
/-! DEFINITION. Registers, memory, the checks of an access (R168), the device's own accesses to context
memory, and a group's outstanding operations (R172). -/

namespace Sys2Proof.Machine

/-! ## Lanes and registers -/

/-- The lanes of a mask, ascending (R2). -/
def lanesOf (m : Word) : List Nat := (List.range 32).filter (fun l => m.getLsbD l)

/-- The mask of one lane. -/
def laneBit (l : Nat) : Word := BitVec.ofNat 32 (2 ^ l)

/-- The mask of the lanes that `f` accepts. -/
def maskOf (f : Nat → Bool) : Word :=
  BitVec.ofNat 32 ((List.range 32).foldl (fun a l => if f l then a + 2 ^ l else a) 0)

/-- The lowest lane of a mask. -/
def lowLane (m : Word) : Nat := (lanesOf m).headD 0

/-- Vector register `r`, lane `l` (R28). -/
def vreg (g : Group) (r l : Nat) : Word := mget g.v (32 * r + l)

/-- The pair or quad of registers from `r`, lowest word first, as one number (R29, R72). -/
def vregs (g : Group) (r l : Nat) : Nat → Nat
  | 0 => 0
  | n + 1 => (vreg g r l).toNat + 2 ^ 32 * vregs g (r + 1) l n

/-- Scalar register `r`; sz reads zero (R28). -/
def sreg (g : Group) (r : Nat) : DWord := if r < 24 then mget g.s r else 0

/-- Predicate register `r`; p7 reads all ones (R28). -/
def preg (g : Group) (r : Nat) : Word := if r < 7 then mget g.p r else BitVec.allOnes 32

/-- Writes one lane of `n` registers from `r`. -/
def setVregs (v : SMap 32) (r l : Nat) : Nat → Nat → SMap 32
  | 0, _ => v
  | n + 1, x => setVregs (mset v (32 * r + l) (BitVec.ofNat 32 x)) (r + 1) l n (x / 2 ^ 32)

/-- Writes the lanes of `m` of `n` registers from `r` with the values of `f`. -/
def setLanes (g : Group) (m : Word) (r n : Nat) (f : Nat → Nat) : Group :=
  { g with v := (lanesOf m).foldl (fun v l => setVregs v r l n (f l)) g.v }

/-- Writes a scalar register; a write to sz is discarded (R28). -/
def setSreg (g : Group) (r : Nat) (x : DWord) : Group :=
  if r < 24 then { g with s := mset g.s r x } else g

/-- Writes the lanes of `m` of a predicate; a write to p7 is discarded (R28). -/
def setPreg (g : Group) (m : Word) (r : Nat) (x : Word) : Group :=
  if r < 7 then { g with p := mset g.p r ((mget g.p r &&& ~~~m) ||| (x &&& m)) } else g

/-- The slot of a side: 0 is A, anything else B. -/
def slotOf (g : Group) (side : Nat) : Slot := if side = 0 then g.a else g.b

/-- Replaces the slot of a side. -/
def setSlot (g : Group) (side : Nat) (sl : Slot) : Group :=
  if side = 0 then { g with a := sl } else { g with b := sl }

/-- A slot goes on after its instruction: PC + 4, the literal consumed (R36). -/
def advance (sl : Slot) : Slot := { sl with pc := sl.pc + 4, lc := 0, wait := .none, passed := 0 }

/-- The fields of MR (R30). -/
def mrET (mr : BitVec 11) : Nat := mr.toNat / 16 % 16
def mrRM (mr : BitVec 11) : RMode :=
  match mr.toNat / 256 % 4 with
  | 0 => .rne
  | 1 => .rtz
  | 2 => .rup
  | _ => .rdn
def mrSAT (mr : BitVec 11) : Bool := mr.getLsbD 10
def mrGS (mr : BitVec 11) : Bool := mr.getLsbD 3
def mrGP (mr : BitVec 11) : Nat := mr.toNat % 8

/-- Whether a value of MR is valid (R30). -/
def mrValid (mr : BitVec 11) : Bool := decide (mrET mr ≠ 15) && !(mrGP mr = 7 && mrGS mr)

/-- The lanes that pass the guard (R33). -/
def guardMask (g : Group) (mr : BitVec 11) : Word :=
  if mrGP mr = 7 then BitVec.allOnes 32
  else if mrGS mr then ~~~(preg g (mrGP mr)) else preg g (mrGP mr)

/-- Active() of R12 and R33. -/
def activeMask (g : Group) (sl : Slot) : Word := sl.exec &&& guardMask g sl.mr

/-- Converged() of R144. -/
def converged (g : Group) : Bool := (xor g.a.live g.b.live) && g.stack.isEmpty

/-- A PC is valid when its node field is 509 and it is a multiple of 4 (R27, R144). -/
def pcValid (pc : DWord) : Bool := decide (vaNode pc = 509) && decide (pc.toNat % 4 = 0)

/-- A PC as a slot or an entry holds it: node 509, bits [1:0] zero (R27, R144, R147). -/
def asPc (pc : DWord) : DWord := BitVec.ofNat 64 (509 * 2 ^ 55 + pc.toNat / 4 % 2 ^ 53 * 4)

/-- The outstanding counters, laid out as CNT (R43, R172). -/
def cntOf (g : Group) (c : OCls) : Nat := (g.out.filter (fun o => decide (o.cls = c))).length
def cntWord (g : Group) : Nat :=
  cntOf g .ld + 2 ^ 6 * cntOf g .st + 2 ^ 12 * cntOf g .cp + 2 ^ 18 * cntOf g .op + 2 ^ 24 * cntOf g .nb

/-- Whether a live slot does not wait: a stall on a counter is a wait until there is room (R142). -/
def slotReady (g : Group) (sl : Slot) : Bool :=
  sl.live && (match sl.wait with
    | .none => true
    | .resume => true
    | .room c n => decide (cntOf g c + n ≤ 63)
    | _ => false)

/-- Whether a trap is being entered in a slot (R253). -/
def entering (sl : Slot) : Bool :=
  sl.live && (match sl.wait with
    | .trap _ => true
    | _ => false)

/-- Whether a group is resident and issuing (R142): some live slot does not wait. -/
def groupIssuing (g : Group) : Bool :=
  decide (g.st = .resident) && (slotReady g g.a || slotReady g g.b || entering g.a || entering g.b)

/-! ## Objects -/

def setGroup (s : State) (gid : Nat) (g : Group) : State := { s with groups := tset s.groups gid g }
def setBlock (s : State) (b : Nat) (x : Block) : State := { s with blocks := tset s.blocks b x }
def setGrid (s : State) (n : Nat) (x : Grid) : State := { s with grids := tset s.grids n x }
/-- The next identifier, and the state after taking it. -/
def fresh (s : State) : Nat × State := (s.uid, { s with uid := s.uid + 1 })
def sendMsg (s : State) (m : Msg) : State := { s with sent := s.sent ++ [m] }

/-- The empty variant, used where a table has no entry. -/
def noVariant : Variant := { wgs := 0, groups := 0, xblk := 0, rank := 0, spad := 0, entry := 0 }
def variantOf (b : Block) : Variant := b.desc.variants.getD b.variant noVariant

/-- The groups of a block with their identifiers. -/
def groupsOf (s : State) (b : Nat) : List (Nat × Group) :=
  s.groups.filter (fun x => decide (x.2.blk = b))

/-- The level of a group's accesses: supervisor exactly when HLEV = 2 (R252). -/
def userLevel (g : Group) : Bool := decide (g.hlev ≠ 2)

/-- The request a group makes (R211). -/
def reqOf (s : State) (g : Group) : Req :=
  match tget s.blocks g.blk with
  | some b => { part := b.part, ctx := b.ctx, user := userLevel g }
  | none => { part := 16, ctx := 0, user := true }

/-! ## The error log (R455, R456) -/

/-- Writes an error record, or merges it into the newest one (R456). -/
def logError (s : State) (kind cls part hop : Nat) (addr : DWord) (ctx unit : Nat) : State :=
  let r : ErrRec := { seq := s.elogSeq, cls := cls, part := part, hop := hop, kind := kind, addr := addr, count := 1,
                      ctx := ctx, unit := unit }
  let add : State :=
    if s.elog.length < 1024 then { s with elog := s.elog ++ [r], elogSeq := s.elogSeq + 1 }
    else { s with elog := s.elog.drop 1 ++ [r], elogSeq := s.elogSeq + 1, elogLost := s.elogLost + 1 }
  match s.elog.getLast? with
  | none => add
  | some x =>
    if x.kind = kind ∧ x.addr = addr ∧ x.unit = unit ∧ x.ctx = ctx then
      { s with elog := s.elog.dropLast ++ [{ x with count := min (x.count + 1) (2 ^ 32 - 1) }] }
    else add

/-! ## Memory -/

/-- The key of a scratchpad byte. -/
def skey (core off : Nat) : Nat := core * 2 ^ 21 + off

/-- The `n` bytes at a target, least significant first (R2). -/
def readT (s : State) (t : Target) (n : Nat) : Nat :=
  match t with
  | .hbm d o => mbytes s.hbm (hkey d o) n
  | .hdm d o => mbytes s.hbm (hkey d o) n
  | .spad c o => mbytes s.spad (skey c o) n
  | .notify p i => (mget s.notify (p * 4096 + i)).toNat
  | .host o => mbytes s.host o n
  | .window _ _ => 0
  | .nbctl k i => (mget s.seqst (k * 4096 + i)).toNat
  | .remote _ _ => 0

/-- A target moved up by `k` bytes. -/
def Target.plus (t : Target) (k : Nat) : Target :=
  match t with
  | .hbm d o => .hbm d (o + k)
  | .hdm d o => .hdm d (o + k)
  | .spad c o => .spad c (o + k)
  | .host o => .host (o + k)
  | .window c o => .window c (o + k)
  | .remote n a => .remote n (a + BitVec.ofNat 64 k)
  | t => t

/-- The bytes behind a target, whichever bias its page has. -/
def Target.home (t : Target) : Target :=
  match t with
  | .hdm d o => .hbm d o
  | t => t

/-- Whether two targets share a byte, for accesses of `n` and `m` bytes. -/
def overlaps (t : Target) (n : Nat) (u : Target) (m : Nat) : Bool :=
  match t.home, u.home with
  | .hbm d o, .hbm d' o' => decide (d = d') && decide (o < o' + m) && decide (o' < o + n)
  | .spad c o, .spad c' o' => decide (c = c') && decide (o < o' + m) && decide (o' < o + n)
  | .notify p i, .notify p' i' => decide (p = p') && decide (i = i')
  | .host o, .host o' => decide (o < o' + m) && decide (o' < o + n)
  | .window c o, .window c' o' => decide (c = c') && decide (o < o' + m) && decide (o' < o + n)
  | .remote k a, .remote k' a' =>
    decide (k = k') && decide (a.toNat < a'.toNat + m) && decide (a'.toNat < a.toNat + n)
  | _, _ => false

/-- x cond v of WATCH (R280), for words of `n` bytes. -/
def watchHolds (cond n : Nat) (x v : DWord) : Bool :=
  let a := x.toNat % 2 ^ (8 * n)
  let b := v.toNat % 2 ^ (8 * n)
  match cond with
  | 0 => decide (a = b)
  | 1 => decide (a ≠ b)
  | 2 => decide (b ≤ a)
  | 3 => decide (a < b)
  | 4 => decide (signedOf (8 * n) b ≤ signedOf (8 * n) a)
  | _ => decide (signedOf (8 * n) a < signedOf (8 * n) b)

/-- The monitors of one block after a write of `n` bytes at a target: each ARMED one whose comparison
now holds captures the word (R278). -/
def fireMons (s : State) (t : Target) (n : Nat) (ms : Tbl Mon) : Tbl Mon :=
  ms.map (fun e =>
    let m := e.2
    if m.cap = none && overlaps t n m.tgt m.size then
      let x := BitVec.ofNat 64 (readT s m.tgt m.size)
      if watchHolds m.cond m.size x m.val then (e.1, { m with cap := some x }) else e
    else e)

/-- Marks a swapped-out block for return, once (R366). -/
def markBlock (s : State) (b : Nat) : State :=
  match tget s.blocks b with
  | some x =>
    if x.swapped && x.marked = none then
      match tget s.disps x.part with
      | some d =>
        { s with blocks := tset s.blocks b { x with marked := some d.marks },
                 disps := tset s.disps x.part { d with marks := d.marks + 1 } }
      | none => s
    else s
  | none => s

/-- What follows a write performed at a home: monitors fire (R277, R278), a swapped-out block whose
monitor fired is marked for return (R366), and wake words that now equal their SEQ are seen (R265). -/
def afterWrite (s : State) (t : Target) (n : Nat) : State :=
  let blocks := s.blocks.map (fun b => (b.1, { b.2 with mons := fireMons s t n b.2.mons }))
  let fired := (s.blocks.zip blocks).filter (fun x => decide (x.1.2.mons ≠ x.2.2.mons))
  let svc := s.svcreqs.map (fun r =>
    if !r.2.woken && !r.2.hit && overlaps t n r.2.wake 8
        && decide (BitVec.ofNat 64 (readT s r.2.wake 8) = r.2.seq) then (r.1, { r.2 with hit := true }) else r)
  fired.foldl (fun s x => markBlock s x.1.1) { s with blocks := blocks, svcreqs := svc }

/-- Whether a mark is set on any granule of `g` bytes that the `n` bytes from `k` on touch. -/
def markedIn (m : SMap 1) (g k n : Nat) : Bool :=
  (List.range ((k + n - 1) / g + 1 - k / g)).any (fun i => decide (mget m (k / g + i) ≠ 0))

/-- Whether any byte of an access lies in a poisoned granule (R452). -/
def poisonedT (s : State) (t : Target) (n : Nat) : Bool :=
  match t with
  | .hbm d o => markedIn s.poison 16 (hkey d o) n
  | .hdm d o => markedIn s.poison 16 (hkey d o) n
  | .spad c o => markedIn s.spoison 8 (skey c o) n
  | .host o => markedIn s.hostPoison 16 o n
  | _ => false

/-- An access of the device to a page of host bias goes out over port C (R224, R247). -/
def tellHost (s : State) (die off : Nat) (write : Bool) : State := { s with co := coTell s.co (.access die off write) }

/-- What an access of `n` bytes at a target does to copies, made by the L1 or instruction cache `k` that keeps the line, or by an
agent that keeps none (R236, R245 to R247). -/
def touch (s : State) (k : Option Nat) (t : Target) (n : Nat) (write : Bool) : State :=
  match t with
  | .hbm d o =>
    let ls := linesFrom (hkey d o) n
    (match k with
      | some c => if write then cacheWrites s c ls else cacheReads s c ls
      | none => if write then agentWrites s ls else agentReads s ls)
  | .hdm d o => tellHost s d o write
  | _ => s

/-- The bytes of a plain write of `n` bytes at its home, and what follows. A write to HBM clears the capability tag and the
poison mark of the bytes it covers (R438, R452). -/
def putT (s : State) (t : Target) (n x : Nat) : State :=
  match t.home with
  | .hbm d o =>
    afterWrite { s with
      hbm := msetBytes s.hbm (hkey d o) n x
      poison := mclear s.poison ((hkey d o + 15) / 16) ((hkey d o + n) / 16)
      ctag := mclear s.ctag (hkey d o / 16) ((hkey d o + n + 15) / 16) } (.hbm d o) n
  | .spad c o => afterWrite { s with
      spad := msetBytes s.spad (skey c o) n x
      spoison := mclear s.spoison ((skey c o + 7) / 8) ((skey c o + n) / 8) } (.spad c o) n
  | .notify p i => afterWrite { s with notify := mset s.notify (p * 4096 + i) (BitVec.ofNat 64 x) } (.notify p i) n
  | .host o => afterWrite { s with
      host := msetBytes s.host o n x
      hostPoison := mclear s.hostPoison ((o + 15) / 16) ((o + n) / 16) } (.host o) n
  | _ => s

/-- A plain write of `n` bytes performed at its home for an agent that keeps no copy. -/
def writeT (s : State) (t : Target) (n x : Nat) : State := putT (touch s none t n true) t n x

/-- A plain write of `n` bytes performed by the L1 of a core. -/
def writeBy (s : State) (core : Nat) (t : Target) (n x : Nat) : State := putT (touch s (some core) t n true) t n x

/-- Adds to a notify register, modulo 2^64, as one RMW (R124, R352). -/
def addNotify (s : State) (p i : Nat) (x : DWord) : State :=
  writeT s (.notify p i) 8 (mget s.notify (p * 4096 + i) + x).toNat

/-- Whether a link carries requests. -/
def linkUp (l : Link) : Bool := decide (l.st = .up) || decide (l.st = .degraded)

/-- Whether port C, the last of the links, carries requests (R410). -/
def portCUp (s : State) : Bool := linkUp (s.links.getD 19 Link.reset)

/-- Where an access to a page goes: to its home, or through port C if its bias is to the host (R224). -/
def biased (pte : DWord) (die pa : Nat) : Target := if pteBias pte then .hdm die pa else .hbm die pa

/-- Whether an access must wait for port C (R224). -/
def awaitsPortC (s : State) (t : Target) : Bool :=
  match t with
  | .hdm _ _ => !(portCUp s)
  | _ => false

/-! ## Checks of an access (R168) -/

/-- Whether an interval of addresses meets a range lock of a context that the kind conflicts with
(R188): a load or line operation with a write lock, a store or atomic with either. -/
def rlockHit (s : State) (rq : Req) (kind : AKind) (va n : Nat) : Bool :=
  let va := (ownVa s (BitVec.ofNat 64 va)).toNat
  s.locks.any (fun l => decide (l.part = rq.part) && decide (l.ctx = rq.ctx) && decide (va ≤ l.hi)
    && decide (l.lo < va + n)
    && (match kind with
        | .load => l.write
        | .line => l.write
        | .fetch => false
        | .store => true
        | .amo => true))

/-- Bytes of one tile of a deck (R293). -/
def tileBytes (wfmt : Nat) : Nat := if wfmt = 1 ∨ wfmt = 4 then 4096 else 8192
/-- The fields of a format slot's word 0 (R79). -/
def fsWFMT (w : DWord) : Nat := w.toNat % 16
def fsAFMT (w : DWord) : Nat := w.toNat / 2 ^ 4 % 16
def fsDFMT (w : DWord) : Nat := w.toNat / 2 ^ 8 % 16
def fsDSAT (w : DWord) : Bool := w.getLsbD 12
def fsROT (w : DWord) : Bool := w.getLsbD 13
def fsSWZ (w : DWord) : Nat := w.toNat / 2 ^ 14 % 8
def fsL (w : DWord) : Int := signedOf 8 (w.toNat / 2 ^ 24)
def fsDSH (w : DWord) : Int := signedOf 8 (w.toNat / 2 ^ 32)

/-- Whether a scratchpad interval meets the deck or scale bytes of an operator (R298). -/
def deckHit (s : State) (kind : AKind) (core off n : Nat) : Bool :=
  s.ops.any (fun e =>
    let o := e.2
    let kt := (o.sk + 127) / 128
    let nt := (o.sn + 63) / 64
    let len := kt * nt * tileBytes (fsWFMT (o.slot.getD 0 0))
    let np := if o.trans then o.k else o.n
    decide (e.1 / 64 = core)
      && ((decide (off < o.deck + len) && decide (o.deck < off + n))
        || (match o.scale with
            | some a => decide (off < a + 2 * np) && decide (a < off + n)
            | none => false))
      && (match kind with
          | .load => !o.readable
          | .line => !o.readable
          | .fetch => false
          | .store => true
          | .amo => true))

/-- How the checks of one lane's address end: its target with the leaf's attributes; the order number
of the failing check of R168 with its cause (R249); a second-stage failure (R218); or a flip that the
access waits for (R225), as it waits with 0 for port C when its page has host bias (R224). -/
inductive Acc where
  | ok (t : Target) (pte : DWord)
  | bad (order cause : Nat)
  | s2 (die ia : Nat)
  | flip (id : Nat)
deriving DecidableEq, Repr

/-- The line an address lies in, for a line operation: 128 bytes of paged memory, 64 of scratchpad
(R179). -/
def lineOf (rt : Route) (va : DWord) : Nat × Nat :=
  match rt with
  | .spad _ _ _ => (va.toNat / 64 * 64, 64)
  | _ => (va.toNat / 128 * 128, 128)

/-- The checks of R168 on an access of `n` bytes at `va`; `lo` and `len` are the bytes tested against
range locks. Notify registers take 8-byte accesses only (R351), the near-bank control region 8-byte
supervisor loads (R339); what an operator window answers is left to its owner (R295). -/
def checkAcc (s : State) (rq : Req) (kind : AKind) (va : DWord) (n lo len : Nat) : Acc :=
  if va.toNat % n ≠ 0 then .bad 1 4
  else
    match route s rq.part va with
    | .hole => .bad 2 18
    | .to (.notify p i) =>
      if n = 8 ∧ kind ≠ .line then .ok (.notify p i) 0 else .bad 2 18
    | .to (.nbctl d o) =>
      match tget s.parts rq.part with
      | none => .bad 2 18
      | some pt =>
        if n = 8 ∧ kind = .load ∧ rq.user = false ∧ o < 0x20000 ∧ o % 0x10000 / 8 < pt.sqlen then
          .ok (.nbctl (2 * d + o / 0x10000) (pt.sqbase + o % 0x10000 / 8)) 0
        else .bad 2 18
    | .to t => .ok t 0
    | .spad v c o =>
      if !allocHeld s rq.part rq.ctx v o then .bad 3 18
      else if rlockHit s rq kind lo len || deckHit s kind c (o / len * len) len then .bad 4 5
      else .ok (.spad c o) 0
    | .paged d o =>
      if rlockHit s rq kind lo len then .bad 4 5
      else
        match translate s rq kind d o with
        | .ok pa pte => if pteBias pte && !(portCUp s) then .flip 0 else .ok (biased pte d pa) pte
        | .absent => .bad 5 16
        | .denied => .bad 5 17
        | .s2 ia => .s2 d ia
        | .flip id => .flip id

/-! ## Writes and reads of the device in context memory -/

/-- Whether the host serves a node-510 address of a partition now (R227, R416). -/
def hostServes (s : State) (p c off : Nat) : Bool :=
  decide (mget s.tdi p = 2)
    && (match tget s.ctxs (p * 1024 + c) with
        | some cx => !(s.hostRefused.contains (cx.pasid, off / 4096))
        | none => false)

/-- How an access of the device ends: done, refused at the owner, waiting for the second stage, or waiting for the end of a flip
or for port C (R225). -/
inductive DevRes (α : Type) where
  | done (a : α)
  | failed (addr : DWord)
  | s2 (die ia : Nat)
  | wait
deriving Repr

/-- Goes on with what an access of the device gave. -/
def DevRes.andThen {α β : Type} (x : DevRes α) (f : α → DevRes β) : DevRes β :=
  match x with
  | .done a => f a
  | .failed a => .failed a
  | .s2 d ia => .s2 d ia
  | .wait => .wait

/-- The target of one 8-byte word. Device accesses are made at supervisor level and take no notice of range locks. -/
def devTarget (s : State) (rq : Req) (kind : AKind) (va : DWord) : DevRes Target :=
  match route s rq.part va with
  | .paged d o =>
    (match translate s { rq with user := false } kind d o with
      | .ok pa pte => if pteBias pte && !(portCUp s) then .wait else .done (biased pte d pa)
      | .absent => .failed va
      | .denied => .failed va
      | .s2 ia => .s2 d ia
      | .flip _ => .wait)
  | .spad v c o => if allocHeld s rq.part rq.ctx v o then .done (.spad c o) else .failed va
  | _ => .failed va

/-- The targets of `n` consecutive 8-byte words at `va`, in order. -/
def devTargets (s : State) (rq : Req) (kind : AKind) (va : DWord) : Nat → DevRes (List Target)
  | 0 => .done []
  | n + 1 =>
    (devTarget s rq kind va).andThen (fun t => (devTargets s rq kind (va + 8) n).andThen (fun ts => .done (t :: ts)))

/-- Writes 8-byte words at `va`, all or none. -/
def devWrite (s : State) (rq : Req) (va : DWord) (ws : List DWord) : DevRes State :=
  (devTargets s rq .store va ws.length).andThen (fun ts =>
    .done ((ts.zip ws).foldl (fun s x => writeT s x.1 8 x.2.toNat) s))

/-- Reads `n` 8-byte words at `va`. -/
def devRead (s : State) (rq : Req) (va : DWord) (n : Nat) : DevRes (List DWord) :=
  (devTargets s rq .load va n).andThen (fun ts => .done (ts.map (fun t => BitVec.ofNat 64 (readT s t 8))))

/-- Whether a second-stage page was refused by Quinmin (R218). -/
def s2Refused (s : State) (p die ia : Nat) : Bool := s.s2refused.contains (p, die, ia / 8192)

/-- Signals Quinmin that a second-stage entry is missing (R218), once. -/
def signalS2 (s : State) (p die ia : Nat) : State :=
  if s.s2wait.contains (p, die, ia / 8192) then s
  else sendMsg { s with s2wait := s.s2wait ++ [(p, die, ia / 8192)] } (.quinmin p 0 1 (BitVec.ofNat 64 ia))

/-! ## Outstanding operations (R172 to R174) -/

/-- Adds a refusal to a group's record (R173). -/
def addRefusal (g : Group) (addr : DWord) (mask : Word) (cls : Nat) : Group :=
  match g.ref with
  | none => { g with ref := some { addr := addr, mask := mask, cls := cls } }
  | some r => { g with ref := some { r with mask := r.mask ||| mask } }

/-- The class code of a refusal record: 0 ld, 1 st, 2 cp (R173). -/
def refClass (c : OCls) : Nat :=
  match c with
  | .ld => 0
  | .cp => 2
  | _ => 1

/-- Changes the outstanding operation `uid` of a group. -/
def updOut (g : Group) (uid : Nat) (f : Out → Out) : Group :=
  { g with out := g.out.map (fun o => if o.uid = uid then f o else o) }

/-- The class of the outstanding operation `uid`. -/
def outClass (g : Group) (uid : Nat) : OCls :=
  match g.out.find? (fun o => decide (o.uid = uid)) with
  | some o => o.cls
  | none => .st

/-- The lanes that a refusal of a scalar access `uid` names: those of its slot (R250). -/
def outLanes (g : Group) (uid : Nat) : Option Word :=
  match g.out.find? (fun o => decide (o.uid = uid)) with
  | some o => o.lanes
  | none => none

/-! ### Requests to other nodes and to the host (R424 to R428) -/

/-- The hash of R283 over an offset. -/
def addrHash (off : Nat) : Nat :=
  let f (k : Nat) : Nat := off / 2 ^ k % 128
  Nat.xor (f 7) (Nat.xor (f 14) (Nat.xor (f 21) (Nat.xor (f 28) (Nat.xor (f 35) (Nat.xor (f 42) (off / 2 ^ 49 % 16))))))

/-- The ports of a node's mask that are UP or DEGRADED, ascending (R424). -/
def portsTo (s : State) (node : Nat) : List Nat :=
  (List.range 18).filter (fun k => (mget s.routes node).getLsbD k && linkUp (s.links.getD k Link.reset))

/-- The port R424 selects for a request. -/
def portFor (s : State) (node : Nat) (addr : DWord) : Option Nat :=
  let ps := portsTo s node
  if ps.isEmpty then none else ps[addrHash (vaOff addr) % ps.length]?

/-- Whether an earlier outstanding request of the same source, destination and line went to another port
(R424). -/
def sendBlocked (s : State) (id port : Nat) (r : RReq) : Bool :=
  s.reqs.any (fun e => decide (e.1 < id) && decide (e.2.src = r.src) && decide (e.2.node = r.node)
    && decide (e.2.addr.toNat / 128 = r.addr.toNat / 128) && decide (e.2.port ≠ some port))

/-- The end of a lane's request: the registers it owes, zero when it was refused, and the refusal (R173,
R427). -/
def laneAnswer (s : State) (gid uid lane reg n : Nat) (addr : DWord) (ok : Bool) (data : Nat) : State :=
  match tget s.groups gid with
  | none => s
  | some g =>
    let cls := outClass g uid
    let g := updOut g uid (fun o => { o with
      pend := o.pend - 1
      vw := o.vw ++ (List.range n).map (fun i =>
        (32 * (reg + i) + lane, if ok then BitVec.ofNat 32 (data / 2 ^ (32 * i)) else 0)) })
    setGroup s gid (if ok then g else addRefusal g addr ((outLanes g uid).getD (laneBit lane)) (refClass cls))

/-- The end of an eight-byte part of a SEALLD: refused bytes read as 0 (R389). -/
def pairAnswer (s : State) (gid uid lane reg : Nat) (addr : DWord) (ok : Bool) (data : Nat) : State :=
  match tget s.groups gid with
  | none => s
  | some g =>
    let x := if ok then data else 0
    let g := updOut g uid (fun o => { o with
      pend := o.pend - 1
      vw := o.vw ++ [(32 * reg + lane, BitVec.ofNat 32 x), (32 * reg + lane + 1, BitVec.ofNat 32 (x / 2 ^ 32))] })
    setGroup s gid (if ok then g else addRefusal g addr ((outLanes g uid).getD 0xFFFFFFFF) 0)

/-- The end of a scalar load's request. -/
def scalarAnswer (s : State) (gid uid reg : Nat) (addr : DWord) (ok : Bool) (data : Nat) : State :=
  match tget s.groups gid with
  | none => s
  | some g =>
    let g := updOut g uid (fun o => { o with pend := o.pend - 1, sw := some (reg, if ok then BitVec.ofNat 64 data else 0) })
    setGroup s gid (if ok then g else addRefusal g addr ((outLanes g uid).getD 0xFFFFFFFF) 0)

/-- What a load of a base word leaves in its register, by the kind of the load: signed bytes, halves, words, doubles; unsigned ones
(log 116). -/
def hartExt (ext data : Nat) : DWord :=
  match ext with
  | 0 => (BitVec.ofNat 8 data).signExtend 64
  | 1 => (BitVec.ofNat 16 data).signExtend 64
  | 2 => (BitVec.ofNat 32 data).signExtend 64
  | _ => BitVec.ofNat 64 data

/-- The register of a hart that an answer goes to: 0 to 31 an integer register, 32 to 47 a capability register, 48 to 63
the same with WC removed, 64 none of a CSC, 65 the fetched word; from 2048 on that of a base word, which the PC then passes: a load of
an integer register, 7 and 8 of a float register of 4 and 8 bytes, 9 a store. -/
def hartPut (x : Hart) (reg : Nat) (addr : DWord) (load : Bool) (data : Nat) : Hart :=
  if 2048 ≤ reg then
    let r := reg % 32
    let ext := reg / 32 % 32
    let x := { x with pc := x.pc + (if reg / 1024 % 2 = 1 then 2 else 4), fetched := none }
    if ext = 9 then x
    else if ext = 7 then { x with f := mset x.f r (BitVec.ofNat 64 (0xFFFFFFFF00000000 + data % 2 ^ 32)) }
    else if ext = 8 then { x with f := mset x.f r (BitVec.ofNat 64 data) }
    else { x with x := if r = 0 then x.x else mset x.x r (hartExt ext data) }
  else if reg < 32 then { x with x := if load && decide (reg ≠ 0) then mset x.x reg (BitVec.ofNat 64 data) else x.x }
  else if reg < 64 then
    let wc : BitVec 129 := if 48 ≤ reg then BitVec.ofNat 129 (2 ^ 86) else 0
    let c : BitVec 129 := BitVec.ofNat 129 (data % 2 ^ 128) &&& 0xFFFFFFFFC0FFFC00FFFFFFFFFFFFFFFF#129 &&& ~~~wc
    { x with k := if reg % 16 = 0 then x.k else mset x.k (reg % 16) c, pc := x.pc + 4 }
  else if reg = 64 then { x with pc := x.pc + 4 }
  else { x with fetched := some (addr, BitVec.ofNat 32 data) }

/-- The end of a hart's request. A refusal is the hart's access fault of its kind, which the hart takes at its
next step (R431). -/
def hartAnswer (s : State) (h reg : Nat) (addr : DWord) (ok load : Bool) (data : Nat) : State :=
  { s with harts := tmod s.harts h (fun x =>
      if ok then { hartPut x reg addr load data with busy := false }
      else { x with busy := false, refused := some (if reg = 65 then 1 else if load then 5 else 7, addr) }) }

/-- A part of a copy that is done or refused elsewhere: the bytes read, or the code of the refusal (R184). -/
def copyAnswer (s : State) (id : Nat) (off : Option Nat) (n : Nat) (addr : DWord) (status : Nat) (poison : Bool) (data : Nat) : State :=
  { s with copies := tmod s.copies id (fun c =>
      let c := { c with waits := c.waits - 1 }
      match off with
      | none => if status = 0 then c else { c with wfails := c.wfails ++ [(5 + status, addr)] }
      | some o =>
        if status ≠ 0 then { c with fails := c.fails ++ [(o, 5 + status, addr)] }
        else
          let c := if poison then { c with fails := c.fails ++ [(o, 9, addr)] } else c
          { c with buf := msetBytes c.buf o n data }) }

/-- Gives the slots of a group that wait in a WATCH on a word without a monitor the value that came for it: one that satisfies the
comparison completes the WATCH (R279). -/
def watchGot (g : Group) (va : DWord) (x : DWord) : Group :=
  let one (g : Group) (side : Nat) : Group :=
    match (slotOf g side).wait with
    | .watchPoll d a n cond v =>
      if a = va ∧ watchHolds cond n x v = true then
        setSlot (setSreg { g with recs := g.recs.filter (fun r => decide (r.1 ≠ va)) } d x) side (advance (slotOf g side))
      else g
    | _ => g
  if g.st = .resident then one (one g 0) 1 else g

/-- A request ends with a status of R425 (0 DONE, 1 NOTPRESENT, 2 REFUSED, 3 REVOKED). Data that come with
the poison mark are reported to a group or a hart as refused (R248, R453). -/
def endReq (s : State) (id status : Nat) (poison : Bool) (data : Nat) : State :=
  match tget s.reqs id with
  | none => s
  | some r =>
    let s := { s with reqs := tdel s.reqs id }
    let ok := decide (status = 0) && !poison
    match r.owner with
    | .lane gid uid lane reg n => laneAnswer s gid uid lane reg n r.addr ok data
    | .scalar gid uid reg => scalarAnswer s gid uid reg r.addr ok data
    | .pair gid uid lane reg => pairAnswer s gid uid lane reg r.addr ok data
    | .record gid lanes => { s with groups := tmod s.groups gid (fun g =>
        let g := { g with recs := g.recs.map (fun x => if x.1 = r.addr then (x.1, some (if ok then BitVec.ofNat 64 data else 0)) else x) }
        if ok then g else addRefusal g r.addr lanes (if r.kind = .wr then 1 else 0)) }
    | .watch gid lanes => { s with groups := tmod s.groups gid (fun g =>
        if ok then watchGot { g with recs := g.recs.map (fun x => if x.1 = r.addr then (x.1, some (BitVec.ofNat 64 data)) else x) }
          r.addr (BitVec.ofNat 64 data)
        else addRefusal { g with recs := g.recs.filter (fun x => decide (x.1 ≠ r.addr)) } r.addr lanes 0) }
    | .copyIn cid off => copyAnswer s cid (some off) r.size r.addr status poison data
    | .copyOut cid => copyAnswer s cid none r.size r.addr status false 0
    | .hart h reg => hartAnswer s h reg r.addr ok (decide (r.kind = .rd)) data
    | .disp p => { s with disps := tmod s.disps p (fun d => { d with recs := d.recs.map (fun x =>
        if x.1 = r.addr then (x.1, some (if ok then some (BitVec.ofNat 64 data) else none)) else x) }) }
    | .post pid => { s with devq := tmod s.devq pid (fun w => { w with waits := w.waits - 1 }) }
    | .reply rid lane => { s with svcreqs := tmod s.svcreqs rid (fun x =>
        { x with waits := x.waits - 1, bad := if ok || x.bad.contains lane then x.bad else x.bad ++ [lane] }) }
    | .flip fid => { s with flips := tmod s.flips fid (fun f => { f with snoop := if status = 0 then 2 else 0 }) }

/-- The code of a request kind in a message. -/
def kindCode : RKind → Nat
  | .rd => 0 | .rdc => 1 | .wr => 2 | .amo => 3 | .ntf => 4

/-- Sends a request that waits at its source, if R424 lets it go; with no port it ends NOTPRESENT. A request to
the host waits for the port C agent instead. -/
def trySend (s : State) (id : Nat) : State :=
  match tget s.reqs id with
  | none => s
  | some r =>
    if r.port.isSome || decide (r.node = 510) then s
    else
      match portFor s r.node r.addr with
      | none => endReq s id 1 false 0
      | some p =>
        if sendBlocked s id p r then s
        else sendMsg { s with reqs := tset s.reqs id { r with port := some p } }
          (.urrad id r.node r.part r.ctx (BitVec.ofNat 64 (r.addr.toNat % 2 ^ 55)) (kindCode r.kind) r.op r.size r.a r.b)

/-- Tries every request that waits at its source. -/
def pumpReqs (s : State) : State := (s.reqs.map Prod.fst).foldl trySend s

/-- Issues a request to another node or the host. -/
def newReq (s : State) (r : RReq) : State :=
  let (id, s) := fresh s
  trySend { s with reqs := tset s.reqs id r } id

/-! ### Device writes that a record asks for (R124, R370) -/

/-- A write of the device at supervisor level in its partition and context. -/
def DevWrite.rq (w : DevWrite) : Req := { part := w.part, ctx := w.ctx, user := false }

/-- Writes the words here, if they need no other node and nothing to wait for. Words that the owner refuses are dropped; words
in host memory are written where the host serves the address. -/
def localPost (s : State) (w : DevWrite) : Option State :=
  match route s w.part w.addr with
  | .to (.remote _ _) => none
  | .to (.host o) =>
    if portCUp s then
      some (if hostServes s w.part w.ctx o then
        (w.words.zip (List.range w.words.length)).foldl (fun s x => writeT s (.host (o + 8 * x.2)) 8 x.1.toNat) s else s)
    else none
  | _ =>
    match devWrite s w.rq w.addr w.words with
    | .done s => some s
    | .failed _ => some s
    | .s2 d ia => if s2Refused s w.part d ia then some s else none
    | .wait => none

/-- Sends the words of a device write to another node. -/
def sendPost (s : State) (id node : Nat) (w : DevWrite) : State :=
  (w.words.zip (List.range w.words.length)).foldl (fun s x =>
    newReq s { src := 512 + w.part, part := w.part, ctx := w.ctx, node := node, addr := w.addr + BitVec.ofNat 64 (8 * x.2), kind := .wr,
               op := 0, size := 8, a := x.1.setWidth 128, b := 0, port := none, owner := .post id })
    { s with devq := tset s.devq id { w with asked := true, waits := w.words.length } }

/-- Tries a write of the queue; whether it is over. -/
def tryPost (s : State) (id : Nat) (w : DevWrite) : State × Bool :=
  match route s w.part w.addr with
  | .to (.remote node _) =>
    let s := if w.asked then s else sendPost s id node w
    (s, match tget s.devq id with
      | some w => decide (w.waits = 0)
      | none => true)
  | _ =>
    match localPost s w with
    | some s => (s, true)
    | none =>
      (match devTargets s w.rq .store w.addr w.words.length with
        | .s2 d ia => signalS2 s w.part d ia
        | _ => s, false)

/-- The notify increment that follows a device write, while the partition is there (R124). -/
def postInc (s : State) (w : DevWrite) : State :=
  match w.inc with
  | some (i, x) => if (tget s.parts w.part).isSome then addNotify s w.part i x else s
  | none => s

/-- Makes a device write with what follows it, or lets it wait; whether it is over. -/
def makePost (s : State) (w : DevWrite) : State × Bool :=
  match localPost s w with
  | some s => (postInc s w, true)
  | none =>
    let (id, s) := fresh s
    let (s, over_) := tryPost { s with devq := tset s.devq id w } id w
    if over_ then (postInc { s with devq := tdel s.devq id } w, true) else (s, false)

/-- A device write that a record asks for (R124, R370). -/
def devPost (s : State) (rq : Req) (va : DWord) (ws : List DWord) (inc : Option (Nat × DWord)) : State :=
  (makePost s { part := rq.part, ctx := rq.ctx, addr := va, words := ws, inc := inc, kid := none, asked := false, waits := 0 }).1

/-- Sends an MSI-X of a partition's function, or marks it pending while its vector is masked; VEC 256 and above send
none (R414, R422). -/
def sendMsix (s : State) (p vec : Nat) : State :=
  if 256 ≤ vec then s
  else if mget s.msixOn (p * 256 + vec) = 1 then sendMsg s (.msix p vec)
  else { s with msixPend := mset s.msixPend (p * 256 + vec) 1 }

/-- A store lane as a request: a store whose target is a notify register of another node is NTF there, which
the owner decides by its address (R425). -/
def storeReq (rq : Req) (src gid uid : Nat) (node : Nat) (l : StLane) : RReq :=
  { src := src, part := rq.part, ctx := rq.ctx, node := node, addr := l.addr, kind := .wr, op := 0, size := l.size, a := l.data, b := 0,
    port := none, owner := .lane gid uid l.lane 0 0 }

/-! ### Performing -/

/-- Whether a target is outside the issuing core's reach, so that an answer must come. -/
def elsewhere : Target → Bool
  | .remote _ _ => true
  | .host _ => true
  | .window _ _ => true
  | _ => false

/-- Who a group's access comes from (R305). -/
def whoOf (s : State) (gid : Nat) (g : Group) (uid : Nat) : Who :=
  match tget s.blocks g.blk with
  | some b => { part := b.part, ctx := b.ctx, blk := some g.blk, die := g.core / 128, cls := 0, node := 0, gid := some (gid, uid) }
  | none => { part := 16, ctx := 0, blk := none, die := 0, cls := 0, node := 0, gid := some (gid, uid) }

/-- The operator under a window byte, by physical core (R294). -/
def winKey (core off : Nat) : Nat := core * 64 + off / 0x100000

/-- The operator under a window byte: that of the index, or one set aside through SAVED whose index nobody else has taken
(R376, log 85). -/
def winOper (s : State) (core off : Nat) : Option (Nat × Oper) :=
  match tget s.ops (winKey core off) with
  | some o => some (winKey core off, o)
  | none => s.ops.find? (fun o => decide (2 ^ 15 ≤ o.1) && decide (o.1 % 64 = off / 0x100000) && o.2.root.isNone
      && (match tget s.blocks o.2.blk with
        | some b => decide (physCore s b.part (b.vcores.getD o.2.wg 512) = some core)
        | none => false))

/-- An access that comes to the owner of a window (R297, R303, R304). -/
def arrival (s : State) (core : Nat) (load consume : Bool) (who : Who) (reg : Nat) (ls : List StLane) (req : Option Nat) (more : Bool) : HeldAcc :=
  let o : Option Oper := match ls with
    | [] => none
    | l :: _ => (match l.tgt with
      | .window c off => (winOper s c off).map Prod.snd
      | _ => none)
  { core := core, load := load, consume := consume, who := who, reg := reg, lanes := ls, held := false, req := req, more := more,
    ident := o.map (fun o => (o.blk, o.reuse)),
    susp := match o with
      | some o => decide (o.st = .suspended) || decide (o.st = .moving)
      | none => false
    grant := none }

/-- Performs one lane of a store: at its home, or as a request, or as an arrival at an operator's owner. -/
def performLane (s : State) (gid uid : Nat) (l : StLane) : State :=
  match tget s.groups gid with
  | none => writeT s l.tgt l.size l.data.toNat
  | some g =>
    let rq := reqOf s g
    match l.tgt with
    | .remote node _ => newReq s (storeReq rq g.core gid uid node l)
    | .host o =>
      if l.size = 16 then
        let s := newReq s (storeReq rq g.core gid uid 510 { l with size := 8 })
        newReq s (storeReq rq g.core gid uid 510 { l with addr := l.addr + 8, tgt := .host (o + 8), size := 8, data := l.data >>> 64 })
      else newReq s (storeReq rq g.core gid uid 510 l)
    | .window c _ =>
      { s with heldAcc := s.heldAcc ++ [arrival s c false false (whoOf s gid g uid) 0 [l] none false] }
    | _ => writeBy s g.core l.tgt l.size l.data.toNat

/-- Performs the lanes of a store in ascending lane order (R174). -/
def performLanes (s : State) (gid uid : Nat) (ls : List StLane) : State :=
  ls.foldl (fun s l => performLane s gid uid l) s

/-- A ZERO of a line by a core: the bytes, the tag of a scratchpad line (R171), and the capability tags. -/
def zeroLine (s : State) (core : Nat) (t : Target) : State :=
  let s := touch s (some core) t 1 true
  match t.home with
  | .hbm d o =>
    let o := o / 128 * 128
    afterWrite { s with
      hbm := mclear s.hbm (hkey d o) (hkey d o + 128)
      poison := mclear s.poison (hkey d o / 16) (hkey d o / 16 + 8)
      ctag := mclear s.ctag (hkey d o / 16) (hkey d o / 16 + 8) } (.hbm d o) 128
  | .spad c o =>
    let o := o / 64 * 64
    afterWrite { s with
      spad := mclear s.spad (skey c o) (skey c o + 64)
      spoison := mclear s.spoison (skey c o / 8) (skey c o / 8 + 8)
      swz := mset s.swz (c * 2 ^ 15 + o / 64) 0 } (.spad c o) 64
  | _ => s

/-- How many answers from elsewhere a store lane waits for: a 16-byte lane to the host is two 8-byte halves
(R174). -/
def answersOf (l : StLane) : Nat :=
  match l.tgt with
  | .host _ => if l.size = 16 then 2 else 1
  | .remote _ _ => 1
  | .window _ _ => 1
  | _ => 0

/-- Performs what an outstanding operation still has to store; from then on it waits for the answers from
elsewhere. A ZERO of a host line is a write of 128 zero bytes. -/
def performOut (s : State) (gid : Nat) (o : Out) : State :=
  let s := { s with groups := tmod s.groups gid (fun g => updOut g o.uid (fun x =>
    { x with stores := [], pend := x.pend + o.stores.foldl (fun a l => a + answersOf l) 0 })) }
  if o.zero then
    let core := match tget s.groups gid with
      | some g => g.core
      | none => 0
    o.stores.foldl (fun s l => if elsewhere l.tgt then performLane s gid o.uid l else zeroLine s core l.tgt) s
  else performLanes s gid o.uid o.stores

/-- Whether an operation reads something whose value is still to come. -/
def unread (o : Out) : Bool := (decide (o.cls = .ld) || o.rmw) && decide (o.pend ≠ 0)

/-- Whether the stores of an operation may be performed: every write waits for the values of earlier reads (R200), a release for
the answers to every earlier access of its group (R174, R196), at dev or wider for its posted near-bank commands too (R206). -/
def mayPerform (posted : Nat) (earlier : List Out) (o : Out) : Bool :=
  if o.sem.toNat < 8 then !(earlier.any unread)
  else earlier.all (fun e => decide (e.pend = 0)) && (decide (o.sem.toNat < 12) || decide (posted = 0))

/-- Whether every earlier access of a group is performed and answered, as a release asks (R196). -/
def releaseFree (g : Group) : Bool := g.out.all (fun o => decide (o.pend = 0) && o.stores.isEmpty)

/-- Whether an acquire of the group still waits for its answer; what follows it waits (R196). -/
def acqPending (g : Group) : Bool := g.out.any (fun o => decide (1 ≤ o.sem.toNat ∧ o.sem.toNat ≤ 6) && decide (o.pend ≠ 0))

/-- Performs the unperformed stores of a group in issue order, as far as releases let them; the operations stay
outstanding. -/
def performStores (s : State) (gid : Nat) : State :=
  let rec go : Nat → State → Nat → State
    | 0, s, _ => s
    | n + 1, s, k =>
      match tget s.groups gid with
      | none => s
      | some g =>
        match g.out[k]? with
        | none => s
        | some o =>
          if o.stores.isEmpty then go n s (k + 1)
          else if mayPerform g.posted (g.out.take k) o then go n (performOut s gid o) (k + 1)
          else s
  match tget s.groups gid with
  | none => s
  | some g => go g.out.length s 0

/-- The IV of a session: C and SEGIDX (R384). -/
def sealIV (x : Seal) : List Nat := bytesLittle x.ctr.toNat 8 ++ bytesLittle x.seg 4

/-- Chunk `j` of a session through the cipher. -/
def sealCrypt (x : Seal) (j : Nat) (b : List Nat) : List Nat := xorBytes b (gcmStream (bytesLittle x.key.toNat 32) (sealIV x) j)

/-- A SEALLD that returns: its ciphertext joins the session, and its registers take the decrypted bytes, lane L
bytes 4L to 4L + 3 (R384, R389). -/
def applySeal (g : Group) (o : Out) : Group :=
  match g.sess with
  | none => g
  | some x =>
    let d := o.regs.headD 0
    let raw : SMap 32 := o.vw.foldl (fun m w => mset m w.1 w.2) []
    let ct := (List.range 32).flatMap (fun l => bytesLittle (mget raw (32 * d + l)).toNat 4)
    let pt := sealCrypt x x.cts.length ct
    { g with
      sess := some { x with cts := x.cts ++ [BitVec.ofNat 1024 (littleEndian ct)] }
      v := (List.range 32).foldl (fun v l => mset v (32 * d + l) (BitVec.ofNat 32 (littleEndian ((pt.drop (4 * l)).take 4)))) g.v }

/-- The register writes a returned load owes. -/
def applyLoad (g : Group) (o : Out) : Group :=
  if o.sealed then applySeal g o
  else
    let g := { g with v := o.vw.foldl (fun v w => mset v w.1 w.2) g.v }
    match o.sw with
    | some (r, x) => setSreg g r x
    | none => g

/-- Returns loads in issue order while their answers are all there (R172); `all` says whether to go
on past the first. -/
def returnLoads (g : Group) : Group :=
  let rec go : List Out → Group → Bool → List Out → Group
    | [], g, _, kept => { g with out := kept.reverse }
    | o :: r, g, stop, kept =>
      if stop || decide (o.cls ≠ .ld) then go r g stop (o :: kept)
      else if o.pend = 0 then go r (applyLoad g o) false kept
      else go r g true (o :: kept)
  go g.out g false []

/-- Retires finished stores in issue order. -/
def retireStores (g : Group) : Group :=
  let rec go : List Out → Bool → List Out
    | [], _ => []
    | o :: r, stop =>
      if decide (o.cls ≠ .st) then o :: go r stop
      else if stop || decide (o.pend ≠ 0) || !o.stores.isEmpty then o :: go r true
      else go r false
  { g with out := go g.out false }

/-- Retires finished copies, passes and near-bank commands in issue order, class by class (R172). -/
def retireDone (g : Group) (c : OCls) : Group :=
  let rec go : List Out → Bool → List Out
    | [], _ => []
    | o :: r, stop =>
      if decide (o.cls ≠ c) then o :: go r stop
      else if stop || !o.fin then o :: go r true
      else go r false
  { g with out := go g.out false }

/-- Performs all stores and returns all loads of a group whose answers are there. -/
def drainLdSt (s : State) (gid : Nat) : State :=
  let s := performStores s gid
  match tget s.groups gid with
  | none => s
  | some g => setGroup s gid (retireStores (returnLoads g))

/-- Whether CNT.ld and CNT.st of a group are both zero. -/
def ldStZero (g : Group) : Bool := decide (cntOf g .ld = 0) && decide (cntOf g .st = 0)

/-! ## The divergence stack (R147, R148) -/

/-- Whether an entry is runnable. -/
def runnable (e : SEntry) : Bool := decide (e.arr = e.mask)

/-- The index of the last element that `f` accepts. -/
def lastIdx {α : Type} (f : α → Bool) (l : List α) : Option Nat :=
  match findIdx? f l.reverse 0 with
  | some (i, _) => some (l.length - 1 - i)
  | none => none

/-- Fills one free slot from the highest runnable entry (R148). -/
def fillSlot (g : Group) (side : Nat) : Group :=
  if (slotOf g side).live then g
  else
    match lastIdx runnable g.stack with
    | none => g
    | some i =>
      let e := g.stack.getD i { pc := 0, mrs := 0, mask := 0, arr := 0 }
      setSlot { g with stack := g.stack.eraseIdx i } side
        { Slot.free with live := true, pc := e.pc, exec := e.mask, mr := e.mrs }

/-- The rule of R148: slot A before slot B. -/
def refill (g : Group) : Group := fillSlot (fillSlot g 0) 1

/-- The conditions of R148 on a restored stack and its slots. -/
def stackValid (g : Group) : Bool :=
  let ea := if g.a.live then g.a.exec else 0
  let eb := if g.b.live then g.b.exec else 0
  let places := ea :: eb :: g.stack.map (fun e => if runnable e then e.mask else e.arr)
  let cnt (l : Nat) := (places.filter (fun m => m.getLsbD l)).length
  g.stack.all (fun e => decide (e.mask ≠ 0) && decide (e.arr &&& ~~~e.mask = 0) && mrValid e.mrs)
    && (List.range 32).all (fun l => decide (cnt l ≤ 1))
    && g.stack.all (fun e => runnable e || (lanesOf e.mask).all (fun l => decide (cnt l = 1)))

/-- The conditions of R256 on a restored group. -/
def restoreValid (g : Group) : Bool :=
  let okSlot (sl : Slot) : Bool :=
    !sl.live || (decide (sl.exec ≠ 0) && mrValid sl.mr && pcValid sl.pc && (!sl.jp || pcValid sl.jpc))
  okSlot g.a && okSlot g.b
    && (!(g.a.live && g.b.live) || decide (g.a.exec &&& g.b.exec = 0))
    && decide (g.stack.length ≤ 64) && stackValid g
    && (g.a.live || g.b.live || g.stack.any runnable)

end Sys2Proof.Machine
end

