-- ==== Sys2Proof/Machine/Coherence.lean ====
section
/-! DEFINITION. Coherence: the steps of the table in which homes and caches send and take messages (R235 to R247). The protocol
itself is in Coh.lean. -/

namespace Sys2Proof.Machine

abbrev CoOut := Host.Outcome State Fault Refusal

/-- FLUSH and INVL of lines through their homes: dirty copies go back, and INVL drops every copy (R179, R245). -/
def flushLines (s : State) (lines : List Nat) (drop : Bool) : State := onLines s (fun v c l => flushCo v c l drop) lines

/-- The dies have 2^46 lines each, and host memory as many. -/
def lineThere (line : Nat) : Bool := decide (line < 2 ^ 48) || (decide (2 ^ 50 ≤ line) && decide (line < 2 ^ 50 + 2 ^ 46))

/-- Whether the partition that holds a core lets its caches keep host lines (R21). -/
def keepsHost (s : State) (core : Nat) : Bool :=
  s.parts.any (fun p => capOn s p.1 capPortC && (virtCore s p.1 core).isSome)

/-- Whether a cache can hold a line: an RDC holds lines homed elsewhere (R244), an L1 host lines only where its partition has
capability 0x0061 (R21), and an instruction cache lines of the dies (R216, R245). -/
def canHold (s : State) (cache line : Nat) : Bool :=
  decide (cache < 1028) && lineThere line
    && (if isRdc cache then hostLine line || decide (lineDie line ≠ cacheDie cache)
        else !(hostLine line) || (!(isICache cache) && keepsHost s cache))

/-- A request of a cache (R240). -/
def coRequest (s : State) (k : CReqK) (cache line : Nat) : State :=
  if canHold s cache line then { s with co := requestCo (victim s) s.co k cache line (sliceOf s line) } else s

/-- Takes a message that is under way. -/
def coStep (s : State) (k : CKind) (cache line : Nat) (f : Coh → Coh) : State :=
  if coHas s.co k cache line then { s with co := f (coTake s.co k cache line) } else s

/-! ## The steps of the table -/

/-- RDS (R240). -/
def execRds (cache line : Nat) (s : State) : CoOut := .next (coRequest s .rds cache line)

/-- RDX (R240). -/
def execRdx (cache line : Nat) (s : State) : CoOut := .next (coRequest s .rdx cache line)

/-- UPG (R240, R243). -/
def execUpg (cache line : Nat) (s : State) : CoOut := .next (coRequest s .upg cache line)

/-- A cache that has no request for a line outstanding evicts it (R240, R242). -/
def coEvict (s : State) (cache line : Nat) (dirty : Bool) : State :=
  if s.co.cwait.any (fun w => decide (w.line = line) && decide (w.cache = cache)) then s
  else { s with co := evictCo (victim s) s.co cache line (sliceOf s line) dirty }

/-- WBD: a cache in M or O evicts its line with the data, which the home takes from the listed owner alone (R239, R240, R242). -/
def execWbd (cache line : Nat) (s : State) : CoOut :=
  let x := mget s.co.cst (ckey line cache)
  .next (if x = stM ∨ x = stO then coEvict s cache line true else s)

/-- EVC: a cache in E or S tells its home that it has dropped the line (R240); an instruction cache sends none (R245). -/
def execEvc (cache line : Nat) (s : State) : CoOut :=
  let x := mget s.co.cst (ckey line cache)
  .next (if (x = stE ∨ x = stS) ∧ isICache cache = false then coEvict s cache line false else s)

/-- PRBSHR (R241, R244). -/
def execPrbshr (cache line : Nat) (s : State) : CoOut :=
  .next (if probeReady s.co cache line then coStep s .prbShr cache line (fun c => answerProbe (victim s) c false cache line) else s)

/-- PRBINV (R241, R244). -/
def execPrbinv (cache line : Nat) (s : State) : CoOut :=
  .next (if probeReady s.co cache line then coStep s .prbInv cache line (fun c => answerProbe (victim s) c true cache line) else s)

/-- DATA (R239). -/
def execData (cache line : Nat) (s : State) : CoOut := .next (coStep s .data cache line (fun c => receive (victim s) c cache line true))

/-- DATAX (R239, R243). -/
def execDatax (cache line : Nat) (s : State) : CoOut := .next (coStep s .dataX cache line (fun c => receive (victim s) c cache line true))

/-- PRBRSP (R239). -/
def execPrbrsp (cache line : Nat) (s : State) : CoOut := .next (coStep s .prbRsp cache line (fun c => homeAnswer (victim s) c cache line))

/-- INVACK (R239). -/
def execInvack (cache line : Nat) (s : State) : CoOut := .next (coStep s .invAck cache line (fun c => homeAnswer (victim s) c cache line))

/-- CMP (R239). -/
def execCmp (cache line : Nat) (s : State) : CoOut := .next (coStep s .cmp cache line (fun c => receive (victim s) c cache line false))

/-- WBACK: the eviction buffer is free (R242). -/
def execWback (cache line : Nat) (s : State) : CoOut :=
  .next (coStep s .wbAck cache line (fun c =>
    { c with evict := c.evict.filter (fun e => !(decide (e.1 = line) && decide (e.2.1 = cache))) }))

/-- A snoop of the host on a host line becomes a PrbShr or PrbInv to the RDCs that the port's filter names (R246). -/
def hostSnoops (s : State) (k : CReqK) (line : Nat) : State :=
  if hostLine line && lineThere line then
    { s with co := pumpAll (victim s) { s.co with cqueue := s.co.cqueue ++ [txOf k 0 hostSnoop line 0] } }
  else s

/-- SNPDATA (R246). -/
def execSnpdata (line : Nat) (s : State) : CoOut := .next (hostSnoops s .fshr line)

/-- SNPINV (R246). -/
def execSnpinv (line : Nat) (s : State) : CoOut := .next (hostSnoops s .finv line)

/-- SNPCUR: the host reads the current data; no copy changes (R246). -/
def execSnpcur (line : Nat) (s : State) : CoOut :=
  .next (if hostLine line && lineThere line then { s with co := coTell s.co (.snoop line (ownerAt s.co 0 line).isSome) } else s)

end Sys2Proof.Machine
end

