-- ==== Sys2Proof/Decode.lean ====
section
/-! DEFINITION. Decoding, total on any word, and the encoder written from the same tables: Harran
words (R25, R45), the words of the capability extension (R440), near-bank microinstructions (R336,
R337). A word that is no instruction is rejected by name. -/

namespace Sys2Proof

/-- Bits [lo + n - 1 : lo] of a word (R1). -/
def fld {k : Nat} (w : BitVec k) (lo n : Nat) : BitVec n := w.extractLsb' lo n

/-- What a Harran word decodes to: an instruction, a reserved opcode (R47 step 1), or nonzero
reserved bits of an assigned opcode (R47 step 3). -/
inductive DecRes where
  | ok (i : Instr)
  | reservedOpcode
  | reservedBits
deriving DecidableEq, Repr

/-- The instruction, if the bits that must be fixed are as the encoding gives them. -/
def chkBits (w mask pat : Word) (i : Instr) : DecRes := if w &&& mask = pat then .ok i else .reservedBits

/-- Class 0 of the opcode map (R45), by function code. -/
def decodeClass0 (fn : Nat) (w : Word) : DecRes :=
  match fn with
  | 0 => chkBits w 0xFFFFFFFF 0x00000000 (.nop)
  | 1 => chkBits w 0xFF800000 0x00800000 (.bra (fld w 0 23))
  | 2 => chkBits w 0xFFF00000 0x01000000 (.bc (fld w 19 1) (fld w 16 3) (fld w 0 16))
  | 3 => chkBits w 0xFFF00000 0x01800000 (.bany (fld w 19 1) (fld w 16 3) (fld w 0 16))
  | 4 => chkBits w 0xFFF00000 0x02000000 (.ball (fld w 19 1) (fld w 16 3) (fld w 0 16))
  | 5 => chkBits w 0xFFFF0000 0x02800000 (.jset (fld w 0 16))
  | 6 => chkBits w 0xFFFFFFFF 0x03000000 (.join)
  | 7 => chkBits w 0xFF800000 0x03800000 (.call (fld w 0 23))
  | 8 => chkBits w 0xFFFFFFFF 0x04000000 (.ret)
  | 9 => chkBits w 0xFFFF0000 0x04800000 (.jr (fld w 9 7) (fld w 0 9))
  | 10 => chkBits w 0xFFFFFFFF 0x05000000 (.exit)
  | 11 => chkBits w 0xFFFFF800 0x05800000 (.mode (fld w 10 1) (fld w 8 2) (fld w 4 4) (fld w 3 1) (fld w 0 3))
  | 12 => chkBits w 0xFF800000 0x06000000 (.lit (fld w 0 23))
  | 13 => chkBits w 0xFFFFFFFC 0x06800000 (.xacq (fld w 0 2))
  | 14 => chkBits w 0xFFFFFFFC 0x07000000 (.xrel (fld w 0 2))
  | 15 => chkBits w 0xFFF00000 0x07800000 (.rgb (fld w 19 1) (fld w 16 3) (fld w 0 16))
  | 16 => chkBits w 0xFF800000 0x08000000 (.refill (fld w 16 7) (fld w 0 16))
  | 17 => chkBits w 0xFF800000 0x08800000 (.itemp (fld w 16 7) (fld w 9 7) (fld w 0 9))
  | 18 => chkBits w 0xFFFFFFFF 0x09000000 (.yield)
  | 19 => chkBits w 0xFF800000 0x09800000 (.brk (fld w 0 23))
  | 20 => chkBits w 0xFF800000 0x0A000000 (.sysc (fld w 0 23))
  | 21 => chkBits w 0xFFFFFFFE 0x0A800000 (.trapret (fld w 0 1))
  | 22 => chkBits w 0xFFFFFFFE 0x0B000000 (.sret (fld w 0 1))
  | 23 => chkBits w 0xFFFFFFC0 0x0B800000 (.vsw (fld w 0 6))
  | 24 => chkBits w 0xFF800000 0x0C000000 (.claunch (fld w 16 7) (fld w 9 7) (fld w 0 9))
  | 25 => chkBits w 0xFFFFFFFF 0x0C800000 (.cwait)
  | 26 => chkBits w 0xFF800000 0x0D000000 (.capr (fld w 16 7) (fld w 9 7) (fld w 0 9))
  | _ => .reservedOpcode

/-- Class 1 of the opcode map (R45), by function code. -/
def decodeClass1 (fn : Nat) (w : Word) : DecRes :=
  match fn with
  | 0 => chkBits w 0xFFE03F80 0x20000000 (.smov (fld w 14 7) (fld w 0 7))
  | 1 => chkBits w 0xFF800000 0x20800000 (.sli (fld w 16 7) (fld w 0 16))
  | 2 => chkBits w 0xFFE00000 0x21000000 (.sadd (fld w 14 7) (fld w 7 7) (fld w 0 7))
  | 3 => chkBits w 0xFF800000 0x21800000 (.saddi (fld w 16 7) (fld w 9 7) (fld w 0 9))
  | 4 => chkBits w 0xFFE00000 0x22000000 (.ssub (fld w 14 7) (fld w 7 7) (fld w 0 7))
  | 5 => chkBits w 0xFFE00000 0x22800000 (.smul (fld w 14 7) (fld w 7 7) (fld w 0 7))
  | 6 => chkBits w 0xFFE00000 0x23000000 (.smulh (fld w 14 7) (fld w 7 7) (fld w 0 7))
  | 7 => chkBits w 0xFFE00000 0x23800000 (.smulhu (fld w 14 7) (fld w 7 7) (fld w 0 7))
  | 8 => chkBits w 0xFFE00000 0x24000000 (.sdiv (fld w 14 7) (fld w 7 7) (fld w 0 7))
  | 9 => chkBits w 0xFFE00000 0x24800000 (.sdivu (fld w 14 7) (fld w 7 7) (fld w 0 7))
  | 10 => chkBits w 0xFFE00000 0x25000000 (.srem (fld w 14 7) (fld w 7 7) (fld w 0 7))
  | 11 => chkBits w 0xFFE00000 0x25800000 (.sremu (fld w 14 7) (fld w 7 7) (fld w 0 7))
  | 12 => chkBits w 0xFFE00000 0x26000000 (.sand (fld w 14 7) (fld w 7 7) (fld w 0 7))
  | 13 => chkBits w 0xFFE00000 0x26800000 (.sor (fld w 14 7) (fld w 7 7) (fld w 0 7))
  | 14 => chkBits w 0xFFE00000 0x27000000 (.sxor (fld w 14 7) (fld w 7 7) (fld w 0 7))
  | 15 => chkBits w 0xFFE00000 0x27800000 (.sshl (fld w 14 7) (fld w 7 7) (fld w 0 7))
  | 16 => chkBits w 0xFFE00000 0x28000000 (.sshr (fld w 14 7) (fld w 7 7) (fld w 0 7))
  | 17 => chkBits w 0xFFE00000 0x28800000 (.ssra (fld w 14 7) (fld w 7 7) (fld w 0 7))
  | 18 => chkBits w 0xFFE00000 0x29000000 (.smin (fld w 14 7) (fld w 7 7) (fld w 0 7))
  | 19 => chkBits w 0xFFE00000 0x29800000 (.smax (fld w 14 7) (fld w 7 7) (fld w 0 7))
  | 20 => chkBits w 0xFFE00000 0x2A000000 (.sminu (fld w 14 7) (fld w 7 7) (fld w 0 7))
  | 21 => chkBits w 0xFFE00000 0x2A800000 (.smaxu (fld w 14 7) (fld w 7 7) (fld w 0 7))
  | 22 => chkBits w 0xFFE03F80 0x2B000000 (.sclz (fld w 14 7) (fld w 0 7))
  | 23 => chkBits w 0xFFE03F80 0x2B800000 (.spopc (fld w 14 7) (fld w 0 7))
  | 24 => chkBits w 0xFFE00000 0x2C000000 (.ssetlt (fld w 14 7) (fld w 7 7) (fld w 0 7))
  | 25 => chkBits w 0xFFE00000 0x2C800000 (.ssetltu (fld w 14 7) (fld w 7 7) (fld w 0 7))
  | 26 => chkBits w 0xFFE00000 0x2D000000 (.sseteq (fld w 14 7) (fld w 7 7) (fld w 0 7))
  | 27 => chkBits w 0xFF80FE00 0x2D800000 (.gets (fld w 16 7) (fld w 0 9))
  | 28 => chkBits w 0xFFFF0000 0x2E000000 (.puts (fld w 9 7) (fld w 0 9))
  | 29 => chkBits w 0xFFE03F80 0x2E800000 (.sbcast (fld w 14 7) (fld w 0 7))
  | 30 => chkBits w 0xFF800000 0x2F000000 (.slane (fld w 21 2) (fld w 14 7) (fld w 7 7) (fld w 0 7))
  | _ => .reservedOpcode

/-- Class 2 of the opcode map (R45), by function code. -/
def decodeClass2 (fn : Nat) (w : Word) : DecRes :=
  match fn with
  | 0 => chkBits w 0xFF803F80 0x40000000 (.vmov (fld w 21 2) (fld w 14 7) (fld w 0 7))
  | 1 => chkBits w 0xFF800000 0x40800000 (.vadd (fld w 21 2) (fld w 14 7) (fld w 7 7) (fld w 0 7))
  | 2 => chkBits w 0xFF800000 0x41000000 (.vsub (fld w 21 2) (fld w 14 7) (fld w 7 7) (fld w 0 7))
  | 3 => chkBits w 0xFF800000 0x41800000 (.vmul (fld w 21 2) (fld w 14 7) (fld w 7 7) (fld w 0 7))
  | 4 => chkBits w 0xFF800000 0x42000000 (.vmulh (fld w 21 2) (fld w 14 7) (fld w 7 7) (fld w 0 7))
  | 5 => chkBits w 0xFF800000 0x42800000 (.vmad (fld w 21 2) (fld w 14 7) (fld w 7 7) (fld w 0 7))
  | 6 => chkBits w 0xFF800000 0x43000000 (.vmin (fld w 21 2) (fld w 14 7) (fld w 7 7) (fld w 0 7))
  | 7 => chkBits w 0xFF800000 0x43800000 (.vmax (fld w 21 2) (fld w 14 7) (fld w 7 7) (fld w 0 7))
  | 8 => chkBits w 0xFF80007F 0x44000000 (.vabs (fld w 21 2) (fld w 14 7) (fld w 7 7))
  | 9 => chkBits w 0xFF80007F 0x44800000 (.vneg (fld w 21 2) (fld w 14 7) (fld w 7 7))
  | 10 => chkBits w 0xFF800000 0x45000000 (.vand (fld w 21 2) (fld w 14 7) (fld w 7 7) (fld w 0 7))
  | 11 => chkBits w 0xFF800000 0x45800000 (.vor (fld w 21 2) (fld w 14 7) (fld w 7 7) (fld w 0 7))
  | 12 => chkBits w 0xFF800000 0x46000000 (.vxor (fld w 21 2) (fld w 14 7) (fld w 7 7) (fld w 0 7))
  | 13 => chkBits w 0xFF80007F 0x46800000 (.vnot (fld w 21 2) (fld w 14 7) (fld w 7 7))
  | 14 => chkBits w 0xFF800000 0x47000000 (.vshl (fld w 21 2) (fld w 14 7) (fld w 7 7) (fld w 0 7))
  | 15 => chkBits w 0xFF800000 0x47800000 (.vshr (fld w 21 2) (fld w 14 7) (fld w 7 7) (fld w 0 7))
  | 16 => chkBits w 0xFF800000 0x48000000 (.vsra (fld w 21 2) (fld w 14 7) (fld w 7 7) (fld w 0 7))
  | 17 => chkBits w 0xFF80007F 0x48800000 (.vclz (fld w 21 2) (fld w 14 7) (fld w 7 7))
  | 18 => chkBits w 0xFF80007F 0x49000000 (.vpopc (fld w 21 2) (fld w 14 7) (fld w 7 7))
  | 19 => chkBits w 0xFF800000 0x49800000 (.vbfx (fld w 21 2) (fld w 14 7) (fld w 7 7) (fld w 0 7))
  | 20 => chkBits w 0xFF800000 0x4A000000 (.vbfi (fld w 21 2) (fld w 14 7) (fld w 7 7) (fld w 0 7))
  | 21 => chkBits w 0xFF800000 0x4A800000 (.vsel (fld w 21 2) (fld w 14 7) (fld w 7 7) (fld w 0 7))
  | 22 => chkBits w 0xFF800000 0x4B000000 (.vcmpeq (fld w 21 2) (fld w 14 7) (fld w 7 7) (fld w 0 7))
  | 23 => chkBits w 0xFF800000 0x4B800000 (.vcmplt (fld w 21 2) (fld w 14 7) (fld w 7 7) (fld w 0 7))
  | 24 => chkBits w 0xFF800000 0x4C000000 (.vcmple (fld w 21 2) (fld w 14 7) (fld w 7 7) (fld w 0 7))
  | 25 => chkBits w 0xFFE00000 0x4C800000 (.vpand (fld w 14 7) (fld w 7 7) (fld w 0 7))
  | 26 => chkBits w 0xFFE00000 0x4D000000 (.vpor (fld w 14 7) (fld w 7 7) (fld w 0 7))
  | 27 => chkBits w 0xFFE00000 0x4D800000 (.vpxor (fld w 14 7) (fld w 7 7) (fld w 0 7))
  | 28 => chkBits w 0xFFE0007F 0x4E000000 (.vpnot (fld w 14 7) (fld w 7 7))
  | 29 => chkBits w 0xFF800000 0x4E800000 (.vshfl (fld w 21 2) (fld w 14 7) (fld w 7 7) (fld w 0 7))
  | 30 => chkBits w 0xFF80007F 0x4F000000 (.vradd (fld w 21 2) (fld w 14 7) (fld w 7 7))
  | 31 => chkBits w 0xFF80007F 0x4F800000 (.vrmin (fld w 21 2) (fld w 14 7) (fld w 7 7))
  | 32 => chkBits w 0xFF80007F 0x50000000 (.vrmax (fld w 21 2) (fld w 14 7) (fld w 7 7))
  | 33 => chkBits w 0xFF80007F 0x50800000 (.vscan (fld w 21 2) (fld w 14 7) (fld w 7 7))
  | 34 => chkBits w 0xFF800000 0x51000000 (.vlane (fld w 21 2) (fld w 14 7) (fld w 7 7) (fld w 0 7))
  | 35 => chkBits w 0xFF800000 0x51800000 (.vaddi (fld w 16 7) (fld w 9 7) (fld w 0 9))
  | _ => .reservedOpcode

/-- Class 3 of the opcode map (R45), by function code. -/
def decodeClass3 (fn : Nat) (w : Word) : DecRes :=
  match fn with
  | 0 => chkBits w 0xFF800000 0x60000000 (.fadd (fld w 21 2) (fld w 14 7) (fld w 7 7) (fld w 0 7))
  | 1 => chkBits w 0xFF800000 0x60800000 (.fsub (fld w 21 2) (fld w 14 7) (fld w 7 7) (fld w 0 7))
  | 2 => chkBits w 0xFF800000 0x61000000 (.fmul (fld w 21 2) (fld w 14 7) (fld w 7 7) (fld w 0 7))
  | 3 => chkBits w 0xFF800000 0x61800000 (.fma (fld w 21 2) (fld w 14 7) (fld w 7 7) (fld w 0 7))
  | 4 => chkBits w 0xFF800000 0x62000000 (.fms (fld w 21 2) (fld w 14 7) (fld w 7 7) (fld w 0 7))
  | 5 => chkBits w 0xFF800000 0x62800000 (.fnma (fld w 21 2) (fld w 14 7) (fld w 7 7) (fld w 0 7))
  | 6 => chkBits w 0xFF800000 0x63000000 (.fmin (fld w 21 2) (fld w 14 7) (fld w 7 7) (fld w 0 7))
  | 7 => chkBits w 0xFF800000 0x63800000 (.fmax (fld w 21 2) (fld w 14 7) (fld w 7 7) (fld w 0 7))
  | 8 => chkBits w 0xFF80007F 0x64000000 (.fabs (fld w 21 2) (fld w 14 7) (fld w 7 7))
  | 9 => chkBits w 0xFF80007F 0x64800000 (.fneg (fld w 21 2) (fld w 14 7) (fld w 7 7))
  | 10 => chkBits w 0xFF800000 0x65000000 (.fcmpeq (fld w 21 2) (fld w 14 7) (fld w 7 7) (fld w 0 7))
  | 11 => chkBits w 0xFF800000 0x65800000 (.fcmplt (fld w 21 2) (fld w 14 7) (fld w 7 7) (fld w 0 7))
  | 12 => chkBits w 0xFF800000 0x66000000 (.fcmple (fld w 21 2) (fld w 14 7) (fld w 7 7) (fld w 0 7))
  | 13 => chkBits w 0xFF800000 0x66800000 (.fcmpun (fld w 21 2) (fld w 14 7) (fld w 7 7) (fld w 0 7))
  | 14 => chkBits w 0xFF800000 0x67000000 (.fdiv (fld w 21 2) (fld w 14 7) (fld w 7 7) (fld w 0 7))
  | 15 => chkBits w 0xFF80007F 0x67800000 (.fsqrt (fld w 21 2) (fld w 14 7) (fld w 7 7))
  | 16 => chkBits w 0xFF80007F 0x68000000 (.frcp (fld w 21 2) (fld w 14 7) (fld w 7 7))
  | 17 => chkBits w 0xFF80007F 0x68800000 (.frsq (fld w 21 2) (fld w 14 7) (fld w 7 7))
  | 18 => chkBits w 0xFF80007F 0x69000000 (.fexp2 (fld w 21 2) (fld w 14 7) (fld w 7 7))
  | 19 => chkBits w 0xFF80007F 0x69800000 (.flog2 (fld w 21 2) (fld w 14 7) (fld w 7 7))
  | 20 => chkBits w 0xFF80007F 0x6A000000 (.fsin (fld w 21 2) (fld w 14 7) (fld w 7 7))
  | 21 => chkBits w 0xFF80007F 0x6A800000 (.fcos (fld w 21 2) (fld w 14 7) (fld w 7 7))
  | 22 => chkBits w 0xFF80007F 0x6B000000 (.ftanh (fld w 21 2) (fld w 14 7) (fld w 7 7))
  | 23 => chkBits w 0xFF80007F 0x6B800000 (.fclass (fld w 21 2) (fld w 14 7) (fld w 7 7))
  | 24 => chkBits w 0xFF80007F 0x6C000000 (.frint (fld w 21 2) (fld w 14 7) (fld w 7 7))
  | 25 => chkBits w 0xFF80007F 0x6C800000 (.fradd (fld w 21 2) (fld w 14 7) (fld w 7 7))
  | 26 => chkBits w 0xFF800000 0x6D000000 (.fdota (fld w 21 2) (fld w 14 7) (fld w 7 7) (fld w 0 7))
  | 27 => chkBits w 0xFF800000 0x6D800000 (.aadd (fld w 21 2) (fld w 14 7) (fld w 7 7) (fld w 0 7))
  | 28 => chkBits w 0xFF80007F 0x6E000000 (.areda (fld w 21 2) (fld w 14 7) (fld w 7 7))
  | _ => .reservedOpcode

/-- Class 4 of the opcode map (R45), by function code. -/
def decodeClass4 (fn : Nat) (w : Word) : DecRes :=
  match fn with
  | 0 => chkBits w 0xFFFC0000 0x80000000 (.cvt (fld w 14 4) (fld w 7 7) (fld w 0 7))
  | 1 => chkBits w 0xFFFC0000 0x80800000 (.cvti (fld w 14 4) (fld w 7 7) (fld w 0 7))
  | 2 => chkBits w 0xFF800000 0x81000000 (.pack (fld w 21 2) (fld w 14 7) (fld w 7 7) (fld w 0 7))
  | 3 => chkBits w 0xFF800000 0x81800000 (.unpk (fld w 21 2) (fld w 14 7) (fld w 7 7) (fld w 0 7))
  | 4 => chkBits w 0xFF800000 0x82000000 (.qnt (fld w 20 3) (fld w 19 1) (fld w 14 5) (fld w 7 7) (fld w 0 7))
  | 5 => chkBits w 0xFF800000 0x82800000 (.dqnt (fld w 20 3) (fld w 19 1) (fld w 14 5) (fld w 7 7) (fld w 0 7))
  | 6 => chkBits w 0xFF880000 0x83000000 (.hadr (fld w 20 3) (fld w 14 5) (fld w 7 7) (fld w 0 7))
  | 7 => chkBits w 0xFF880000 0x83800000 (.hadi (fld w 20 3) (fld w 14 5) (fld w 7 7) (fld w 0 7))
  | 8 => chkBits w 0xFF800000 0x84000000 (.amax (fld w 21 2) (fld w 14 7) (fld w 7 7) (fld w 0 7))
  | 9 => chkBits w 0xFF8F8000 0x84800000 (.adrn (fld w 20 3) (fld w 14 1) (fld w 7 7) (fld w 0 7))
  | 10 => chkBits w 0xFF8F8000 0x85000000 (.afrom (fld w 20 3) (fld w 14 1) (fld w 7 7) (fld w 0 7))
  | 11 => chkBits w 0xFF80FFC0 0x85800000 (.fslt (fld w 16 7) (fld w 3 3) (fld w 0 3))
  | _ => .reservedOpcode

/-- Class 5 of the opcode map (R45), by function code. -/
def decodeClass5 (fn : Nat) (w : Word) : DecRes :=
  match fn with
  | 0 => chkBits w 0xFF800000 0xA0000000 (.vld8 (fld w 19 4) (fld w 12 7) (fld w 7 5) (fld w 0 7))
  | 1 => chkBits w 0xFF800000 0xA0800000 (.vld16 (fld w 19 4) (fld w 12 7) (fld w 7 5) (fld w 0 7))
  | 2 => chkBits w 0xFF800000 0xA1000000 (.vld32 (fld w 19 4) (fld w 12 7) (fld w 7 5) (fld w 0 7))
  | 3 => chkBits w 0xFF800000 0xA1800000 (.vld64 (fld w 19 4) (fld w 12 7) (fld w 7 5) (fld w 0 7))
  | 4 => chkBits w 0xFF800000 0xA2000000 (.vld128 (fld w 19 4) (fld w 12 7) (fld w 7 5) (fld w 0 7))
  | 5 => chkBits w 0xFF800000 0xA2800000 (.vst8 (fld w 19 4) (fld w 12 7) (fld w 7 5) (fld w 0 7))
  | 6 => chkBits w 0xFF800000 0xA3000000 (.vst16 (fld w 19 4) (fld w 12 7) (fld w 7 5) (fld w 0 7))
  | 7 => chkBits w 0xFF800000 0xA3800000 (.vst32 (fld w 19 4) (fld w 12 7) (fld w 7 5) (fld w 0 7))
  | 8 => chkBits w 0xFF800000 0xA4000000 (.vst64 (fld w 19 4) (fld w 12 7) (fld w 7 5) (fld w 0 7))
  | 9 => chkBits w 0xFF800000 0xA4800000 (.vst128 (fld w 19 4) (fld w 12 7) (fld w 7 5) (fld w 0 7))
  | 10 => chkBits w 0xFF80007F 0xA5000000 (.sld (fld w 19 4) (fld w 12 7) (fld w 7 5))
  | 11 => chkBits w 0xFF80007F 0xA5800000 (.sst (fld w 19 4) (fld w 12 7) (fld w 7 5))
  | 12 => chkBits w 0xFF800000 0xA6000000 (.vldc (fld w 19 4) (fld w 12 7) (fld w 7 5) (fld w 0 7))
  | 13 => chkBits w 0xFFFFF000 0xA6800000 (.pft (fld w 7 5) (fld w 0 7))
  | 14 => chkBits w 0xFFE00000 0xA7000000 (.cpy (fld w 14 7) (fld w 7 7) (fld w 0 7))
  | 15 => chkBits w 0xFFE00000 0xA7800000 (.cpyb (fld w 14 7) (fld w 7 7) (fld w 0 7))
  | 16 => chkBits w 0xFFF00000 0xA8000000 (.wait (fld w 16 4) (fld w 12 4) (fld w 8 4) (fld w 4 4) (fld w 0 4))
  | 17 => chkBits w 0xFFFFFFF0 0xA8800000 (.fence (fld w 0 4))
  | 18 => chkBits w 0xFFFFF000 0xA9000000 (.flush (fld w 7 5) (fld w 0 7))
  | 19 => chkBits w 0xFFFFF000 0xA9800000 (.invl (fld w 7 5) (fld w 0 7))
  | 20 => chkBits w 0xFFFFF000 0xAA000000 (.zero (fld w 7 5) (fld w 0 7))
  | 21 => chkBits w 0xFFF8007F 0xAA800000 (.sealst (fld w 12 7) (fld w 7 5))
  | 22 => chkBits w 0xFFF8007F 0xAB000000 (.sealld (fld w 12 7) (fld w 7 5))
  | 23 => chkBits w 0xFFE0007F 0xAB800000 (.sealfin (fld w 14 7) (fld w 7 7))
  | 24 => chkBits w 0xFFE0007F 0xAC000000 (.sealchk (fld w 14 7) (fld w 7 7))
  | _ => .reservedOpcode

/-- Class 6 of the opcode map (R45), by function code. -/
def decodeClass6 (fn : Nat) (w : Word) : DecRes :=
  match fn with
  | 0 => chkBits w 0xFF800000 0xC0000000 (.amoadd (fld w 19 4) (fld w 12 7) (fld w 7 5) (fld w 0 7))
  | 1 => chkBits w 0xFF800000 0xC0800000 (.amomin (fld w 19 4) (fld w 12 7) (fld w 7 5) (fld w 0 7))
  | 2 => chkBits w 0xFF800000 0xC1000000 (.amomax (fld w 19 4) (fld w 12 7) (fld w 7 5) (fld w 0 7))
  | 3 => chkBits w 0xFF800000 0xC1800000 (.amominu (fld w 19 4) (fld w 12 7) (fld w 7 5) (fld w 0 7))
  | 4 => chkBits w 0xFF800000 0xC2000000 (.amomaxu (fld w 19 4) (fld w 12 7) (fld w 7 5) (fld w 0 7))
  | 5 => chkBits w 0xFF800000 0xC2800000 (.amoand (fld w 19 4) (fld w 12 7) (fld w 7 5) (fld w 0 7))
  | 6 => chkBits w 0xFF800000 0xC3000000 (.amoor (fld w 19 4) (fld w 12 7) (fld w 7 5) (fld w 0 7))
  | 7 => chkBits w 0xFF800000 0xC3800000 (.amoxor (fld w 19 4) (fld w 12 7) (fld w 7 5) (fld w 0 7))
  | 8 => chkBits w 0xFF800000 0xC4000000 (.amoswp (fld w 19 4) (fld w 12 7) (fld w 7 5) (fld w 0 7))
  | 9 => chkBits w 0xFF800000 0xC4800000 (.amofadd (fld w 19 4) (fld w 12 7) (fld w 7 5) (fld w 0 7))
  | 10 => chkBits w 0xFF800000 0xC5000000 (.amoaadd (fld w 19 4) (fld w 12 7) (fld w 7 5) (fld w 0 7))
  | 11 => chkBits w 0xFF800000 0xC5800000 (.cas (fld w 19 4) (fld w 12 7) (fld w 7 5) (fld w 0 7))
  | 12 => chkBits w 0xFF800000 0xC6000000 (.redadd (fld w 19 4) (fld w 12 7) (fld w 7 5) (fld w 0 7))
  | 13 => chkBits w 0xFF800000 0xC6800000 (.redmin (fld w 19 4) (fld w 12 7) (fld w 7 5) (fld w 0 7))
  | 14 => chkBits w 0xFF800000 0xC7000000 (.redmax (fld w 19 4) (fld w 12 7) (fld w 7 5) (fld w 0 7))
  | 15 => chkBits w 0xFF800000 0xC7800000 (.redfadd (fld w 19 4) (fld w 12 7) (fld w 7 5) (fld w 0 7))
  | 16 => chkBits w 0xFF800000 0xC8000000 (.redaadd (fld w 19 4) (fld w 12 7) (fld w 7 5) (fld w 0 7))
  | 17 => chkBits w 0xFF800180 0xC8800000 (.watch (fld w 16 7) (fld w 9 7) (fld w 4 3) (fld w 3 1) (fld w 0 3))
  | 18 => chkBits w 0xFF80FFF0 0xC9000000 (.bara (fld w 16 7) (fld w 0 4))
  | 19 => chkBits w 0xFFFFFFF0 0xC9800000 (.barw (fld w 0 4))
  | 20 => chkBits w 0xFF80FFF0 0xCA000000 (.bars (fld w 16 7) (fld w 0 4))
  | _ => .reservedOpcode

/-- Class 7 of the opcode map (R45), by function code. -/
def decodeClass7 (fn : Nat) (w : Word) : DecRes :=
  match fn with
  | 0 => chkBits w 0xFF8001F8 0xE0000000 (.opbind (fld w 16 7) (fld w 9 7) (fld w 0 3))
  | 1 => chkBits w 0xFF8001FF 0xE0800000 (.opunb (fld w 16 7) (fld w 9 7))
  | 2 => chkBits w 0xFF8001F0 0xE1000000 (.opgnt (fld w 16 7) (fld w 9 7) (fld w 0 4))
  | 3 => chkBits w 0xFF8001F0 0xE1800000 (.oprev (fld w 16 7) (fld w 9 7) (fld w 0 4))
  | 4 => chkBits w 0xFF800060 0xE2000000 (.opstat (fld w 16 7) (fld w 9 7) (fld w 7 2) (fld w 4 1) (fld w 0 4))
  | 5 => chkBits w 0xFF8001E0 0xE2800000 (.opdisc (fld w 16 7) (fld w 9 7) (fld w 4 1) (fld w 0 4))
  | 6 => chkBits w 0xFF800100 0xE3000000 (.opgang (fld w 16 7) (fld w 9 7) (fld w 4 4) (fld w 3 1) (fld w 0 3))
  | 7 => chkBits w 0xFF8001FF 0xE3800000 (.nbld (fld w 16 7) (fld w 9 7))
  | 8 => chkBits w 0xFF800000 0xE4000000 (.nbexec (fld w 21 2) (fld w 14 7) (fld w 7 7) (fld w 0 7))
  | 9 => chkBits w 0xFF800000 0xE4800000 (.nbcpy (fld w 21 2) (fld w 14 7) (fld w 7 7) (fld w 0 7))
  | 10 => chkBits w 0xFF800000 0xE5000000 (.nbz (fld w 21 2) (fld w 14 7) (fld w 7 7) (fld w 0 7))
  | 11 => chkBits w 0xFF8001FC 0xE5800000 (.nbstat (fld w 16 7) (fld w 9 7) (fld w 0 2))
  | 12 => chkBits w 0xFF8001F0 0xE6000000 (.pmap (fld w 16 7) (fld w 9 7) (fld w 3 1) (fld w 2 1) (fld w 0 2))
  | 13 => chkBits w 0xFF8001F8 0xE6800000 (.punmap (fld w 16 7) (fld w 9 7) (fld w 2 1) (fld w 0 2))
  | 14 => chkBits w 0xFFFF0180 0xE7000000 (.tlbi (fld w 9 7) (fld w 6 1) (fld w 0 6))
  | 15 => chkBits w 0xFF8001E0 0xE7800000 (.poolget (fld w 16 7) (fld w 9 7) (fld w 4 1) (fld w 3 1) (fld w 2 1) (fld w 0 2))
  | _ => .reservedOpcode

/-- Decodes a Harran word by class and function (R25, R45). -/
def decodeHarran (w : Word) : DecRes :=
  let fn := (fld w 23 6).toNat
  match (fld w 29 3).toNat with
  | 0 => decodeClass0 fn w
  | 1 => decodeClass1 fn w
  | 2 => decodeClass2 fn w
  | 3 => decodeClass3 fn w
  | 4 => decodeClass4 fn w
  | 5 => decodeClass5 fn w
  | 6 => decodeClass6 fn w
  | _ => decodeClass7 fn w

/-- Decodes a word of the capability extension or a notify word (R440); `none` where the fixed
fields of no such word match. -/
def decodeHart (w : Word) : Option Instr :=
  if w &&& 0xFE00707F = 0x0000007B then some (.csetbnd (fld w 20 5) (fld w 15 5) (fld w 7 5))
  else if w &&& 0xFE00707F = 0x0000107B then some (.candperm (fld w 20 5) (fld w 15 5) (fld w 7 5))
  else if w &&& 0xFE00707F = 0x0000207B then some (.cincoff (fld w 20 5) (fld w 15 5) (fld w 7 5))
  else if w &&& 0xFE00707F = 0x0000307B then some (.csetoff (fld w 20 5) (fld w 15 5) (fld w 7 5))
  else if w &&& 0xFE00707F = 0x0000407B then some (.cseal (fld w 20 5) (fld w 15 5) (fld w 7 5))
  else if w &&& 0xFE00707F = 0x0200407B then some (.cunseal (fld w 20 5) (fld w 15 5) (fld w 7 5))
  else if w &&& 0xFE00707F = 0x0000507B then some (.csubset (fld w 20 5) (fld w 15 5) (fld w 7 5))
  else if w &&& 0xFE00707F = 0x0000607B then some (.cjalr (fld w 20 5) (fld w 15 5) (fld w 7 5))
  else if w &&& 0xFE00707F = 0x0000707B then some (.cgetbase (fld w 20 5) (fld w 15 5) (fld w 7 5))
  else if w &&& 0xFFF0707F = 0x0200707B then some (.cgetlen (fld w 15 5) (fld w 7 5))
  else if w &&& 0xFFF0707F = 0x0400707B then some (.cgetperm (fld w 15 5) (fld w 7 5))
  else if w &&& 0xFFF0707F = 0x0600707B then some (.cgettag (fld w 15 5) (fld w 7 5))
  else if w &&& 0xFFF0707F = 0x0800707B then some (.cclrtag (fld w 15 5) (fld w 7 5))
  else if w &&& 0x0000707F = 0x0000002B then some (.clc (fld w 20 12) (fld w 15 5) (fld w 7 5))
  else if w &&& 0x0000707F = 0x0000102B then some (.csc (fld w 25 7) (fld w 20 5) (fld w 15 5) (fld w 7 5))
  else if w &&& 0xFE00707F = 0x0000202B then some (.wfn (fld w 20 5) (fld w 15 5) (fld w 7 5))
  else if w &&& 0xFE00707F = 0x0000302B then some (.ntfy (fld w 20 5) (fld w 15 5) (fld w 7 5))
  else if w &&& 0xFE00707F = 0x0200302B then some (.ntfySet (fld w 20 5) (fld w 15 5) (fld w 7 5))
  else none

/-- Decodes a near-bank microinstruction (R336, R337); `none` for a reserved operation, a reserved CM
or a nonzero unused field, each of which ends the unit UFAULT. -/
def decodeNb (u : DWord) : Option Instr :=
  let imm := fld u 48 12
  let sj := fld u 40 8
  let row := fld u 34 6
  let add := fld u 33 1
  let rsv := fld u 18 15
  let cm := fld u 16 2
  let mask := fld u 8 8
  let key := fld u 0 8
  if rsv ≠ 0 then none
  else
    match (fld u 60 4).toNat with
    | 0 => if imm = 0 ∧ sj = 0 ∧ row = 0 ∧ add = 0 ∧ cm = 0 ∧ mask = 0 ∧ key = 0 then some .nbEnd else none
    | 1 => if imm = 0 ∧ cm = 0 ∧ mask = 0 ∧ key = 0 then some (.nbSel add row sj) else none
    | 2 => if imm = 0 ∧ sj = 0 ∧ row = 0 ∧ add = 0 then some (.nbCmp cm mask key) else none
    | 3 => if imm = 0 ∧ sj = 0 ∧ row = 0 ∧ add = 0 ∧ cm = 0 then some (.nbWr mask key) else none
    | 4 => if imm = 0 ∧ sj = 0 ∧ row = 0 ∧ add = 0 ∧ mask = 0 ∧ key = 0 ∧ cm ≠ 3 then some (.nbTag cm) else none
    | 5 => if sj = 0 ∧ row = 0 ∧ add = 0 ∧ cm = 0 ∧ mask = 0 ∧ key = 0 then some (.nbCnt imm) else none
    | 6 => if sj = 0 ∧ row = 0 ∧ add = 0 ∧ cm = 0 ∧ mask = 0 ∧ key = 0 then some (.nbDjnz imm) else none
    | _ => none

/-- The word of four bytes, least significant first (R2); bytes that are missing read as zero. -/
def wordOfBytes (bs : List Byte) : Word :=
  bs.getD 3 0 ++ bs.getD 2 0 ++ bs.getD 1 0 ++ bs.getD 0 0

/-- The four bytes of a word as they lie in memory (R2, R25). -/
def bytesOfWord (w : Word) : List Byte := [fld w 0 8, fld w 8 8, fld w 16 8, fld w 24 8]

/-- Decodes four bytes as a Harran word. -/
def decode (bs : List Byte) : DecRes := decodeHarran (wordOfBytes bs)

/-- Whether the low seven bits are those of the hart words of R440. -/
def isHartWord (w : Word) : Bool := (decodeHart w).isSome

/-- The instruction the decoder reads from an instruction whose bits are `w`, numbered as
spec/opcode_table.json numbers them. A word that has the fixed fields of a hart word of R440 is read as
that word, every other word of four bytes as a Harran word, and eight bytes as a near-bank microinstruction
(log 23). -/
def decodeTableWord (nbits w : Nat) : Option Instr :=
  if nbits ≤ 32 then
    let bs := bytesOfWord (BitVec.ofNat 32 w)
    match decodeHart (wordOfBytes bs) with
    | some i => some i
    | none =>
      match decode bs with
      | .ok i => some i
      | .reservedOpcode => none
      | .reservedBits => none
  else decodeNb (BitVec.ofNat 64 w)

/-- The 32-bit word of a Harran or hart instruction; an instruction that has no such word encodes as
zero. -/
def encode (i : Instr) : Word :=
  match i with
  | .nop => 0x0#32
  | .bra i => 0x1#9 ++ i
  | .bc s p i => 0x10#12 ++ s ++ p ++ i
  | .bany s p i => 0x18#12 ++ s ++ p ++ i
  | .ball s p i => 0x20#12 ++ s ++ p ++ i
  | .jset i => 0x280#16 ++ i
  | .join => 0x3000000#32
  | .call i => 0x7#9 ++ i
  | .ret => 0x4000000#32
  | .jr a i => 0x480#16 ++ a ++ i
  | .exit => 0x5000000#32
  | .mode t r e g p => 0xb000#21 ++ t ++ r ++ e ++ g ++ p
  | .lit i => 0xc#9 ++ i
  | .xacq n => 0x1a00000#30 ++ n
  | .xrel n => 0x1c00000#30 ++ n
  | .rgb s p i => 0x78#12 ++ s ++ p ++ i
  | .refill d i => 0x10#9 ++ d ++ i
  | .itemp d a i => 0x11#9 ++ d ++ a ++ i
  | .yield => 0x9000000#32
  | .brk i => 0x13#9 ++ i
  | .sysc i => 0x14#9 ++ i
  | .trapret k => 0x5400000#31 ++ k
  | .sret k => 0x5800000#31 ++ k
  | .vsw j => 0x2e0000#26 ++ j
  | .claunch d a i => 0x18#9 ++ d ++ a ++ i
  | .cwait => 0xc800000#32
  | .capr d a i => 0x1a#9 ++ d ++ a ++ i
  | .smov d b => 0x100#11 ++ d ++ 0x0#7 ++ b
  | .sli d i => 0x41#9 ++ d ++ i
  | .sadd d a b => 0x108#11 ++ d ++ a ++ b
  | .saddi d a i => 0x43#9 ++ d ++ a ++ i
  | .ssub d a b => 0x110#11 ++ d ++ a ++ b
  | .smul d a b => 0x114#11 ++ d ++ a ++ b
  | .smulh d a b => 0x118#11 ++ d ++ a ++ b
  | .smulhu d a b => 0x11c#11 ++ d ++ a ++ b
  | .sdiv d a b => 0x120#11 ++ d ++ a ++ b
  | .sdivu d a b => 0x124#11 ++ d ++ a ++ b
  | .srem d a b => 0x128#11 ++ d ++ a ++ b
  | .sremu d a b => 0x12c#11 ++ d ++ a ++ b
  | .sand d a b => 0x130#11 ++ d ++ a ++ b
  | .sor d a b => 0x134#11 ++ d ++ a ++ b
  | .sxor d a b => 0x138#11 ++ d ++ a ++ b
  | .sshl d a b => 0x13c#11 ++ d ++ a ++ b
  | .sshr d a b => 0x140#11 ++ d ++ a ++ b
  | .ssra d a b => 0x144#11 ++ d ++ a ++ b
  | .smin d a b => 0x148#11 ++ d ++ a ++ b
  | .smax d a b => 0x14c#11 ++ d ++ a ++ b
  | .sminu d a b => 0x150#11 ++ d ++ a ++ b
  | .smaxu d a b => 0x154#11 ++ d ++ a ++ b
  | .sclz d b => 0x158#11 ++ d ++ 0x0#7 ++ b
  | .spopc d b => 0x15c#11 ++ d ++ 0x0#7 ++ b
  | .ssetlt d a b => 0x160#11 ++ d ++ a ++ b
  | .ssetltu d a b => 0x164#11 ++ d ++ a ++ b
  | .sseteq d a b => 0x168#11 ++ d ++ a ++ b
  | .gets d i => 0x5b#9 ++ d ++ 0x0#7 ++ i
  | .puts a i => 0x2e00#16 ++ a ++ i
  | .sbcast d b => 0x174#11 ++ d ++ 0x0#7 ++ b
  | .slane h d a b => 0x5e#9 ++ h ++ d ++ a ++ b
  | .vmov h d b => 0x80#9 ++ h ++ d ++ 0x0#7 ++ b
  | .vadd h d a b => 0x81#9 ++ h ++ d ++ a ++ b
  | .vsub h d a b => 0x82#9 ++ h ++ d ++ a ++ b
  | .vmul h d a b => 0x83#9 ++ h ++ d ++ a ++ b
  | .vmulh h d a b => 0x84#9 ++ h ++ d ++ a ++ b
  | .vmad h d a b => 0x85#9 ++ h ++ d ++ a ++ b
  | .vmin h d a b => 0x86#9 ++ h ++ d ++ a ++ b
  | .vmax h d a b => 0x87#9 ++ h ++ d ++ a ++ b
  | .vabs h d a => 0x88#9 ++ h ++ d ++ a ++ 0x0#7
  | .vneg h d a => 0x89#9 ++ h ++ d ++ a ++ 0x0#7
  | .vand h d a b => 0x8a#9 ++ h ++ d ++ a ++ b
  | .vor h d a b => 0x8b#9 ++ h ++ d ++ a ++ b
  | .vxor h d a b => 0x8c#9 ++ h ++ d ++ a ++ b
  | .vnot h d a => 0x8d#9 ++ h ++ d ++ a ++ 0x0#7
  | .vshl h d a b => 0x8e#9 ++ h ++ d ++ a ++ b
  | .vshr h d a b => 0x8f#9 ++ h ++ d ++ a ++ b
  | .vsra h d a b => 0x90#9 ++ h ++ d ++ a ++ b
  | .vclz h d a => 0x91#9 ++ h ++ d ++ a ++ 0x0#7
  | .vpopc h d a => 0x92#9 ++ h ++ d ++ a ++ 0x0#7
  | .vbfx h d a b => 0x93#9 ++ h ++ d ++ a ++ b
  | .vbfi h d a b => 0x94#9 ++ h ++ d ++ a ++ b
  | .vsel h d a b => 0x95#9 ++ h ++ d ++ a ++ b
  | .vcmpeq h d a b => 0x96#9 ++ h ++ d ++ a ++ b
  | .vcmplt h d a b => 0x97#9 ++ h ++ d ++ a ++ b
  | .vcmple h d a b => 0x98#9 ++ h ++ d ++ a ++ b
  | .vpand d a b => 0x264#11 ++ d ++ a ++ b
  | .vpor d a b => 0x268#11 ++ d ++ a ++ b
  | .vpxor d a b => 0x26c#11 ++ d ++ a ++ b
  | .vpnot d a => 0x270#11 ++ d ++ a ++ 0x0#7
  | .vshfl h d a b => 0x9d#9 ++ h ++ d ++ a ++ b
  | .vradd h d a => 0x9e#9 ++ h ++ d ++ a ++ 0x0#7
  | .vrmin h d a => 0x9f#9 ++ h ++ d ++ a ++ 0x0#7
  | .vrmax h d a => 0xa0#9 ++ h ++ d ++ a ++ 0x0#7
  | .vscan h d a => 0xa1#9 ++ h ++ d ++ a ++ 0x0#7
  | .vlane h d a b => 0xa2#9 ++ h ++ d ++ a ++ b
  | .vaddi d a i => 0xa3#9 ++ d ++ a ++ i
  | .fadd h d a b => 0xc0#9 ++ h ++ d ++ a ++ b
  | .fsub h d a b => 0xc1#9 ++ h ++ d ++ a ++ b
  | .fmul h d a b => 0xc2#9 ++ h ++ d ++ a ++ b
  | .fma h d a b => 0xc3#9 ++ h ++ d ++ a ++ b
  | .fms h d a b => 0xc4#9 ++ h ++ d ++ a ++ b
  | .fnma h d a b => 0xc5#9 ++ h ++ d ++ a ++ b
  | .fmin h d a b => 0xc6#9 ++ h ++ d ++ a ++ b
  | .fmax h d a b => 0xc7#9 ++ h ++ d ++ a ++ b
  | .fabs h d a => 0xc8#9 ++ h ++ d ++ a ++ 0x0#7
  | .fneg h d a => 0xc9#9 ++ h ++ d ++ a ++ 0x0#7
  | .fcmpeq h d a b => 0xca#9 ++ h ++ d ++ a ++ b
  | .fcmplt h d a b => 0xcb#9 ++ h ++ d ++ a ++ b
  | .fcmple h d a b => 0xcc#9 ++ h ++ d ++ a ++ b
  | .fcmpun h d a b => 0xcd#9 ++ h ++ d ++ a ++ b
  | .fdiv h d a b => 0xce#9 ++ h ++ d ++ a ++ b
  | .fsqrt h d a => 0xcf#9 ++ h ++ d ++ a ++ 0x0#7
  | .frcp h d a => 0xd0#9 ++ h ++ d ++ a ++ 0x0#7
  | .frsq h d a => 0xd1#9 ++ h ++ d ++ a ++ 0x0#7
  | .fexp2 h d a => 0xd2#9 ++ h ++ d ++ a ++ 0x0#7
  | .flog2 h d a => 0xd3#9 ++ h ++ d ++ a ++ 0x0#7
  | .fsin h d a => 0xd4#9 ++ h ++ d ++ a ++ 0x0#7
  | .fcos h d a => 0xd5#9 ++ h ++ d ++ a ++ 0x0#7
  | .ftanh h d a => 0xd6#9 ++ h ++ d ++ a ++ 0x0#7
  | .fclass h d a => 0xd7#9 ++ h ++ d ++ a ++ 0x0#7
  | .frint h d a => 0xd8#9 ++ h ++ d ++ a ++ 0x0#7
  | .fradd h d a => 0xd9#9 ++ h ++ d ++ a ++ 0x0#7
  | .fdota h d a b => 0xda#9 ++ h ++ d ++ a ++ b
  | .aadd h d a b => 0xdb#9 ++ h ++ d ++ a ++ b
  | .areda h d a => 0xdc#9 ++ h ++ d ++ a ++ 0x0#7
  | .cvt t d a => 0x2000#14 ++ t ++ d ++ a
  | .cvti t d a => 0x2020#14 ++ t ++ d ++ a
  | .pack h d a b => 0x102#9 ++ h ++ d ++ a ++ b
  | .unpk h d a b => 0x103#9 ++ h ++ d ++ a ++ b
  | .qnt s w k d a => 0x104#9 ++ s ++ w ++ k ++ d ++ a
  | .dqnt s w k d a => 0x105#9 ++ s ++ w ++ k ++ d ++ a
  | .hadr s b d a => 0x106#9 ++ s ++ 0x0#1 ++ b ++ d ++ a
  | .hadi s b d a => 0x107#9 ++ s ++ 0x0#1 ++ b ++ d ++ a
  | .amax h d a b => 0x108#9 ++ h ++ d ++ a ++ b
  | .adrn s c d a => 0x109#9 ++ s ++ 0x0#5 ++ c ++ d ++ a
  | .afrom s e d a => 0x10a#9 ++ s ++ 0x0#5 ++ e ++ d ++ a
  | .fslt d w s => 0x10b#9 ++ d ++ 0x0#10 ++ w ++ s
  | .vld8 s d b o => 0x140#9 ++ s ++ d ++ b ++ o
  | .vld16 s d b o => 0x141#9 ++ s ++ d ++ b ++ o
  | .vld32 s d b o => 0x142#9 ++ s ++ d ++ b ++ o
  | .vld64 s d b o => 0x143#9 ++ s ++ d ++ b ++ o
  | .vld128 s d b o => 0x144#9 ++ s ++ d ++ b ++ o
  | .vst8 s d b o => 0x145#9 ++ s ++ d ++ b ++ o
  | .vst16 s d b o => 0x146#9 ++ s ++ d ++ b ++ o
  | .vst32 s d b o => 0x147#9 ++ s ++ d ++ b ++ o
  | .vst64 s d b o => 0x148#9 ++ s ++ d ++ b ++ o
  | .vst128 s d b o => 0x149#9 ++ s ++ d ++ b ++ o
  | .sld s d b => 0x14a#9 ++ s ++ d ++ b ++ 0x0#7
  | .sst s d b => 0x14b#9 ++ s ++ d ++ b ++ 0x0#7
  | .vldc s d b o => 0x14c#9 ++ s ++ d ++ b ++ o
  | .pft b o => 0xa6800#20 ++ b ++ o
  | .cpy d a b => 0x538#11 ++ d ++ a ++ b
  | .cpyb d a b => 0x53c#11 ++ d ++ a ++ b
  | .wait n p c s l => 0xa80#12 ++ n ++ p ++ c ++ s ++ l
  | .fence s => 0xa880000#28 ++ s
  | .flush b o => 0xa9000#20 ++ b ++ o
  | .invl b o => 0xa9800#20 ++ b ++ o
  | .zero b o => 0xaa000#20 ++ b ++ o
  | .sealst d b => 0x1550#13 ++ d ++ b ++ 0x0#7
  | .sealld d b => 0x1560#13 ++ d ++ b ++ 0x0#7
  | .sealfin d a => 0x55c#11 ++ d ++ a ++ 0x0#7
  | .sealchk d a => 0x560#11 ++ d ++ a ++ 0x0#7
  | .amoadd s d b o => 0x180#9 ++ s ++ d ++ b ++ o
  | .amomin s d b o => 0x181#9 ++ s ++ d ++ b ++ o
  | .amomax s d b o => 0x182#9 ++ s ++ d ++ b ++ o
  | .amominu s d b o => 0x183#9 ++ s ++ d ++ b ++ o
  | .amomaxu s d b o => 0x184#9 ++ s ++ d ++ b ++ o
  | .amoand s d b o => 0x185#9 ++ s ++ d ++ b ++ o
  | .amoor s d b o => 0x186#9 ++ s ++ d ++ b ++ o
  | .amoxor s d b o => 0x187#9 ++ s ++ d ++ b ++ o
  | .amoswp s d b o => 0x188#9 ++ s ++ d ++ b ++ o
  | .amofadd s d b o => 0x189#9 ++ s ++ d ++ b ++ o
  | .amoaadd s d b o => 0x18a#9 ++ s ++ d ++ b ++ o
  | .cas s d b o => 0x18b#9 ++ s ++ d ++ b ++ o
  | .redadd s d b o => 0x18c#9 ++ s ++ d ++ b ++ o
  | .redmin s d b o => 0x18d#9 ++ s ++ d ++ b ++ o
  | .redmax s d b o => 0x18e#9 ++ s ++ d ++ b ++ o
  | .redfadd s d b o => 0x18f#9 ++ s ++ d ++ b ++ o
  | .redaadd s d b o => 0x190#9 ++ s ++ d ++ b ++ o
  | .watch d a q z c => 0x191#9 ++ d ++ a ++ 0x0#2 ++ q ++ z ++ c
  | .bara d i => 0x192#9 ++ d ++ 0x0#12 ++ i
  | .barw i => 0xc980000#28 ++ i
  | .bars d i => 0x194#9 ++ d ++ 0x0#12 ++ i
  | .opbind d a s => 0x1c0#9 ++ d ++ a ++ 0x0#6 ++ s
  | .opunb d a => 0x1c1#9 ++ d ++ a ++ 0x0#9
  | .opgnt d a w => 0x1c2#9 ++ d ++ a ++ 0x0#5 ++ w
  | .oprev d a w => 0x1c3#9 ++ d ++ a ++ 0x0#5 ++ w
  | .opstat d a e f w => 0x1c4#9 ++ d ++ a ++ e ++ 0x0#2 ++ f ++ w
  | .opdisc d a l w => 0x1c5#9 ++ d ++ a ++ 0x0#4 ++ l ++ w
  | .opgang d a n p s => 0x1c6#9 ++ d ++ a ++ 0x0#1 ++ n ++ p ++ s
  | .nbld d a => 0x1c7#9 ++ d ++ a ++ 0x0#9
  | .nbexec h d a b => 0x1c8#9 ++ h ++ d ++ a ++ b
  | .nbcpy h d a b => 0x1c9#9 ++ h ++ d ++ a ++ b
  | .nbz h d a b => 0x1ca#9 ++ h ++ d ++ a ++ b
  | .nbstat d a e => 0x1cb#9 ++ d ++ a ++ 0x0#7 ++ e
  | .pmap d a p r l => 0x1cc#9 ++ d ++ a ++ 0x0#5 ++ p ++ r ++ l
  | .punmap d a r l => 0x1cd#9 ++ d ++ a ++ 0x0#6 ++ r ++ l
  | .tlbi a l z => 0xe700#16 ++ a ++ 0x0#2 ++ l ++ z
  | .poolget d a r p e z => 0x1cf#9 ++ d ++ a ++ 0x0#4 ++ r ++ p ++ e ++ z
  | .nbEnd => 0
  | .nbSel _ _ _ => 0
  | .nbCmp _ _ _ => 0
  | .nbWr _ _ => 0
  | .nbTag _ => 0
  | .nbCnt _ => 0
  | .nbDjnz _ => 0
  | .csetbnd b a d => 0x0#7 ++ b ++ a ++ 0x0#3 ++ d ++ 0x7b#7
  | .candperm b a d => 0x0#7 ++ b ++ a ++ 0x1#3 ++ d ++ 0x7b#7
  | .cincoff b a d => 0x0#7 ++ b ++ a ++ 0x2#3 ++ d ++ 0x7b#7
  | .csetoff b a d => 0x0#7 ++ b ++ a ++ 0x3#3 ++ d ++ 0x7b#7
  | .cseal b a d => 0x0#7 ++ b ++ a ++ 0x4#3 ++ d ++ 0x7b#7
  | .cunseal b a d => 0x1#7 ++ b ++ a ++ 0x4#3 ++ d ++ 0x7b#7
  | .csubset b a d => 0x0#7 ++ b ++ a ++ 0x5#3 ++ d ++ 0x7b#7
  | .cjalr b a d => 0x0#7 ++ b ++ a ++ 0x6#3 ++ d ++ 0x7b#7
  | .cgetbase e a d => 0x0#7 ++ e ++ a ++ 0x7#3 ++ d ++ 0x7b#7
  | .cgetlen a d => 0x20#12 ++ a ++ 0x7#3 ++ d ++ 0x7b#7
  | .cgetperm a d => 0x40#12 ++ a ++ 0x7#3 ++ d ++ 0x7b#7
  | .cgettag a d => 0x60#12 ++ a ++ 0x7#3 ++ d ++ 0x7b#7
  | .cclrtag a d => 0x80#12 ++ a ++ 0x7#3 ++ d ++ 0x7b#7
  | .clc i a d => i ++ a ++ 0x0#3 ++ d ++ 0x2b#7
  | .csc i b a j => i ++ b ++ a ++ 0x1#3 ++ j ++ 0x2b#7
  | .wfn b a d => 0x0#7 ++ b ++ a ++ 0x2#3 ++ d ++ 0x2b#7
  | .ntfy b a d => 0x0#7 ++ b ++ a ++ 0x3#3 ++ d ++ 0x2b#7
  | .ntfySet b a d => 0x1#7 ++ b ++ a ++ 0x3#3 ++ d ++ 0x2b#7
  | .loadReturn _ => 0
  | .storePerformed _ => 0
  | .refusalArrival _ _ _ _ => 0
  | .engineLockRegister _ => 0
  | .copyComplete _ => 0
  | .waitSatisfied _ _ => 0
  | .fenceComplete _ _ => 0
  | .cwaitComplete _ _ => 0
  | .xacqGrant _ => 0
  | .allocatorPark _ => 0
  | .allocatorReturn _ => 0
  | .barrierWaitEnd _ _ => 0
  | .monitorResume _ => 0
  | .watchReread _ => 0
  | .groupExitComplete _ => 0
  | .notifyDependenceMet _ => 0
  | .dispatchAdmit _ => 0
  | .dispatchPlaceBlock _ => 0
  | .dispatchReturnBlock _ => 0
  | .gangReserve _ => 0
  | .queueEnable _ _ => 0
  | .queueDisable _ _ => 0
  | .queueTailRaise _ _ => 0
  | .queueRecordRead _ _ => 0
  | .serviceWake _ => 0
  | .serviceResume _ => 0
  | .stage2Resolve _ _ _ _ => 0
  | .biasFlipEnd _ => 0
  | .atsInvalidation _ _ => 0
  | .operatorInputStore _ => 0
  | .heldStoreApply _ => 0
  | .operatorResultLoad _ => 0
  | .tileStep _ _ => 0
  | .trussCellsArrive _ _ => 0
  | .passEnd _ _ => 0
  | .nbQueueHead _ _ => 0
  | .nbPreparationDone _ => 0
  | .nbUnitEnd _ _ => 0
  | .nbIssueLimit _ => 0
  | .nbCommandComplete _ => 0
  | .rds _ _ => 0
  | .rdx _ _ => 0
  | .upg _ _ => 0
  | .wbd _ _ => 0
  | .evc _ _ => 0
  | .prbshr _ _ => 0
  | .prbinv _ _ => 0
  | .data _ _ => 0
  | .datax _ _ => 0
  | .prbrsp _ _ => 0
  | .invack _ _ => 0
  | .cmp _ _ => 0
  | .wback _ _ => 0
  | .snpdata _ => 0
  | .snpinv _ => 0
  | .snpcur _ => 0
  | .hostCacheCompletion _ => 0
  | .hostMemRead _ _ => 0
  | .hostMemWrite _ _ _ => 0
  | .notifyPageWrite _ _ _ => 0
  | .notifyPageAdd _ _ _ => 0
  | .queue0TailWrite _ _ => 0
  | .biasreq _ _ => 0
  | .pcerrClr _ _ => 0
  | .linkEnable _ _ => 0
  | .linkDisable _ _ => 0
  | .linkClear _ _ => 0
  | .linkTrained _ _ => 0
  | .trainingAttemptFail _ => 0
  | .linkTrainingFailed _ => 0
  | .linkLockLost _ => 0
  | .flitRetry _ => 0
  | .urradRd _ _ _ _ _ => 0
  | .urradWr _ _ _ _ _ => 0
  | .urradAmo _ _ _ _ _ _ _ => 0
  | .urradNtf _ _ _ _ _ => 0
  | .urradAnswer _ _ _ _ => 0
  | .hartDeviceAccess _ _ _ _ _ => 0
  | .contextLoad _ _ => 0
  | .contextRun _ _ => 0
  | .contextSave _ _ => 0
  | .saveQuiesced _ _ => 0
  | .saveGridEnd _ _ => 0
  | .contextRestore _ _ => 0
  | .restoreGridEnd _ _ => 0
  | .contextDrain _ _ => 0
  | .contextDestroy _ _ => 0
  | .partitionCreate _ => 0
  | .partitionResize _ => 0
  | .partitionAbort _ => 0
  | .partitionDestroy _ => 0
  | .partitionEnter _ => 0
  | .resizeAdmitEnd _ => 0
  | .resizeDrainEnd _ => 0
  | .resizeForce _ => 0
  | .rehashHandover _ => 0
  | .coreMove _ _ => 0
  | .pageMove _ => 0
  | .resizeDetach _ => 0
  | .bootStageVerify _ _ _ _ _ => 0
  | .getVersion _ => 0
  | .getCapabilities _ => 0
  | .negotiateAlgorithms _ => 0
  | .getDigests _ => 0
  | .getCertificate _ => 0
  | .challenge _ _ => 0
  | .getMeasurements _ _ => 0
  | .keyExchange _ _ => 0
  | .ideKmMessage _ _ _ _ => 0
  | .tdispMessage _ _ _ _ => 0
  | .tagRefusalLimit _ _ => 0
  | .keystoneKillRequest _ _ => 0
  | .keyStoreError _ _ _ => 0
  | .eraseAlarm _ => 0
  | .correctedError _ _ _ => 0
  | .repeatedCorrection _ _ _ => 0
  | .powerGood => 0
  | .powerOnReset => 0
  | .pcieFundamentalReset => 0
  | .mrst _ => 0
  | .powerComparison _ _ => 0
  | .hbmHot _ _ => 0
  | .thermalTrip _ _ => 0
  | .mstatTripClear _ _ => 0
  | .mpowMaxwClear _ _ => 0
  | .registerWrite _ _ _ _ => 0
  | .powerRemoved => 0
  | .uncorrectableError _ _ _ => 0
  | .ideStreamFailure _ => 0
  | .windowEntryWrite _ _ _ => 0
  | .peeringEntryWrite _ _ _ => 0
  | .secondStageInvalidation _ _ => 0
  | .tenantImageLoad _ _ => 0
  | .hartTrap _ _ _ => 0
  | .hartSret _ => 0

/-- The 64 bits of a near-bank microinstruction (R336). -/
def encodeNb (i : Instr) : DWord :=
  match i with
  | .nbSel add row sj => 0x1#4 ++ 0#12 ++ sj ++ row ++ add ++ 0#33
  | .nbCmp cm mask key => 0x2#4 ++ 0#42 ++ cm ++ mask ++ key
  | .nbWr mask key => 0x3#4 ++ 0#44 ++ mask ++ key
  | .nbTag cm => 0x4#4 ++ 0#42 ++ cm ++ 0#16
  | .nbCnt imm => 0x5#4 ++ imm ++ 0#48
  | .nbDjnz imm => 0x6#4 ++ imm ++ 0#48
  | _ => 0

end Sys2Proof
end

