-- ==== Sys2Proof/Machine/Objects.lean ====
section
/-! DEFINITION. The ends of groups, blocks and grids (R132, R143), service-call posts (R265), and the
park area (R260). -/

namespace Sys2Proof.Machine

/-! ## Operators left by their owner (R297) -/

/-- Makes an operator FREE when no pass of it is queued: its results are discarded and REUSE advances
(R297). -/
def opTryFree (s : State) (key : Nat) : State :=
  match tget s.ops key with
  | none => s
  | some o =>
    if o.st = .unbinding ∧ !(s.passes.any (fun p => decide (p.2.op = key))) then
      { s with ops := o.members.foldl tdel s.ops, opReuse := mset s.opReuse (key % 2 ^ 15) (mget s.opReuse (key % 2 ^ 15) + 1) }
    else s

/-- Puts every member of an operator into a state (R323). -/
def opSetSt (s : State) (key : Nat) (st : OpSt) : State :=
  match tget s.ops key with
  | none => s
  | some o => { s with ops := o.members.foldl (fun t k => tmod t k (fun x => { x with st := st })) s.ops }

/-- Takes an operator to UNBINDING (R297, R323). -/
def opUnbind (s : State) (key : Nat) : State := opTryFree (opSetSt s key .unbinding) key

/-- Every operator of a block goes to UNBINDING (R297). -/
def unbindBlock (s : State) (b : Nat) : State :=
  (s.ops.filter (fun o => decide (o.2.blk = b) && o.2.root.isNone)).foldl (fun s o => opUnbind s o.1) s

/-! ## The end of a grid (R124, R125, R132) -/

/-- Word 10 of a launch record (R123). -/
def statusWord (blkdone detail code : Nat) : DWord :=
  BitVec.ofNat 64 (blkdone % 2 ^ 32 * 2 ^ 32 + detail % 256 * 256 + code % 256)

/-- The completion increment that a launch record asks for (R124); without capability 0x0072 there is
none. -/
def incOf (s : State) (p : Nat) (lrec : List DWord) : Option (Nat × DWord) :=
  let w := lrec.getD 5 0
  if w.getLsbD 63 && capOn s p capNotify then
    some (w.toNat / 2 ^ 48 % 4096, BitVec.ofNat 64 (w.toNat % 2 ^ 32))
  else none

/-- The device-written words of a queue record (R354). -/
def queuePut (s : State) (p q : Nat) : State :=
  match tget s.parts p, tget s.queues (p * 256 + q) with
  | some pt, some x =>
    let st : Nat := match x.st with
      | .off => 0
      | .active => 1
      | .blocked => 2
      | .halted => 3
    devPost s { part := p, ctx := 0, user := false } (pt.qtab + BitVec.ofNat 64 (64 * q + 24))
      [x.head, BitVec.ofNat 64 (x.cause * 256 + st), x.haddr] none
  | _, _ => s

/-- Changes a queue and writes its record. -/
def setQueue (s : State) (p q : Nat) (f : Queue → Queue) : State :=
  queuePut { s with queues := tmod s.queues (p * 256 + q) f } p q

/-- A queue that waited for its previous grid goes on (R358). -/
def queueGoesOn (s : State) (p q : Nat) : State :=
  match tget s.queues (p * 256 + q) with
  | some x => if x.st = .blocked && x.grid.isNone then setQueue s p q (fun x => { x with st := .active }) else s
  | none => s

/-- A grid leaves the counts of the group, block and grid that launched it (R132, R139). -/
def leaveParent (s : State) (gid blk parent : Nat) : State :=
  markBlock { s with
    grids := tmod s.grids parent (fun x => { x with kids := x.kids - 1 })
    groups := tmod s.groups gid (fun x => { x with kids := x.kids - 1 })
    blocks := tmod s.blocks blk (fun x => { x with kids := x.kids - 1 }) } blk

/-- How a grid that was only waiting for its children ends (R132). -/
def drainedEnd (s : State) (n : Nat) : Option (GridSt × Nat × Nat × DWord) :=
  match tget s.grids n with
  | none => none
  | some g =>
    if g.st = .draining ∧ g.kids = 0 then
      (match g.later with
        | none => some (.done, 1, 0, 0)
        | some (d, f) => some (.faulted, 8, d, f))
    else none

/-- A grid reaches a final state: its status is written and its increment performed (R124), then it leaves
the counts of its parents, once both are done (R132, R139), and a parent that was only waiting for it ends in turn. A save
or restore grid stays listed until the device has read its outcome (R385, R386). -/
def endGrid : Nat → State → Nat → GridSt → Nat → Nat → DWord → State
  | 0, s, _, _, _, _, _ => s
  | fuel + 1, s, n, st, code, detail, finfo =>
    match tget s.grids n with
    | none => s
    | some g =>
      let kid : Option (Nat × Nat × Nat) := match g.src with
        | .child gid blk parent => some (gid, blk, parent)
        | _ => none
      let (s, told) := makePost s { part := g.part, ctx := g.ctx, addr := g.addr + 80, words := [statusWord g.blkdone detail code, finfo],
                                    inc := incOf s g.part g.lrec, kid := kid, asked := false, waits := 0 }
      match g.src with
      | .queue q => queueGoesOn { s with grids := tdel s.grids n } g.part q
      | .device _ => setGrid s n { g with st := st, code := code, detail := detail, finfo := finfo }
      | .child gid blk parent =>
        let s := { s with grids := tdel s.grids n }
        if told then
          let s := leaveParent s gid blk parent
          match drainedEnd s parent with
          | some (st, c, d, f) => endGrid fuel s parent st c d f
          | none => s
        else s

/-- Levels of nesting that a chain of grids can have (R123), with room for the grid itself. -/
def gridFuel : Nat := 12

/-- Tries the device writes that wait, oldest first, with what follows each (R124, R139, R218, R225). -/
def pumpPosts (s : State) : State :=
  (s.devq.map Prod.fst).foldl (fun s id =>
    match tget s.devq id with
    | none => s
    | some w =>
      match tryPost s id w with
      | (s, false) => s
      | (s, true) =>
        let s := postInc { s with devq := tdel s.devq id } w
        match w.kid with
        | none => s
        | some (gid, blk, parent) =>
          let s := leaveParent s gid blk parent
          match drainedEnd s parent with
          | some (st, c, d, f) => endGrid gridFuel s parent st c d f
          | none => s) s

/-- Forgets an engine operation, a bind or a load that a slot is stalled for (R255: it issues again). -/
def cancelEngine (s : State) (sl : Slot) : State :=
  match sl.wait with
  | .engine id => { s with copies := tdel s.copies id, nbcmds := tdel s.nbcmds id, binds := tdel s.binds id, nblds := tdel s.nblds id }
  | _ => s

/-- Discards a group: its outstanding accesses that are under way are still performed, its requests are
forgotten (R265). -/
def discardGroup (s : State) (gid : Nat) : State :=
  let s := performStores s gid
  { s with
    binds := s.binds.filter (fun b => decide (b.2.gid ≠ gid))
    nblds := s.nblds.filter (fun b => decide (b.2.gid ≠ gid))
    groups := tdel s.groups gid
    svcreqs := s.svcreqs.filter (fun r => decide (r.2.gid ≠ gid)) }

/-- Discards a block with its groups, monitors and reservations; its operators unbind. -/
def discardBlock (s : State) (b : Nat) : State :=
  let s := (groupsOf s b).foldl (fun s g => discardGroup s g.1) s
  unbindBlock { s with blocks := tdel s.blocks b } b

/-- Discards every block of a grid. -/
def stopGrid (s : State) (n : Nat) : State :=
  (s.blocks.filter (fun b => decide (b.2.grid = n))).foldl (fun s b => discardBlock s b.1) s

/-- The grids launched by groups of a grid. -/
def childGrids (s : State) (n : Nat) : List Nat :=
  (s.grids.filter (fun g => match g.2.src with
    | .child _ _ p => decide (p = n)
    | _ => false)).map Prod.fst

/-- Ends a grid early (R132): it is in its final state, so the end of its last child does not end it; every group is stopped, every
child is killed in turn with the GRIDID of the ancestor that faulted (0 when a context was destroyed), and its own status is
written. -/
def stopAndEnd : Nat → State → Nat → GridSt → Nat → Nat → DWord → DWord → State
  | 0, s, _, _, _, _, _, _ => s
  | fuel + 1, s, n, st, code, detail, finfo, anc =>
    let s := stopGrid { s with grids := tmod s.grids n (fun g => { g with st := st }) } n
    let s := (childGrids s n).foldl (fun s c => stopAndEnd fuel s c .killed 9 0 anc anc) s
    endGrid gridFuel s n st code detail finfo

/-- A fatal error of a group (R132, R143, R253): its grid is FAULTED with FINFO the PC of the error. -/
def groupFatal (s : State) (gid : Nat) (tpc : DWord) : State :=
  match tget s.groups gid with
  | none => s
  | some g =>
    match tget s.blocks g.blk with
    | none => discardGroup s gid
    | some b =>
      match tget s.grids b.grid with
      | none => discardBlock s g.blk
      | some gr =>
        stopAndEnd gridFuel s b.grid .faulted 8 0 tpc (BitVec.ofNat 64 gr.gridid.toNat)

/-- The last placed block of a grid has exited (R132). -/
def gridBlocksDone (s : State) (n : Nat) : State :=
  match tget s.grids n with
  | none => s
  | some g =>
    if g.st = .running ∧ g.live = 0 then
      if g.kids ≠ 0 then setGrid s n { g with st := .draining }
      else
        match g.later with
        | none => endGrid gridFuel s n .done 1 0 0
        | some (d, f) => endGrid gridFuel s n .faulted 8 d f
    else s

/-- A block exits when every one of its groups has exited (R132). -/
def blockExit (s : State) (b : Nat) : State :=
  match tget s.blocks b with
  | none => s
  | some x =>
    let s := discardBlock s b
    let s := { s with grids := tmod s.grids x.grid (fun g => { g with live := g.live - 1, blkdone := g.blkdone + 1 }) }
    gridBlocksDone s x.grid

/-! ## Barriers (R270, R272) -/

/-- The number of groups of a block that have not exited. -/
def liveGroups (s : State) (b : Nat) : Nat :=
  ((groupsOf s b).filter (fun g => decide (g.2.st ≠ .exited))).length

/-- Whether the phase of a barrier is met (R270). -/
def barMet (live : Nat) (x : Bar) : Bool :=
  x.gathering && (match x.expect with
    | some e => decide (e ≤ x.arrived.length)
    | none => decide (live ≤ x.arrived.length))

/-- Completes a met phase (R272). -/
def barStep (live : Nat) (x : Bar) : Bar :=
  if barMet live x then { phase := x.phase + 1, arrived := [], expect := none, gathering := false } else x

/-- Looks again at every barrier of a block, after an arrival or an exit. -/
def barsCheck (s : State) (b : Nat) : State :=
  let live := liveGroups s b
  { s with blocks := tmod s.blocks b (fun x => { x with bars := x.bars.map (barStep live) }) }

/-! ## The last lane of a group (R143, R159) -/

/-- A group reaches EXITED: its slot and register blocks are released. -/
def groupExited (s : State) (gid : Nat) : State :=
  match tget s.groups gid with
  | none => s
  | some g =>
    let s := setGroup s gid { g with st := .exited, a := Slot.free, b := Slot.free, v := [], s := [], p := [],
                                     held := 0, stack := [] }
    let s := barsCheck s g.blk
    if liveGroups s g.blk = 0 then blockExit s g.blk else s

/-! ## Slot records, frames and park areas (R254, R255, R260) -/

/-- Whether a wait is recorded with WR = 1 (R255); a slot stalled for its engine locks is not. -/
def waitsInside (w : Wait) : Bool :=
  match w with
  | .none => false
  | .engine _ => false
  | .drain => false
  | .room _ _ => false
  | .trap _ => false
  | .resume => false
  | _ => true

/-- The four words of a slot record (R255). A wait has consumed its literal, which a slot keeps until its instruction completes,
so that one that traps out of its wait issues again with it (R257). -/
def slotRecord (sl : Slot) : List DWord :=
  if !sl.live then [0, 0, 0, 0]
  else
    [sl.pc,
     BitVec.ofNat 64 (sl.exec.toNat * 2 ^ 32 + (if waitsInside sl.wait then 2 ^ 28 else 0) + 2 ^ 27
       + (if sl.jp then 2 ^ 26 else 0) + (if waitsInside sl.wait then 0 else sl.lc.toNat) * 2 ^ 24 + sl.mr.toNat),
     sl.lat, sl.jpc]

/-- The slot a record describes; the wait it continues, if WR = 1, is looked up by the caller. -/
def readSlot (w : List DWord) : Slot :=
  let x := w.getD 1 0
  if x.getLsbD 27 then
    { live := true, pc := w.getD 0 0, exec := BitVec.ofNat 32 (x.toNat / 2 ^ 32), mr := BitVec.ofNat 11 x.toNat,
      lat := w.getD 2 0, lc := BitVec.ofNat 2 (x.toNat / 2 ^ 24), jpc := w.getD 3 0, jp := x.getLsbD 26,
      wait := .none, passed := 0 }
  else Slot.free

/-- The waits to keep for the slots of a group that are recorded in a frame of level `lv` (0 for the
park area). -/
def keepWaits (g : Group) (lv : Nat) : List (Nat × Nat × DWord × Wait) :=
  (g.susp.filter (fun x => decide (x.1 ≠ lv)))
    ++ (if waitsInside g.a.wait then [(lv, 0, g.a.pc, g.a.wait)] else [])
    ++ (if waitsInside g.b.wait then [(lv, 1, g.b.pc, g.b.wait)] else [])

/-- The slot of a side read back from a record of level `lv`: with WR = 1 it continues the wait that was
recorded at its PC, or the wait of whatever instruction stands there if software wrote the record (R255). -/
def resumeSlot (g : Group) (lv side : Nat) (w : List DWord) : Slot :=
  let sl := readSlot w
  if sl.live && (w.getD 1 0).getLsbD 28 then
    match g.susp.find? (fun x => decide (x.1 = lv) && decide (x.2.1 = side) && decide (x.2.2.1 = sl.pc)) with
    | some x => { sl with wait := x.2.2.2 }
    | none => { sl with wait := .resume }
  else sl

/-- Two 32-bit values as one word, low half first. -/
def two (a b : Word) : DWord := b ++ a

/-- p0 to p6 and four reserved bytes (R254). -/
def predWords (g : Group) : List DWord :=
  [two (preg g 0) (preg g 1), two (preg g 2) (preg g 3), two (preg g 4) (preg g 5), two (preg g 6) 0]

/-- The 16 words of a vector register (R254). -/
def vregWords (g : Group) (r : Nat) : List DWord :=
  (List.range 16).map (fun i => two (vreg g r (2 * i)) (vreg g r (2 * i + 1)))

/-- A stack entry in memory (R147). -/
def entryWords (e : SEntry) : List DWord :=
  [BitVec.ofNat 64 (e.pc.toNat / 4 % 2 ^ 53 * 2 ^ 11 + e.mrs.toNat), two e.arr e.mask]

/-- A stack entry read back. -/
def readEntry (a b : DWord) : SEntry :=
  { pc := BitVec.ofNat 64 (509 * 2 ^ 55 + a.toNat / 2 ^ 11 * 4), mrs := BitVec.ofNat 11 a.toNat,
    mask := BitVec.ofNat 32 (b.toNat / 2 ^ 32), arr := BitVec.ofNat 32 b.toNat }

/-- `n` stack entries read from words. -/
def readStack (w : List DWord) (n : Nat) : List SEntry :=
  (List.range n).map (fun i => readEntry (w.getD (2 * i) 0) (w.getD (2 * i + 1) 0))

/-- Registers p0 to p6 read from four words. -/
def readPreds (w : List DWord) : SMap 32 :=
  (List.range 7).foldl (fun m i =>
    mset m i (BitVec.ofNat 32 ((w.getD (i / 2) 0).toNat / 2 ^ (32 * (i % 2))))) []

/-- Writes one vector register from its 16 words. -/
def readVreg (v : SMap 32) (r : Nat) (w : List DWord) : SMap 32 :=
  (List.range 32).foldl (fun v l =>
    mset v (32 * r + l) (BitVec.ofNat 32 ((w.getD (l / 2) 0).toNat / 2 ^ (32 * (l % 2))))) v

/-- Words that are all zero. -/
def zeros (n : Nat) : List DWord := List.replicate n 0

/-- The address of a group's park area (R251). -/
def parkAddr (cx : Ctx) (g : Group) : DWord := cx.park + BitVec.ofNat 64 (g.pidx * 18432)

/-- The class code of a refusal record. -/
def refWords (g : Group) : DWord × DWord :=
  match g.ref with
  | some r => (BitVec.ofNat 64 (r.mask.toNat * 2 ^ 32 + 8 + r.cls), r.addr)
  | none => (0, 0)

/-- The park area of a group (R260), up to the end of the stack, and then its held registers. Reserved
fields are written as zero. -/
def parkHead (g : Group) (reason : Nat) (seq : DWord) : List DWord :=
  [BitVec.ofNat 64 (g.stack.length * 2 ^ 16 + g.hlev.toNat * 2 ^ 10 + g.held * 2 ^ 8 + reason),
   BitVec.ofNat 64 (cntWord g), seq, BitVec.ofNat 64 g.opst.toNat, (refWords g).1, (refWords g).2,
   BitVec.ofNat 64 (match g.xreq with
     | some n => 4 + n
     | none => 0), 0]
  ++ slotRecord g.a ++ slotRecord g.b
  ++ (List.range 24).map (sreg g)
  ++ predWords g
  ++ [g.tcause, g.tpc, g.tmask, g.taddr, g.emuword, g.emuop, g.emud, g.emua, g.emub, g.emuimm, g.nbwin]
  ++ zeros 73
  ++ g.stack.flatMap entryWords

def parkRegs (g : Group) : List DWord :=
  (List.range (32 + 32 * g.held)).flatMap (vregWords g)

/-- Writes two runs of words, or none of them. -/
def devWrite2 (s : State) (rq : Req) (a : DWord) (wa : List DWord) (b : DWord) (wb : List DWord) : DevRes State :=
  (devTargets s rq .store b wb.length).andThen (fun _ => (devWrite s rq a wa).andThen (fun s => devWrite s rq b wb))

/-- Whether a group's park area can be written now. -/
def parkReady (s : State) (gid : Nat) : DevRes Unit :=
  match tget s.groups gid with
  | none => .failed 0
  | some g =>
    match tget s.blocks g.blk with
    | none => .failed 0
    | some b =>
      match tget s.ctxs (b.part * 1024 + b.ctx) with
      | none => .failed 0
      | some cx =>
        let rq : Req := { part := b.part, ctx := b.ctx, user := false }
        let a := parkAddr cx g
        (devTargets s rq .store a (128 + 2 * g.stack.length)).andThen (fun _ =>
          (devTargets s rq .store (a + 0x800) (16 * (32 + 32 * g.held))).andThen (fun _ => .done ()))

/-- A refusal record taken back beside what arrived meanwhile (R173), and NBWIN likewise (R346). -/
def mergeRef (old new : Option Refused) : Option Refused :=
  match old, new with
  | some r, some x => some { r with mask := r.mask ||| x.mask }
  | some r, none => some r
  | none, x => x
def mergeNb (old new : DWord) : DWord :=
  if old.getLsbD 12 then (if new.getLsbD 12 then old ||| (new &&& 0xFFFFFFFF00000000#64) else old) else new

/-- Parks a group whose accesses have all been performed (R143, R260): its state goes to its park area
and its registers leave the core. An unwritable park area is a fatal error (R251). -/
def parkGroup (s : State) (gid reason : Nat) (seq : DWord) : State :=
  match tget s.groups gid with
  | none => s
  | some g =>
    match tget s.blocks g.blk with
    | none => s
    | some b =>
      match tget s.ctxs (b.part * 1024 + b.ctx) with
      | none => s
      | some cx =>
        let rq : Req := { part := b.part, ctx := b.ctx, user := false }
        let a := parkAddr cx g
        match devWrite2 s rq a (parkHead g reason seq) (a + 0x800) (parkRegs g) with
        | .failed _ => groupFatal s gid (if g.a.live then g.a.pc else g.b.pc)
        | .s2 d ia =>
          if s.s2refused.contains (b.part, d, ia / 8192) then groupFatal s gid (if g.a.live then g.a.pc else g.b.pc)
          else signalS2 s b.part d ia
        | .wait => s
        | .done s =>
          setGroup (cancelEngine (cancelEngine s g.a) g.b) gid { g with
            st := .parked, reason := reason, seq := seq, susp := keepWaits g 0, ref := none, nbwin := 0, recs := [],
            a := Slot.free, b := Slot.free, v := [], s := [], p := [], stack := [] }

/-- Restores a parked group from its park area on `core` in slot `gslot` (R143, R256); the read-back
state is checked, and a state that fails is a fatal error. -/
def unparkGroup (s : State) (gid core gslot age : Nat) : State :=
  match tget s.groups gid with
  | none => s
  | some g =>
    match tget s.blocks g.blk with
    | none => s
    | some b =>
      match tget s.ctxs (b.part * 1024 + b.ctx) with
      | none => s
      | some cx =>
        let rq : Req := { part := b.part, ctx := b.ctx, user := false }
        let a := parkAddr cx g
        match devRead s rq a 256, devRead s rq (a + 0x800) (16 * (32 + 32 * g.held)) with
        | .done w, .done vw =>
          let h := w.getD 0 0
          let depth := h.toNat / 2 ^ 16 % 256
          let g' := { g with
            st := .resident, core := core, gslot := gslot, age := age, reason := 0, seq := 0,
            hlev := BitVec.ofNat 2 (h.toNat / 2 ^ 10),
            opst := BitVec.ofNat 2 (w.getD 3 0).toNat,
            ref := mergeRef (if (w.getD 4 0).getLsbD 3 then
                some { addr := w.getD 5 0, mask := BitVec.ofNat 32 ((w.getD 4 0).toNat / 2 ^ 32), cls := (w.getD 4 0).toNat % 8 }
              else none) g.ref,
            a := resumeSlot g 0 0 (w.drop 8), b := resumeSlot g 0 1 (w.drop 12),
            s := (List.range 24).foldl (fun m i => mset m i (w.getD (16 + i) 0)) [],
            p := readPreds (w.drop 40),
            tcause := w.getD 44 0, tpc := w.getD 45 0, tmask := w.getD 46 0, taddr := w.getD 47 0,
            emuword := w.getD 48 0, emuop := w.getD 49 0, emud := w.getD 50 0, emua := w.getD 51 0,
            emub := w.getD 52 0, emuimm := w.getD 53 0, nbwin := mergeNb (w.getD 54 0) g.nbwin,
            stack := readStack (w.drop 128) (min depth 65),
            susp := g.susp.filter (fun x => decide (x.1 ≠ 0)),
            v := (List.range (32 + 32 * g.held)).foldl (fun v r => readVreg v r (vw.drop (16 * r))) [] }
          let s' := setGroup s gid g'
          if depth ≤ 64 && restoreValid g' then setGroup s' gid (refill g')
          else groupFatal s' gid g'.a.pc
        | .s2 d ia, _ => signalS2 s b.part d ia
        | _, .s2 d ia => signalS2 s b.part d ia
        | .wait, _ => s
        | _, .wait => s
        | _, _ => groupFatal s gid g.tpc

/-! ## Posting a service call (R261 to R265) -/

/-- What the ring control block says (R261): PROD, VEC, NIDX, SRV, LOGN and SLOTS. -/
structure Ring where
  prod : DWord
  vec : Nat
  nidx : Nat
  srv : Bool
  logn : Nat
  slots : DWord
deriving DecidableEq, Repr

def readRing (w : List DWord) : Ring :=
  let x := w.getD 2 0
  { prod := w.getD 0 0, vec := x.toNat / 2 ^ 32 % 2 ^ 16, nidx := x.toNat / 2 ^ 20 % 4096, srv := x.getLsbD 16,
    logn := x.toNat % 16, slots := w.getD 3 0 }

/-- Whether a ring can serve (R21, R261, R266). -/
def ringOk (s : State) (p : Nat) (r : Ring) : Bool :=
  decide (r.logn ≤ 10) && (!r.srv || (capOn s p capService && capOn s p capNotify))

/-- The address of the entry slot of request `q` (R261). -/
def ringSlot (r : Ring) (q : DWord) : DWord :=
  r.slots + BitVec.ofNat 64 ((q - 1).toNat % 2 ^ r.logn * 8192)

/-- How a post ends: done; no ring, or a write that faults (fatal, R266); the slot not FREE yet, or a page whose bias changes; or a
second-stage failure. -/
inductive PostRes where
  | posted (s : State) (q : DWord)
  | bad
  | busy
  | s2 (die ia : Nat)
deriving Repr

/-- Posts a request on the ring of the group's context (R265): the header, the argument blocks of the
lanes, zeroed replies and wake word, then PROD with a release, then the signal. `args l` are the words
of lane `l`'s argument block; `info` is what the device keeps for the reply. -/
def postRequest (s : State) (gid : Nat) (lanes : Word) (kind : Nat) (tpc : DWord)
    (args : Nat → List DWord) (info : List Nat) : PostRes :=
  match tget s.groups gid with
  | none => .bad
  | some g =>
    match tget s.blocks g.blk with
    | none => .bad
    | some b =>
      match tget s.ctxs (b.part * 1024 + b.ctx) with
      | none => .bad
      | some cx =>
        if cx.ring = 0 then .bad
        else
          let rq : Req := { part := b.part, ctx := b.ctx, user := false }
          match devRead s rq cx.ring 8 with
          | .failed _ => .bad
          | .s2 d ia => .s2 d ia
          | .wait => .busy
          | .done w =>
            let r := readRing w
            let q := r.prod + 1
            let sl := ringSlot r q
            let gridid : Nat := match tget s.grids b.grid with
              | some gr => gr.gridid.toNat
              | none => 0
            if !ringOk s b.part r then .bad
            else if s.svcreqs.any (fun x => decide (x.2.part = b.part) && decide (x.2.ctx = b.ctx) && decide (x.2.slot = sl)) then .busy
            else
              let writes : List (DWord × List DWord) :=
                [(sl, [two (BitVec.ofNat 32 kind) lanes, tpc, BitVec.ofNat 64 (gridid * 2 ^ 32 + b.ctx), q, 0, 0, 0, 0])]
                ++ (lanesOf lanes).map (fun l => (sl + BitVec.ofNat 64 (0x40 + 64 * l), args l))
                ++ (lanesOf lanes).map (fun l => (sl + BitVec.ofNat 64 (0x840 + 64 * l), zeros 8))
                ++ [(sl + 0x1040, [0]), (cx.ring, [q])]
              let res := writes.foldl (fun (acc : DevRes State) x => acc.andThen (fun s => devWrite s rq x.1 x.2)) (.done s)
              match res, devTargets s rq .store (sl + 0x1040) 1 with
              | .failed _, _ => .bad
              | .s2 d ia, _ => .s2 d ia
              | _, .failed _ => .bad
              | _, .s2 d ia => .s2 d ia
              | .wait, _ => .busy
              | _, .wait => .busy
              | .done s, .done ts =>
                let (id, s) := fresh s
                let newReq : SvcReq :=
                  { part := b.part, ctx := b.ctx, seq := q, gid := gid, lanes := lanes, kind := kind, slot := sl,
                    wake := ts.headD (.host 0), hit := false, woken := false, args := info, reply := [], asked := false, waits := 0, bad := [] }
                let s := { s with svcreqs := tset s.svcreqs id newReq }
                let s := if r.srv then addNotify s b.part r.nidx 1 else sendMsix s b.part r.vec
                .posted s q

end Sys2Proof.Machine
end

