-- ==== Sys2Proof/Machine/Ops.lean ====
section
/-! DEFINITION. Taking a trap (R249 to R253) and returning from one (R254 to R258), each as one shared
operation, and the completion of WAIT and FENCE (R173, R180, R181). -/

namespace Sys2Proof.Machine

/-- A trap whose handler mask is its faulters' mask and that has no INFO. -/
def TrapI.plain (cause : Nat) (mask : Word) (taddr : DWord) : TrapI :=
  { cause := cause, tmask := mask, hmask := mask, taddr := taddr, info := 0, emu := none }

/-- The level of a cause's handler (R249). -/
def causeLevel (cause : Nat) : Nat := if 16 ≤ cause then 2 else 1

/-- The address of the frame of a level (R251). -/
def frameAddr (cx : Ctx) (g : Group) (lv : Nat) : DWord :=
  cx.frame + BitVec.ofNat 64 ((2 * g.pidx + (lv - 1)) * 2048)

/-- The trap frame (R254). Reserved fields are written as zero. -/
def frameWords (g : Group) (side lv : Nat) (t : TrapI) (tpc : DWord) : List DWord :=
  [BitVec.ofNat 64 (t.tmask.toNat * 2 ^ 32 + g.stack.length * 2 ^ 16 + (if side = 0 then 0 else 256) + t.cause),
   tpc, t.taddr, t.info, BitVec.ofNat 64 (g.hlev.toNat * 4 + lv), 0, 0, 0]
  ++ slotRecord g.a ++ slotRecord g.b
  ++ (List.range 4).map (sreg g)
  ++ predWords g ++ zeros 8
  ++ (List.range 4).flatMap (vregWords g) ++ zeros 32
  ++ g.stack.flatMap entryWords

/-- Whether a group can go now, its accesses performed (R208) and its park area writable; else what keeps it waiting: a state in
which the second stage was asked for, or nothing. -/
def readyToPark (s : State) (gid : Nat) : Except State Bool :=
  match tget s.groups gid with
  | none => .error s
  | some g =>
    let p := (reqOf s g).part
    if !ldStZero g then .error s
    else
      match parkReady s gid with
      | .done _ => .ok true
      | .failed _ => .ok false
      | .s2 d ia => if s2Refused s p d ia then .ok false else .error (signalS2 s p d ia)
      | .wait => .error s

/-- Escalation (R221): a PAGEPOOL request of the group, which then parks with REASON 6. The lanes named
are those of `lanes`; `done` is the register and the slot of a POOLGET, which completes with the frame. -/
def escalate (s : State) (gid : Nat) (tpc : DWord) (lanes : Word) (size die br : Nat) (done : List Nat) : State :=
  match tget s.groups gid with
  | none => s
  | some g =>
    if !capOn s (reqOf s g).part capService then groupFatal s gid tpc
    else
      match readyToPark (drainLdSt s gid) gid with
      | .error s => s
      | .ok false => groupFatal s gid tpc
      | .ok true =>
        let s := drainLdSt s gid
        match postRequest s gid lanes 0x400001 tpc
            (fun _ => [BitVec.ofNat 64 (size + die * 2 ^ 32), BitVec.ofNat 64 br])
            ([size, die, br, tpc.toNat] ++ done) with
        | .posted s q => parkGroup s gid 6 q
        | .bad => groupFatal s gid tpc
        | .busy => s
        | .s2 d ia => signalS2 s (reqOf s g).part d ia

/-- The handler of a level and what happens without one (R49, R219, R252). -/
inductive Handler where
  | at (pc : DWord)
  | fatal
  | escalates
deriving DecidableEq, Repr

def handlerOf (s : State) (g : Group) (t : TrapI) : Handler :=
  match tget s.blocks g.blk with
  | none => .fatal
  | some b =>
    let lv := causeLevel t.cause
    if g.hlev = 2 ∨ (g.hlev = 1 ∧ lv = 1) then .fatal
    else if lv = 1 then (if b.desc.emupc = 0 then .fatal else .at b.desc.emupc)
    else
      match tget s.ctxs (b.part * 1024 + b.ctx) with
      | none => .fatal
      | some cx =>
        if cx.suph ≠ 0 then .at (asPc cx.suph)
        else if t.cause = 16 then .escalates else .fatal

/-- What the REMOTE and NBFAULT traps report when they are entered: refusals that came meanwhile are in the record (R173, R346). -/
def trapNow (g : Group) (t : TrapI) : TrapI :=
  if t.cause = 11 then
    (match g.ref with
      | some r => { t with tmask := r.mask, taddr := r.addr, info := BitVec.ofNat 64 r.cls }
      | none => t)
  else if t.cause = 12 then { t with tmask := BitVec.ofNat 32 (g.nbwin.toNat / 2 ^ 32), info := g.nbwin }
  else t

/-- The slot of a trap while it is being entered: it issues nothing, as the other slot (R253). -/
def holdTrap (s : State) (gid side : Nat) (t : TrapI) : State :=
  { s with groups := tmod s.groups gid (fun g => setSlot g side { slotOf g side with wait := .trap t }) }

/-- The group in its handler (R253): the trap registers hold the trap, slot A starts at `pc` with MR = 7, S[3] is the frame
`f`. -/
def inHandler (g : Group) (side lv : Nat) (t : TrapI) (tpc f pc : DWord) : Group :=
  setSreg { g with
    tcause := BitVec.ofNat 64 t.cause, tpc := tpc, tmask := BitVec.ofNat 64 t.tmask.toNat,
    taddr := t.taddr,
    emuword := (t.emu.getD [g.emuword]).getD 0 0,
    emuop := (t.emu.getD [0, g.emuop]).getD 1 0,
    emud := (t.emu.getD [0, 0, g.emud]).getD 2 0,
    emua := (t.emu.getD [0, 0, 0, g.emua]).getD 3 0,
    emub := (t.emu.getD [0, 0, 0, 0, g.emub]).getD 4 0,
    emuimm := (t.emu.getD [0, 0, 0, 0, 0, g.emuimm]).getD 5 0,
    ref := if t.cause = 11 then none else g.ref,
    nbwin := if t.cause = 12 then g.nbwin &&& ~~~0x1000#64 else g.nbwin,
    susp := keepWaits g lv,
    tslot1 := if lv = 1 then side else g.tslot1,
    tslot2 := if lv = 2 then side else g.tslot2,
    plev2 := if lv = 2 then g.hlev else g.plev2,
    a := { Slot.free with live := true, pc := pc, exec := t.hmask, mr := 7 },
    b := Slot.free, stack := [], hlev := BitVec.ofNat 2 lv } 3 f

/-- Entry into a handler (R253): issue stops in both slots, the outstanding accesses of the group are performed, the frame is
written, the trap registers are set, and slot A starts the handler with MR = 7; S[3] is the frame. Every
other register is unchanged. The trapping slot is recorded at its word, with the latches it had when it issued (R257). While an
access still awaits an answer from elsewhere, or the frame's page its second stage, the trap is held. -/
def takeTrap (s : State) (gid side : Nat) (t : TrapI) : State :=
  match tget s.groups gid with
  | none => s
  | some g0 =>
    let tpc := (slotOf g0 side).pc
    match handlerOf s g0 t with
    | .fatal => groupFatal s gid tpc
    | .escalates => escalate (holdTrap s gid side t) gid tpc t.tmask 0 (vaDie t.taddr) 0 []
    | .at pc =>
      let s := drainLdSt s gid
      match tget s.groups gid with
      | none => s
      | some g =>
        if !ldStZero g then holdTrap s gid side t
        else
          match tget s.blocks g.blk with
          | none => s
          | some b =>
            match tget s.ctxs (b.part * 1024 + b.ctx) with
            | none => s
            | some cx =>
              let lv := causeLevel t.cause
              let f := frameAddr cx g lv
              let rq : Req := { part := b.part, ctx := b.ctx, user := false }
              let t := trapNow g t
              let g := setSlot g side { slotOf g side with wait := .none }
              match devWrite s rq f (frameWords g side lv t tpc) with
              | .failed _ => groupFatal s gid tpc
              | .s2 d ia => if s2Refused s b.part d ia then groupFatal s gid tpc else signalS2 (holdTrap s gid side t) b.part d ia
              | .wait => holdTrap s gid side t
              | .done s => setGroup (cancelEngine s (slotOf g (1 - side))) gid (inHandler g side lv t tpc f pc)

/-- TRAPRET and SRET (R257): the state of the frame of level `lv` comes back; with `skip` the trapping
word counts as executed. A wrong level, an unconverged group or a frame that fails R256 is a fatal error. -/
def trapReturn (s : State) (gid side lv : Nat) (skip : Bool) : State :=
  match tget s.groups gid with
  | none => s
  | some g0 =>
    let here := (slotOf g0 side).pc
    if g0.hlev.toNat ≠ lv ∨ !converged g0 then groupFatal s gid here
    else
      let s := drainLdSt s gid
      match tget s.groups gid with
      | none => s
      | some g =>
        if !ldStZero g then s
        else
          match tget s.blocks g.blk with
          | none => s
          | some b =>
            match tget s.ctxs (b.part * 1024 + b.ctx) with
            | none => s
            | some cx =>
              let rq : Req := { part := b.part, ctx := b.ctx, user := false }
              match devRead s rq (frameAddr cx g lv) 256 with
              | .failed _ => groupFatal s gid here
              | .s2 d ia => if s2Refused s b.part d ia then groupFatal s gid here else signalS2 s b.part d ia
              | .wait => s
              | .done w =>
                let depth := (w.getD 0 0).toNat / 2 ^ 16 % 256
                let tslot := if lv = 1 then g.tslot1 else g.tslot2
                let plev : BitVec 2 := if lv = 1 then 0 else g.plev2
                let g' := { g with
                  a := resumeSlot g lv 0 (w.drop 8), b := resumeSlot g lv 1 (w.drop 12),
                  s := (List.range 4).foldl (fun m i => mset m i (w.getD (16 + i) 0)) g.s,
                  p := readPreds (w.drop 20),
                  v := (List.range 4).foldl (fun v r => readVreg v r (w.drop (32 + 16 * r))) g.v,
                  stack := readStack (w.drop 128) (min depth 65),
                  susp := g.susp.filter (fun x => decide (x.1 ≠ lv)),
                  hlev := plev }
                if !(decide (depth ≤ 64) && restoreValid g') then groupFatal s gid here
                else
                  let t := slotOf g' tslot
                  let g' := if skip && t.live then setSlot g' tslot { t with pc := t.pc + 4, lc := 0, wait := .none } else g'
                  setGroup s gid (refill g')

/-! ## Completing instructions -/

/-- Sets the wait of a slot. -/
def beginWait (sl : Slot) (w : Wait) : Slot := { sl with wait := w }

/-- NBWIN.PEND (R345). -/
def nbPend (g : Group) : Bool := g.nbwin.getLsbD 12

/-- The limits of WAIT (R42): whether every counter is at or below its limit. -/
def waitMet (g : Group) (limits : BitVec 23) : Bool :=
  let ok (c : OCls) (k : Nat) : Bool :=
    let l := limits.toNat / 2 ^ k % 16
    decide (l = 15) || decide (cntOf g c ≤ l)
  ok .ld 0 && ok .st 4 && ok .cp 8 && ok .op 12 && ok .nb 16

/-- Whether a WAIT tests the class of the refusal record (R173). -/
def waitTests (limits : BitVec 23) (cls : Nat) : Bool := decide (limits.toNat / 2 ^ (4 * cls) % 16 ≠ 15)

/-- How WAIT and FENCE complete (R173, R346): REMOTE when the record is full for a tested class, then
NBFAULT, else the slot goes on. -/
def completeWait (s : State) (gid side : Nat) (remote nbf : Bool) : State :=
  match tget s.groups gid with
  | none => s
  | some g =>
    let sl := slotOf g side
    match g.ref with
    | some r =>
      if remote then
        takeTrap s gid side
          { cause := 11, tmask := r.mask, hmask := sl.exec, taddr := r.addr, info := BitVec.ofNat 64 r.cls, emu := none }
      else if nbPend g && nbf then
        takeTrap s gid side
          { cause := 12, tmask := BitVec.ofNat 32 (g.nbwin.toNat / 2 ^ 32), hmask := sl.exec, taddr := 0, info := g.nbwin, emu := none }
      else setGroup s gid (setSlot g side (advance sl))
    | none =>
      if nbPend g && nbf then
        takeTrap s gid side
          { cause := 12, tmask := BitVec.ofNat 32 (g.nbwin.toNat / 2 ^ 32), hmask := sl.exec, taddr := 0, info := g.nbwin, emu := none }
      else setGroup s gid (setSlot g side (advance sl))

end Sys2Proof.Machine
end

