-- ==== Sys2Proof/Machine/Operands.lean ====
section
/-! DEFINITION. The issue of a Harran word: the decode checks in the order of R47, EMU (R48), SCALARDIV
(R94, R152), the wait for outstanding loads (R172), the operand forms of R28, R29 and R36, and the common
end of an instruction. -/

namespace Sys2Proof.Machine

abbrev StepOut := Host.Outcome State Fault Refusal

/-- The format of an opcode (R45); a reserved opcode is decoded as format V (R48). -/
def fmtOfOp (op : Nat) : Fmt :=
  match op with
  | 9 | 17 | 24 | 26 | 67 | 91 | 92 | 163 => .I
  | 267 | 401 | 448 | 449 | 450 | 451 | 452 | 453 => .I
  | 454 | 455 | 459 | 460 | 461 | 462 | 463 => .I
  | 2 | 3 | 4 | 5 | 13 | 14 | 15 | 16 => .K
  | 23 | 65 | 402 | 403 | 404 => .K
  | 0 | 1 | 6 | 7 | 8 | 10 | 11 | 12 => .J
  | 18 | 19 | 20 | 21 | 22 | 25 | 336 | 337 => .J
  | 256 | 257 | 260 | 261 | 262 | 263 | 265 | 266 => .S
  | 320 | 321 | 322 | 323 | 324 | 325 | 326 | 327 => .M
  | 328 | 329 | 330 | 331 | 332 | 333 | 338 | 339 => .M
  | 340 | 341 | 342 | 384 | 385 | 386 | 387 | 388 => .M
  | 389 | 390 | 391 | 392 | 393 | 394 | 395 | 396 => .M
  | 397 | 398 | 399 | 400 => .M
  | _ => .V

/-- The list positions of the capabilities an opcode belongs to (R46). -/
def capsOfOp (op : Nat) : List Nat :=
  match op with
  | 23 => [capVariants]
  | 24 => [capChild]
  | 25 => [capChild]
  | 218 => [capA96]
  | 219 => [capA96]
  | 220 => [capA96]
  | 265 => [capA96]
  | 266 => [capA96]
  | 332 => [capOperators]
  | 341 => [capSealed]
  | 342 => [capSealed]
  | 343 => [capSealed]
  | 344 => [capSealed]
  | 394 => [capA96Atomics]
  | 400 => [capA96Atomics]
  | 448 => [capOperators]
  | 449 => [capOperators]
  | 450 => [capOperators]
  | 451 => [capOperators]
  | 452 => [capOperators]
  | 453 => [capOperators]
  | 454 => [capOperators, capTruss]
  | 455 => [capNbAssoc]
  | 456 => [capNbAssoc]
  | 457 => [capNbCopy]
  | 458 => [capNbCopy]
  | 459 => [capNbAssoc]
  | _ => []

/-- The supervisor-only opcodes (R46). -/
def supOp (op : Nat) : Bool :=
  match op with
  | 22 | 341 | 342 | 343 | 344 | 455 | 460 | 461 | 462 | 463 => true
  | _ => false

/-- The decoded fields d, a, b and the immediate of a word, as EMU records them (R48). -/
def emuFields (fmt : Fmt) (w : Word) : List DWord :=
  let n (lo k : Nat) : DWord := BitVec.ofNat 64 (w.toNat / 2 ^ lo % 2 ^ k)
  match fmt with
  | .V => [n 14 7, n 7 7, n 0 7, n 21 2]
  | .I => [n 16 7, n 9 7, 0, n 0 9]
  | .K => [n 16 7, 0, 0, n 0 16]
  | .J => [0, 0, 0, n 0 23]
  | .S => [n 7 7, n 0 7, n 20 3, n 14 6]
  | .M => [n 12 7, n 7 5, n 0 7, n 19 4]

/-- The EMU trap of a word with a reason (R48): the faulters' mask is EXEC; a pending literal is recorded
in EMUIMM with LP. A reserved opcode or disabled feature (reason 0) is decoded as format V. -/
def emuTrap (sl : Slot) (w : Word) (reason : Nat) : TrapI :=
  let op := w.toNat / 2 ^ 23
  let fmt : Fmt := if reason = 0 then .V else fmtOfOp op
  let fmtCode : Nat := match fmt with
    | .V => 0
    | .I => 1
    | .K => 2
    | .J => 3
    | .S => 4
    | .M => 5
  let lp := sl.lc ≠ 0
  let f := emuFields fmt w
  { cause := 1, tmask := sl.exec, hmask := sl.exec, taddr := 0, info := BitVec.ofNat 64 w.toNat,
    emu := some [BitVec.ofNat 64 w.toNat,
      BitVec.ofNat 64 ((if lp then 2 ^ 15 else 0) + fmtCode * 2 ^ 12 + reason * 2 ^ 9 + op),
      f.getD 0 0, f.getD 1 0, f.getD 2 0, if lp then sl.lat else f.getD 3 0] }

/-- How many registers an operand takes: one, those of the type in force (R29), twice as many (R286), the quad of a cell
where the entry accepts the type (R29), or a fixed number. -/
inductive Span where
  | one
  | typed
  | twice
  | cell
  | fixed (n : Nat)
deriving DecidableEq, Repr

/-- A register operand of an instruction. -/
structure Operand where
  role : Role
  num : Nat
  span : Span
deriving DecidableEq, Repr

def opV (n : Nat) : Operand := { role := .vector, num := n, span := .typed }
def opV1 (n : Nat) : Operand := { role := .vector, num := n, span := .one }
def opCell (n : Nat) : Operand := { role := .vector, num := n, span := .cell }
def opVn (n k : Nat) : Operand := { role := .vector, num := n, span := .fixed k }
def opS (n : Nat) : Operand := { role := .scalar, num := n, span := .one }
def opP (n : Nat) : Operand := { role := .predicate, num := n, span := .one }

/-- What a pending literal does to an instruction (R36): it replaces an operand whose field must be zero
(and is refused when that operand is an a96 quad), it is consumed without effect, or it is a reserved
operand. -/
inductive LitUse where
  | replaces (fieldZero : Bool)
  | ignored
  | refused
deriving DecidableEq, Repr

/-- Whether an instruction takes a pending literal (R36). -/
def LitUse.takes (l : LitUse) : Bool :=
  match l with
  | .refused => false
  | .ignored => true
  | .replaces z => z

/-- What an instruction acts on when it issues: the state, the issuing group and slot, the word, the
element type in force, and the pending literal. -/
structure Issue where
  s : State
  gid : Nat
  side : Nat
  g : Group
  sl : Slot
  word : Word
  et : ET
  lit : Option DWord

/-- What an instruction's entry asks of the decode checks (R47): its operands, the accepted element types
(none when the entry reads no type), its use of a literal, whether it needs convergence, and the entry's own
reserved bits (step 3), privilege (step 2), reserved operands (step 4) and runs (step 6). `touch` adds
vector registers that the entry names in its effect. -/
structure Form where
  ops : List Operand
  ets : Option (List ET)
  lit : LitUse
  conv : Bool
  priv : Issue → Bool
  rsv : Issue → Bool
  bad : Issue → Bool
  runs : Issue → Bool
  touch : Issue → List Nat

/-- Whether the entry accepts an element type (R47 step 5). -/
def Form.accepts (fm : Form) (et : ET) : Bool :=
  match fm.ets with
  | none => true
  | some l => l.contains et

/-- The plain form. -/
def Form.mk0 (ops : List Operand) (ets : Option (List ET)) (lit : LitUse) (conv : Bool) : Form :=
  { ops := ops, ets := ets, lit := lit, conv := conv, priv := fun _ => false, rsv := fun _ => false,
    bad := fun _ => false, runs := fun _ => false, touch := fun _ => [] }

/-- The registers an operand takes when the type is accepted (R29). -/
def spanRegs (et : ET) (accepted : Bool) (sp : Span) : Nat :=
  match sp with
  | .one => 1
  | .typed => if accepted then etRegs et else 1
  | .twice => if accepted then 2 * etRegs et else 1
  | .cell => if accepted then 4 else 1
  | .fixed n => n

/-- Whether a register number is valid for its role, aligned and held (R28, R29). -/
def operandOk (g : Group) (et : ET) (accepted : Bool) (o : Operand) : Bool :=
  match o.role with
  | .scalar => decide (o.num ≤ 24)
  | .predicate => decide (o.num ≤ 7)
  | .vector =>
    let n := spanRegs et accepted o.span
    decide (o.num % n = 0) && decide (o.num + n ≤ 32 + 32 * g.held)

/-- The registers an instruction touches: vector registers, and scalar registers from 200 up (R172). -/
def touched (is : Issue) (fm : Form) : List Nat :=
  fm.touch is ++ fm.ops.flatMap (fun o =>
    match o.role with
    | .vector => (List.range (spanRegs is.et true o.span)).map (· + o.num)
    | .scalar => [200 + o.num]
    | .predicate => [])

/-- Whether an outstanding load of the group still owes a register in a list. -/
def owes (g : Group) (regs : List Nat) : Bool :=
  g.out.any (fun o => decide (o.cls = .ld) && o.regs.any (fun r => regs.contains r))

/-- How the effect of an instruction ends: it completed in a state (the slot then goes on, R36); it
completed and set the slots itself; it waits in a state that it left; it traps; it issues again from a
state; it stalls until `n` more operations fit a counter (R142, R172); or it is a fatal error of the group. -/
inductive Eff where
  | done (s : State)
  | leave (s : State)
  | trap (t : TrapI)
  | again (s : State)
  | stall (c : OCls) (n : Nat)
  | fatal

/-- What the decode checks say (R47). -/
inductive Check where
  | pass
  | emu (reason : Nat)
  | priv

/-- The decode checks in the order of R47. -/
def decodeCheck (fm : Form) (is : Issue) : Check :=
  let op := is.word.toNat / 2 ^ 23
  let p := (reqOf is.s is.g).part
  let accepted := fm.accepts is.et
  if !(capsOfOp op).all (capOn is.s p) then .emu 0
  else if userLevel is.g && (supOp op || fm.priv is) then .priv
  else if fm.rsv is then .emu 2
  else if !(fm.ops.all (operandOk is.g is.et accepted)) then .emu 1
  else if fm.bad is then .emu 1
  else if is.lit.isSome && !fm.lit.takes then .emu 1
  else if !accepted then .emu 3
  else if fm.runs is then .emu 1
  else .pass

/-- The issue context of a live slot of a resident group. -/
def issueOf (s : State) (gid side : Nat) (g : Group) (w : Word) : Issue :=
  let sl := slotOf g side
  { s := s, gid := gid, side := side, g := g, sl := sl, word := w,
    et := (etOfCode (mrET sl.mr)).getD .i32, lit := if sl.lc = 0 then none else some sl.lat }

/-- Whether the device holds back the groups of a block: it is being swapped out or moved, or its
context is being saved (R365, R376, R405). -/
def heldBack (s : State) (g : Group) : Bool :=
  match tget s.blocks g.blk with
  | none => true
  | some b => b.stop || (!b.service && (match tget s.ctxs (b.part * 1024 + b.ctx) with
    | some c => c.stopped
    | none => true))

/-- Whether a slot of a group may issue (R142, R146): none does while the group enters a trap (R253). -/
def mayIssue (s : State) (g : Group) (sl : Slot) : Bool :=
  decide (g.st = .resident) && slotReady g sl && !(entering g.a) && !(entering g.b) && !(heldBack s g)

/-- Whether a slot goes on with the trap it is entering (R253). -/
def mayEnter (s : State) (g : Group) (sl : Slot) : Bool := decide (g.st = .resident) && entering sl && !(heldBack s g)

/-- The common end of an instruction. -/
def finish (is : Issue) (e : Eff) : State :=
  match e with
  | .done s =>
    { s with groups := tmod s.groups is.gid (fun g => setSlot g is.side (advance (slotOf g is.side))) }
  | .leave s => s
  | .trap t => takeTrap is.s is.gid is.side t
  | .again s => s
  | .stall c n => { is.s with groups := tmod is.s.groups is.gid (fun g => setSlot g is.side { slotOf g is.side with wait := .room c n }) }
  | .fatal => groupFatal is.s is.gid is.sl.pc

/-- Issues a word in the slot that the running step belongs to: the decode checks (R47), SCALARDIV (R94),
the wait for outstanding loads of the registers it touches (R172), then the instruction's own effect. -/
def issueWord (w : Word) (fm : Form) (eff : Issue → Eff) (s : State) : StepOut :=
  match s.issuer with
  | .slot gid side =>
    match tget s.groups gid with
    | none => .fault .noIssuer
    | some g =>
      if mayIssue s g (slotOf g side) then
        let is := issueOf s gid side g w
        match decodeCheck fm is with
        | .emu r => .next (takeTrap s gid side (emuTrap is.sl w r))
        | .priv => .next (takeTrap s gid side (.plain 19 is.sl.exec 0))
        | .pass =>
          if fm.conv && !converged g then .next (takeTrap s gid side (.plain 2 is.sl.exec 0))
          else
            let regs := touched is fm
            if owes g regs then
              let g' := returnLoads g
              let s' := setGroup s gid g'
              if owes g' regs then .next s'
              else
                let is := issueOf s' gid side g' w
                .next (finish is (eff is))
            else .next (finish is (eff is))
      else .fault .noIssuer
  | .none => .fault .noIssuer
  | .hart _ => .fault .noIssuer
  | .nb _ => .fault .noIssuer
  | .device => .fault .noIssuer

/-! ## Operand values -/

/-- The active lanes of the issuing slot (R33). -/
def Issue.act (is : Issue) : Word := activeMask is.g is.sl

/-- Operand b in the scalar role: the literal or the register (R36). -/
def Issue.sb (is : Issue) (b : Nat) : DWord := is.lit.getD (sreg is.g b)

/-- Operand b of one lane in the vector role, over `n` registers: the literal's low bits, or the registers
(R36). -/
def Issue.vb (is : Issue) (b n l : Nat) : Nat :=
  match is.lit with
  | some x => x.toNat % 2 ^ (32 * n)
  | none => vregs is.g b l n

/-- The registers of one operand under the type in force. -/
def Issue.n (is : Issue) : Nat := etRegs is.et

/-- Rounding mode, saturation and EXEC of the issuing slot. -/
def Issue.rm (is : Issue) : RMode := mrRM is.sl.mr
def Issue.sat (is : Issue) : Bool := mrSAT is.sl.mr

/-- The effect that only changes the issuing group. -/
def Issue.put (is : Issue) (g : Group) : Eff := .done (setGroup is.s is.gid g)

/-- Writes the active lanes of `n` registers from `d`. -/
def Issue.putLanes (is : Issue) (d n : Nat) (f : Nat → Nat) : Eff := is.put (setLanes is.g is.act d n f)

/-- Writes a scalar register. -/
def Issue.putS (is : Issue) (d : Nat) (x : DWord) : Eff := is.put (setSreg is.g d x)

/-- The block of the issuing group. -/
def Issue.blk (is : Issue) : Option Block := tget is.s.blocks is.g.blk

/-- Word `w` of the block's copy of format slot `k` (R80). -/
def Issue.slotWord (is : Issue) (k w : Nat) : DWord :=
  match is.blk with
  | some b => b.slots.getD (8 * k + w) 0
  | none => 0

/-- The value of an immediate, or the literal in its place (R36). -/
def Issue.imm (is : Issue) {n : Nat} (i : BitVec n) : DWord := is.lit.getD (i.signExtend 64)

end Sys2Proof.Machine
end

