-- ==== Sys2Proof/Machine/Place.lean ====
section
/-! DEFINITION. Where blocks can be placed (R127, R128, R268, R362, R366), slot images (R378 to R381),
and leaving and returning to cores (R365, R366). -/

namespace Sys2Proof.Machine

/-! ## What is in use -/

/-- Whether a group occupies its group slot (R143, R150). -/
def holdsSlot (g : Group) : Bool :=
  match g.st with
  | .resident => true
  | .exiting => true
  | .parked => decide (g.reason = 1)
  | .exited => false

/-- Whether the device has begun to empty removed virtual cores (R399, R402). -/
def removedV (pt : Part) (v : Nat) : Bool :=
  decide (pt.st = .resizing) && decide (3 ≤ pt.phase) && (mget pt.cmap v).getLsbD 15 && !((mget pt.tmap v).getLsbD 15)

/-- The cores a partition may place on: physical core and virtual core (R394, R402). -/
def placeCores (s : State) (p : Nat) : Tbl Nat :=
  match tget s.parts p with
  | none => []
  | some pt =>
    (List.range 512).foldl (fun t v =>
      if removedV pt v then t
      else match physCore s p v with
        | some c => tset t c v
        | none => t) []

/-- The supplies of R268: group slots for placement, extended register blocks (R149), scratchpad bytes. -/
def slotSupply : Nat := 95
def extSupply : Nat := 32
def spadSupply : Nat := 0x200000

/-- The group slots and extended blocks in use on a core, but for the groups of block `ex`. -/
def slotsUsed (s : State) (c : Nat) (ex : Option Nat) : Nat :=
  (s.groups.filter (fun g => decide (g.2.core = c) && holdsSlot g.2 && decide (some g.2.blk ≠ ex))).length
def extUsed (s : State) (c : Nat) (ex : Option Nat) : Nat :=
  s.groups.foldl (fun a g =>
    if g.2.core = c && (g.2.st = .resident || g.2.st = .exiting) && some g.2.blk ≠ ex then a + g.2.held else a) 0

/-- The physical core of workgroup `i` of a block, 512 for none. -/
def wgCore (s : State) (b : Block) (i : Nat) : Nat := (physCore s b.part (b.vcores.getD i 512)).getD 512

/-- Whether a block holds its scratchpad allocations. -/
def holdsSpad (b : Block) : Bool := !b.swapped || b.claimed

/-- The scratchpad intervals in use on a core. -/
def spadUsed (s : State) (c : Nat) (ex : Option Nat) : List (Nat × Nat) :=
  s.blocks.flatMap (fun b =>
    if holdsSpad b.2 && decide (some b.1 ≠ ex) && decide ((variantOf b.2).spad ≠ 0) then
      (List.range b.2.vcores.length).filterMap (fun i =>
        if wgCore s b.2 i = c then some (b.2.spadOff.getD i 0, (variantOf b.2).spad) else none)
    else [])

/-- Whether an interval is free of those in use. -/
def intervalFree (used : List (Nat × Nat)) (off n : Nat) : Bool :=
  decide (off + n ≤ spadSupply) && used.all (fun u => decide (off + n ≤ u.1) || decide (u.1 + u.2 ≤ off))

/-- First fit at 4 KiB alignment (R128). -/
def firstFit (used : List (Nat × Nat)) (n : Nat) : Option Nat :=
  if n = 0 then some 0 else ((List.range 512).map (· * 4096)).find? (fun o => intervalFree used o n)

/-- The resources a launch declares (R127). -/
structure Decl where
  ophnd : Nat
  rlocks : Nat
  itemq : Nat
  barriers : Nat
  monitors : Nat
deriving DecidableEq, Repr

def declOf (d : KDesc) (lrec : List DWord) : Decl :=
  let w := (lrec.getD 8 0).toNat
  { ophnd := max d.ophnd (w / 2 ^ 24 % 256), rlocks := max d.rlocks (w % 2 ^ 16),
    itemq := max d.itemq (w / 2 ^ 32 % 2 ^ 16), barriers := max d.barriers (w / 2 ^ 16 % 256),
    monitors := max d.monitors (w / 2 ^ 48) }

/-- The blocks that hold their reservations (R269, R376), but for `ex`. -/
def reservers (s : State) (ex : Option Nat) : List Block :=
  (s.blocks.filter (fun b => !b.2.released && decide (some b.1 ≠ ex))).map Prod.snd

/-- The workgroups of a block on a core. -/
def wgsOn (s : State) (b : Block) (c : Nat) : Nat :=
  ((List.range b.vcores.length).filter (fun i => decide (wgCore s b i = c))).length

/-- Reservations in use: operator handles and item-queue entries of a core, barriers of a core, range
locks of a die, monitors of a die (R268). -/
def ophndUsed (s : State) (c : Nat) (ex : Option Nat) : Nat :=
  (reservers s ex).foldl (fun a b => a + b.ophnd * wgsOn s b c) 0
def itemqUsed (s : State) (c : Nat) (ex : Option Nat) : Nat :=
  (reservers s ex).foldl (fun a b => a + b.itemq * wgsOn s b c) 0
def barsUsed (s : State) (c : Nat) (ex : Option Nat) : Nat :=
  (reservers s ex).foldl (fun a b => if wgCore s b 0 = c then a + b.bars.length else a) 0
def rlocksUsed (s : State) (d : Nat) (ex : Option Nat) : Nat :=
  (reservers s ex).foldl (fun a b =>
    a + b.rlocks * ((List.range b.vcores.length).filter (fun i => decide (wgCore s b i / 128 = d))).length) 0

/-- The dies whose monitor tables a block of a partition reserves in: those on which the partition holds cores, a leaving core until
DETACH, and NDIE (R268, R391). -/
def monDies (s : State) (p : Nat) : List Nat :=
  (List.range 4).filter (fun d =>
    (List.range 512).any (fun v => match physCore s p v with
      | some c => decide (c / 128 = d)
      | none => false)
      || (match tget s.parts p with
          | some pt => decide (pt.ndie = d)
          | none => false))
def monsUsed (s : State) (d : Nat) (ex : Option Nat) : Nat :=
  (reservers s ex).foldl (fun a b => if b.mdies.contains d then a + b.monitors else a) 0

/-! ## Fitting (R128) -/

/-- A request for a place: the variant, the resources, the block whose own resources count as free, and
the cores that are held back. -/
structure Want where
  part : Nat
  var : Variant
  decl : Decl
  ex : Option Nat
  held : List Nat
deriving DecidableEq, Repr

/-- Whether one core takes one workgroup, `first` for workgroup 0. -/
def coreFits (s : State) (w : Want) (c : Nat) (first : Bool) : Bool :=
  !(w.held.contains c)
    && decide (slotsUsed s c w.ex + w.var.groups ≤ slotSupply)
    && decide (extUsed s c w.ex + w.var.xblk ≤ extSupply)
    && (firstFit (spadUsed s c w.ex) w.var.spad).isSome
    && decide (ophndUsed s c w.ex + w.decl.ophnd ≤ 64)
    && decide (itemqUsed s c w.ex + w.decl.itemq ≤ 4096)
    && (!first || decide (barsUsed s c w.ex + w.decl.barriers ≤ 64))

/-- Whether a run takes the block. -/
def runFits (s : State) (w : Want) (run : List Nat) : Bool :=
  (run.zip (List.range run.length)).all (fun x => coreFits s w x.1 (x.2 = 0))
    && decide (rlocksUsed s (run.headD 0 / 128) w.ex + w.decl.rlocks * run.length ≤ 256)
    && (monDies s w.part).all (fun d => decide (monsUsed s d w.ex + w.decl.monitors ≤ 8192))

/-- The runs of `n` adjacent cores among those given, lowest die and first core first (R15, R362). -/
def runsOf (cores : Tbl Nat) (n : Nat) : List (List Nat) :=
  (cores.map Prod.fst).filterMap (fun c =>
    let run := (List.range n).map (· + c)
    if decide (c / 128 = (c + n - 1) / 128) && run.all (fun x => (tget cores x).isSome) then some run else none)

/-- The run R362 picks for a variant. -/
def chooseRun (s : State) (w : Want) : Option (List Nat) :=
  (runsOf (placeCores s w.part) w.var.wgs).find? (runFits s w)

/-- The variants a launch permits (R123). -/
def permitted (nvar : Nat) (lrec : List DWord) : List Nat :=
  let m := (lrec.getD 2 0).toNat / 16 % 16
  (List.range nvar).filter (fun v => decide (m = 0) || m.testBit v)

/-- The permitted variants, highest RANK first (R128). -/
def byRank (d : KDesc) (lrec : List DWord) : List Nat :=
  [3, 2, 1, 0].flatMap (fun r =>
    (permitted d.variants.length lrec).filter (fun v => decide ((d.variants.getD v noVariant).rank = r)))

/-- The variant of highest RANK that fits, with its run (R128, R362). -/
def chooseVariant (s : State) (p : Nat) (d : KDesc) (lrec : List DWord) (ex : Option Nat) (held : List Nat)
    (cands : List Nat) : Option (Nat × List Nat) :=
  (cands.map (fun v =>
    (chooseRun s { part := p, var := d.variants.getD v noVariant, decl := declOf d lrec, ex := ex, held := held }).map
      (fun r => (v, r)))).findSome? id

/-- The cores of the blocks of contexts that are being restored, while they are claimed or their slots are taken
(R386). -/
def claimCores (s : State) (p : Nat) : List Nat :=
  s.blocks.flatMap (fun b =>
    if b.2.part = p then
      match tget s.ctxs (p * 1024 + b.2.ctx) with
      | some cx => if cx.st = .restoring && (cx.ph = 1 || cx.ph = 3) then (List.range b.2.vcores.length).map (wgCore s b.2) else []
      | none => []
    else [])

/-- The cores held back from a candidate of PRIO `prio` by a reservation that is not its own (R364), or by a restore
(R386). -/
def heldCores (s : State) (p prio : Nat) (mine : Option Src) : List Nat :=
  claimCores s p ++
  (match tget s.disps p with
  | none => []
  | some d =>
    match d.reserving with
    | none => []
    | some r => if prio ≤ r.prio && mine ≠ some r.src then r.cores else [])

/-- The lowest group slot that is free on a core (R268: one is the service group's). -/
def freeSlot (s : State) (c : Nat) : Nat :=
  ((List.range slotSupply).find? (fun k =>
    !(s.groups.any (fun g => decide (g.2.core = c) && holdsSlot g.2 && decide (g.2.gslot = k))))).getD 0

/-- s1 of a workgroup: its allocation in node-509 form (R129). -/
def spadAddr (v off : Nat) : DWord := va509 (v / 128) (DA + v % 128 * 0x400000 + off)

/-- Zeroes an allocation with its tags (R129). -/
def zeroSpad (s : State) (c off n : Nat) : State :=
  { s with
    spad := mclear s.spad (skey c off) (skey c (off + n))
    spoison := mclear s.spoison (skey c off / 8) (skey c (off + n) / 8)
    swz := mclear s.swz (c * 2 ^ 15 + off / 64) (c * 2 ^ 15 + (off + n) / 64) }

/-- The allocations and virtual cores of a block placed on a run. -/
def runPlaces (s : State) (p : Nat) (var : Variant) (ex : Option Nat) (run : List Nat) : List (Nat × Nat × Nat) :=
  run.map (fun c => (c, (virtCore s p c).getD 512, (firstFit (spadUsed s c ex) var.spad).getD 0))

/-! ## Slot images (R378 to R381) -/

/-- Words padded with zeros to a multiple of 128 bytes. -/
def pad128 (w : List DWord) : List DWord := w ++ zeros ((16 - w.length % 16) % 16)

/-- `n` words packed from bytes. -/
def packBytes (b : Nat → Nat) (n : Nat) : List DWord :=
  (List.range n).map (fun i => BitVec.ofNat 64 (packElems 8 (fun k => b (8 * i + k)) 8))

/-- A barrier record (R381). -/
def barWords (x : Bar) : List DWord :=
  [BitVec.ofNat 64 (x.phase.toNat * 2 ^ 32 + (match x.expect with
      | some e => 2 ^ 16 + e
      | none => 0)),
   if x.gathering then 1 else 0, 0, 0, 0, 0, 0, 0]
  ++ (List.range 8).map (fun i => BitVec.ofNat 64 (((List.range 64).filter (fun k => x.arrived.contains (64 * i + k))).foldl (fun a k => a + 2 ^ k) 0))

def readBar (w : List DWord) : Bar :=
  let x := (w.getD 0 0).toNat
  let arrived := (List.range 512).filter (fun g => (w.getD (8 + g / 64) 0).getLsbD (g % 64))
  { phase := BitVec.ofNat 32 (x / 2 ^ 32), arrived := arrived,
    expect := if x.testBit 16 then some (x % 2 ^ 16) else none, gathering := (w.getD 1 0).getLsbD 0 }

/-- An item-queue region (R381). -/
def itemWords (itemq : Nat) (q : List (Word × Word)) : List DWord :=
  if itemq = 0 then []
  else
    let w := [BitVec.ofNat 64 q.length] ++ q.map (fun e => two e.1 e.2)
    w ++ zeros (itemq + 1 - w.length)

/-- The words of one workgroup's tags and of its allocation. -/
def tagWords (s : State) (c off n : Nat) : List DWord :=
  packBytes (fun j => if j < n / 64 then (mget s.swz (c * 2 ^ 15 + off / 64 + j)).toNat else 0) ((n / 64 + 7) / 8)
def spadWords (s : State) (c off n : Nat) : List DWord :=
  packBytes (fun j => (mget s.spad (skey c (off + j))).toNat) (n / 8)

/-- The words of a slot image without its header; `ops` are operator records, each padded. -/
def imageBody (s : State) (b : Block) (ops : List DWord) : List DWord :=
  let v := variantOf b
  let wgs := List.range b.vcores.length
  b.bars.flatMap barWords
    ++ wgs.flatMap (fun i => pad128 (itemWords b.itemq (b.items.getD i [])))
    ++ wgs.flatMap (fun i => pad128 (tagWords s (wgCore s b i) (b.spadOff.getD i 0) v.spad))
    ++ wgs.flatMap (fun i => pad128 (spadWords s (wgCore s b i) (b.spadOff.getD i 0) v.spad))
    ++ ops

/-- A slot image (R379, R380). -/
def imageWords (s : State) (b : Block) (nops : Nat) (ops : List DWord) : List DWord :=
  let body := imageBody s b ops
  let v := variantOf b
  let gridid : Nat := match tget s.grids b.grid with
    | some g => g.gridid.toNat
    | none => 0
  [BitVec.ofNat 64 (128 + 8 * body.length), BitVec.ofNat 64 (gridid * 2 ^ 32 + b.lin),
   BitVec.ofNat 64 (v.wgs * 2 ^ 48 + v.groups * 2 ^ 40 + b.variant * 2 ^ 32 + v.spad),
   BitVec.ofNat 64 (b.itemq * 2 ^ 48 + b.bars.length * 2 ^ 40 + nops * 2 ^ 32)] ++ zeros 12 ++ body

/-- The index of a block's swap slot: the park index of its group with G = 0 (R378). -/
def swapIndex (s : State) (bid : Nat) : Nat :=
  match (groupsOf s bid).find? (fun g => decide (g.2.idx = 0)) with
  | some g => g.2.pidx
  | none => 0

/-- The address of a block's swap slot (R378). -/
def swapAddr (s : State) (cx : Ctx) (bid : Nat) : DWord := cx.swapbase + BitVec.ofNat 64 (swapIndex s bid * cx.swapstride)

/-- The context of a block. -/
def ctxOf (s : State) (b : Block) : Option Ctx := tget s.ctxs (b.part * 1024 + b.ctx)

/-- Whether the context supplies a swap slot for an image of `n` bytes with every page mapped writable
(R378). -/
def swapSlotOk (s : State) (bid : Nat) (b : Block) (n : Nat) : Bool :=
  match ctxOf s b with
  | none => false
  | some cx =>
    let rq : Req := { part := b.part, ctx := b.ctx, user := false }
    let a := swapAddr s cx bid
    decide (swapIndex s bid < cx.nswap) && decide (n ≤ cx.swapstride)
      && (List.range ((n + 4095) / 4096)).all (fun i =>
        match devTargets s rq .store (a + BitVec.ofNat 64 (4096 * i)) 1 with
        | .done _ => true
        | _ => false)

/-- A fatal error of every group of a block (R365, R378). -/
def blockFatal (s : State) (bid : Nat) : State :=
  match (groupsOf s bid).find? (fun g => decide (g.2.st ≠ .exited)) with
  | some g => groupFatal s g.1 (if g.2.a.live then g.2.a.pc else g.2.b.pc)
  | none => s

/-! ## Swapping out (R365) -/

/-- Whether a wait is one that R141 lists. -/
def waitsForEvent (w : Wait) : Bool :=
  match w with
  | .cwait => true
  | .claunch _ _ => true
  | .watchMon _ _ => true
  | .barArrive _ _ _ _ => true
  | .barWait _ _ => true
  | _ => false

/-- Whether a group waits as R141 asks. -/
def groupWaitsForEvent (g : Group) : Bool :=
  decide (g.st = .resident) && (g.a.live || g.b.live)
    && (!g.a.live || waitsForEvent g.a.wait) && (!g.b.live || waitsForEvent g.b.wait)

/-- Whether a block holds an operator that is not FREE. -/
def holdsOp (s : State) (bid : Nat) : Bool := s.ops.any (fun o => decide (o.2.blk = bid))

/-- The conditions of R365 on a block that is on its cores. -/
def mayLeave (s : State) (bid : Nat) (b : Block) : Bool :=
  !b.resident && !b.swapped && !(holdsOp s bid)
    && swapSlotOk s bid b (128 + 8 * (imageBody s b []).length)

/-- Whether every group of a block waits as R141 lists. -/
def blockWaits (s : State) (bid : Nat) : Bool :=
  ((groupsOf s bid).filter (fun g => decide (g.2.st ≠ .exited))).all (fun g => groupWaitsForEvent g.2)

/-- Whether every operation of a block's groups has ended (R365 step 2). -/
def blockQuiet (s : State) (bid : Nat) : Bool :=
  (groupsOf s bid).all (fun g => g.2.out.isEmpty && decide (g.2.posted = 0))

/-- Parks a group with REASON 3; a group that is parked already keeps what its park area says, and an
allocator parking becomes a swap-out (R365, R377). -/
def parkForSwap (s : State) (gid : Nat) : State :=
  match tget s.groups gid with
  | none => s
  | some g =>
    match g.st with
    | .resident => parkGroup s gid 3 0
    | .parked =>
      if g.reason = 1 ∨ g.reason = 4 then
        match tget s.blocks g.blk with
        | none => s
        | some b =>
          match ctxOf s b with
          | none => s
          | some cx =>
            let s := setGroup s gid { g with reason := 3 }
            let rq : Req := { part := b.part, ctx := b.ctx, user := false }
            match devRead s rq (parkAddr cx g) 1 with
            | .done w =>
              match devWrite s rq (parkAddr cx g) [BitVec.ofNat 64 ((w.getD 0 0).toNat / 256 * 256 + 3)] with
              | .done s => s
              | _ => s
            | _ => s
      else s
    | .exiting => s
    | .exited => s

/-- Performs what a block's groups still have to load and store. -/
def drainBlock (s : State) (bid : Nat) : State := (groupsOf s bid).foldl (fun s g => drainLdSt s g.1) s

/-- Whether no group of a block is leaving through EXIT. -/
def noneExiting (s : State) (bid : Nat) : Bool := (groupsOf s bid).all (fun g => decide (g.2.st ≠ .exiting))

/-- Whether every one of several accesses of the device can be made now. -/
def allReady (l : List (DevRes Unit)) : DevRes Unit := l.foldl (fun acc x => acc.andThen (fun _ => x)) (.done ())

/-- Whether the groups of a block can be parked for a swap-out now: their park areas can be written, and the REASON of those parked
already (R365). -/
def parksReady (s : State) (bid : Nat) (b : Block) : DevRes Unit :=
  match ctxOf s b with
  | none => .failed 0
  | some cx =>
    let rq : Req := { part := b.part, ctx := b.ctx, user := false }
    allReady ((groupsOf s bid).map (fun g => match g.2.st with
      | .resident => parkReady s g.1
      | .parked => (devTargets s rq .store (parkAddr cx g.2) 1).andThen (fun _ => .done ())
      | _ => .done ()))

/-- What an access that must wait leaves: the second stage is asked for. -/
def waitFor {α : Type} (s : State) (p : Nat) (x : DevRes α) : State :=
  match x with
  | .s2 d ia => signalS2 s p d ia
  | _ => s

/-- Whether an access of the device must wait, and cannot be refused yet. -/
def DevRes.waits {α : Type} (s : State) (p : Nat) (x : DevRes α) : Bool :=
  match x with
  | .s2 d ia => !(s2Refused s p d ia)
  | .wait => true
  | _ => false

/-- Parks every group and writes the slot image (R365 steps 3 to 5, R376 steps 4 and 5). -/
def leaveCores (s : State) (bid : Nat) (nops : Nat) (ops : List DWord) : State :=
  let s := (groupsOf s bid).foldl (fun s g => parkForSwap s g.1) s
  match tget s.blocks bid with
  | none => s
  | some b =>
    match ctxOf s b with
    | none => s
    | some cx =>
      let rq : Req := { part := b.part, ctx := b.ctx, user := false }
      match devWrite s rq (swapAddr s cx bid) (imageWords s b nops ops) with
      | .done s => setBlock s bid { b with swapped := true, stop := false, passed := 0 }
      | _ => blockFatal s bid

/-- Swaps a block out when it is quiet; otherwise its groups stop issuing until it is (R365). `forced`
waives the waiting condition (R367, R403). -/
def swapOut (s : State) (bid : Nat) (forced : Bool) : State :=
  match tget s.blocks bid with
  | none => s
  | some b =>
    if !(mayLeave s bid b) then s
    else
      let s := drainBlock s bid
      if blockQuiet s bid && noneExiting s bid then
        if (parksReady s bid b).waits s b.part then waitFor s b.part (parksReady s bid b)
        else if forced || blockWaits s bid then
          let s := leaveCores s bid 0 []
          if forced then markBlock s bid else s
        else s
      else if forced then setBlock s bid { b with stop := true } else s

/-! ## Returning (R366) -/

/-- The words of the regions of a slot image, by workgroup: offset of the tags and of the scratchpad. -/
def imageOffsets (b : Block) (i : Nat) : Nat × Nat :=
  let v := variantOf b
  let wgs := b.vcores.length
  let up (n : Nat) : Nat := (n + 127) / 128 * 128
  let items := if b.itemq = 0 then 0 else up (8 * (b.itemq + 1))
  let t0 := 128 + b.bars.length * 128 + wgs * items
  (t0 + i * up (v.spad / 64), t0 + wgs * up (v.spad / 64) + i * up v.spad)

/-- Reads `n` bytes of words back into a scratchpad allocation and its tags (R366). -/
def restoreSpad (s : State) (bid : Nat) (b : Block) (cx : Ctx) (i : Nat) : DevRes State :=
  let v := variantOf b
  let rq : Req := { part := b.part, ctx := b.ctx, user := false }
  let a := swapAddr s cx bid
  let (t, o) := imageOffsets b i
  match devRead s rq (a + BitVec.ofNat 64 t) ((v.spad / 64 + 7) / 8), devRead s rq (a + BitVec.ofNat 64 o) (v.spad / 8) with
  | .done tw, .done sw =>
    let c := wgCore s b i
    let off := b.spadOff.getD i 0
    .done { s with
      swz := (List.range (v.spad / 64)).foldl (fun m j =>
        mset m (c * 2 ^ 15 + off / 64 + j) (BitVec.ofNat 3 ((tw.getD (j / 8) 0).toNat / 2 ^ (8 * (j % 8))))) s.swz,
      spad := (List.range (v.spad / 8)).foldl (fun m j => msetBytes m (skey c (off + 8 * j)) 8 (sw.getD j 0).toNat) s.spad }
  | .s2 d ia, _ => .s2 d ia
  | _, .s2 d ia => .s2 d ia
  | .wait, _ => .wait
  | _, .wait => .wait
  | _, _ => .failed a

/-- Restores the allocations of a block from its image. -/
def restoreSpads (s : State) (bid : Nat) (b : Block) (cx : Ctx) : DevRes State :=
  (List.range b.vcores.length).foldl (fun acc i => acc.andThen (fun s => restoreSpad s bid b cx i)) (.done s)

/-- Whether a group's park area can be read now. -/
def unparkReady (s : State) (b : Block) (g : Group) : DevRes Unit :=
  match ctxOf s b with
  | none => .failed 0
  | some cx =>
    let rq : Req := { part := b.part, ctx := b.ctx, user := false }
    (devTargets s rq .load (parkAddr cx g) 256).andThen (fun _ =>
      (devTargets s rq .load (parkAddr cx g + 0x800) (16 * (32 + 32 * g.held))).andThen (fun _ => .done ()))

/-- The same of every group that resumes with its block. -/
def unparksReady (s : State) (bid : Nat) (b : Block) : DevRes Unit :=
  allReady (((groupsOf s bid).filter (fun g => decide (g.2.st = .parked) && (decide (g.2.reason = 3) || decide (g.2.reason = 4)))).map
    (fun g => unparkReady s b g.2))

/-- Resumes the groups of a block that was swapped out: those parked for a service call, a second-stage
fault or an escalation stay parked for their own event. -/
def resumeGroups (s : State) (bid : Nat) (b : Block) : State :=
  (groupsOf s bid).foldl (fun s g =>
    match tget s.groups g.1 with
    | none => s
    | some x =>
      if x.st = .parked && (x.reason = 3 || x.reason = 4) then
        let c := wgCore s b x.wgid
        let (age, s) := fresh s
        unparkGroup s g.1 c (freeSlot s c) age
      else s) s

/-- Whether a swapped-out block can return where it was (R366). -/
def returnFits (s : State) (bid : Nat) (b : Block) (held : List Nat) : Bool :=
  (List.range b.vcores.length).all (fun i =>
    let c := wgCore s b i
    let need := ((groupsOf s bid).filter (fun g => decide (g.2.wgid = i))).foldl (fun a g => a + g.2.held) 0
    decide (c < 512) && !(held.contains c)
      && decide (slotsUsed s c (some bid) + (variantOf b).groups ≤ slotSupply)
      && decide (extUsed s c (some bid) + need ≤ extSupply)
      && (b.claimed || decide ((variantOf b).spad = 0)
        || intervalFree (spadUsed s c (some bid)) (b.spadOff.getD i 0) (variantOf b).spad))

/-- Whether a resize has removed a virtual core of a block (R402, R366). -/
def lostCore (s : State) (b : Block) : Bool :=
  match tget s.parts b.part with
  | some pt => b.vcores.any (fun v => removedV pt v || (physCore s b.part v).isNone)
  | none => true

/-- Returns a block to the cores it now names (R366). -/
def returnBlock (s : State) (bid : Nat) (b : Block) : State :=
  match ctxOf s b with
  | none => s
  | some cx =>
    match (unparksReady s bid b).andThen (fun _ => restoreSpads s bid b cx) with
    | .wait => s
    | .done s =>
      let b := { b with swapped := false, claimed := false, marked := none, passed := 0 }
      resumeGroups (setBlock s bid b) bid b
    | .s2 d ia => if s2Refused s b.part d ia then blockFatal s bid else signalS2 s b.part d ia
    | .failed _ => blockFatal s bid

/-- Moves a swapped-out block to another run: s1 of its groups names the new allocation, in their park
areas as well (R366). -/
def rebase (s : State) (bid : Nat) (b : Block) (run : List Nat) : State :=
  let places := runPlaces s b.part (variantOf b) (some bid) run
  let b := { b with vcores := places.map (fun x => x.2.1), spadOff := places.map (fun x => x.2.2) }
  let s := setBlock s bid b
  match ctxOf s b with
  | none => s
  | some cx =>
    (groupsOf s bid).foldl (fun s g =>
      if g.2.st = .parked then
        let rq : Req := { part := b.part, ctx := b.ctx, user := false }
        let a := spadAddr (b.vcores.getD g.2.wgid 0) (b.spadOff.getD g.2.wgid 0)
        devPost s rq (parkAddr cx g.2 + 0x88) [a] none
      else s) s

/-! ## Variant switches (R133 to R137) -/

/-- Takes back a switch request: JOINTREQ reads 0 and every group gathered or draining at a joint goes on (R133, R136, R137). -/
def withdrawSwitch (s : State) (bid : Nat) : State :=
  let go (sl : Slot) : Slot :=
    match sl.wait with
    | .vsw _ _ => advance sl
    | _ => sl
  { s with
    blocks := tmod s.blocks bid (fun b => { b with joint := false })
    groups := s.groups.map (fun g =>
      if g.2.blk = bid then (g.1, { g.2 with a := go g.2.a, b := go g.2.b }) else g) }

/-- The joint a group has gathered at, and where. -/
def gatheredAt (g : Group) : Option (Nat × DWord) :=
  match g.a.wait, g.b.wait with
  | .vsw id true, _ => some (id, g.a.pc)
  | _, .vsw id true => some (id, g.b.pc)
  | _, _ => none

/-- A group moved through a joint (R134, R135, R137). Its trap registers stay (R44). -/
def switchGroup (s : State) (b : Block) (g : Group) (pc : DWord) (age : Nat) : Group :=
  let v := variantOf b
  let wg := g.idx / v.groups
  let old := if g.a.live then g.a else g.b
  let g := { g with
    wgid := wg, grpid := g.idx % v.groups, core := wgCore s b wg, age := age,
    v := g.v.filter (fun e => decide (e.1 < 1024)), held := 0, ref := none, nbwin := 0,
    a := { Slot.free with live := true, pc := asPc pc + 4, exec := old.exec, mr := old.mr, jpc := old.jpc, jp := old.jp },
    b := Slot.free }
  setSreg g 1 (spadAddr (b.vcores.getD wg 0) (b.spadOff.getD wg 0))

/-- Gives group slots one by one on the new cores. -/
def seatGroups (s : State) (bid : Nat) : State :=
  (groupsOf s bid).foldl (fun s g =>
    match tget s.groups g.1 with
    | some x => if holdsSlot x then setGroup s g.1 { x with gslot := freeSlot (setGroup s g.1 { x with st := .exited }) x.core } else s
    | none => s) s

/-- The completed switch of a block to variant `v` on a run (R137). -/
def switchTo (s : State) (bid : Nat) (b : Block) (j : Joint) (v : Nat) (run : List Nat) : State :=
  let cur := b.variant
  let carry := (List.range j.carry).map (fun i => mget s.spad (skey (wgCore s b 0) (b.spadOff.getD 0 0 + j.ats.getD cur 0 + i)))
  let nv := b.desc.variants.getD v noVariant
  let places := runPlaces s b.part nv (some bid) run
  let b' := { b with
    variant := v, joint := false,
    vcores := places.map (fun x => x.2.1), spadOff := places.map (fun x => x.2.2),
    bars := b.bars.map (fun _ => { phase := 0, arrived := [], expect := none, gathering := false }),
    items := places.map (fun _ => []) }
  let s := places.foldl (fun s x => zeroSpad s x.1 x.2.2 nv.spad) s
  let base := skey (wgCore s b' 0) (b'.spadOff.getD 0 0 + j.ats.getD v 0)
  let s := { s with spad := (carry.zip (List.range j.carry)).foldl (fun m x => mset m (base + x.2) x.1) s.spad }
  let s := setBlock s bid b'
  let pc := j.vswpc.getD v 0
  let s := (groupsOf s bid).foldl (fun s g =>
    if g.2.st = .exited then
      setGroup s g.1 { g.2 with wgid := g.2.idx / nv.groups, grpid := g.2.idx % nv.groups }
    else
      let (age, s) := fresh s
      setGroup s g.1 (switchGroup s b' g.2 pc age)) s
  seatGroups s bid

/-- Whether every group of a block that has not exited has gathered; then the switch is made or declined
(R136, R137). -/
def vswCheck (s : State) (bid : Nat) : State :=
  match tget s.blocks bid with
  | none => s
  | some b =>
    let gs := (groupsOf s bid).filter (fun g => decide (g.2.st ≠ .exited))
    if !b.joint || gs.isEmpty || !(gs.all (fun g => decide (g.2.st = .resident) && (gatheredAt g.2).isSome)) then s
    else
      let ats := gs.filterMap (fun g => gatheredAt g.2)
      let id := (ats.headD (64, 0)).1
      let lrec : List DWord := match tget s.grids b.grid with
        | some g => g.lrec
        | none => []
      let pick : Option (Joint × Nat × List Nat) :=
        match b.desc.joints.find? (fun j => decide (j.id = id)) with
        | none => none
        | some j =>
          if ats.all (fun a => decide (a.1 = id) && decide (a.2 = j.vswpc.getD b.variant 0))
              && !(holdsOp s bid) && !(s.locks.any (fun l => decide (l.blk = bid))) && b.items.all List.isEmpty then
            (chooseVariant s b.part b.desc lrec (some bid) (heldCores s b.part b.prio none)
              ((byRank b.desc lrec).filter (fun v => decide (v ≠ b.variant)))).map (fun x => (j, x.1, x.2))
          else none
      match pick with
      | none => withdrawSwitch s bid
      | some (j, v, run) => switchTo s bid b j v run

end Sys2Proof.Machine
end

