-- ==== Sys2Proof/Machine/Control.lean ====
section
/-! DEFINITION. Class 0: control flow, the mode register, register blocks, regrouping, the item queue,
joints, child grids, traps by instruction (R35, R37, R137 to R140, R152 to R164, R257, R259, R266) and
CAPR (R18 to R24). -/

namespace Sys2Proof.Machine

/-! ## Common parts -/

/-- A word of format J whose literal is consumed without effect. -/
def formJ : Form := Form.mk0 [] none .ignored false

/-- The target PC + 4 · offset of a branch (R153). -/
def Issue.tgt (is : Issue) (off : DWord) : DWord := is.sl.pc + 4 * off

/-- Replaces the issuing slot. -/
def Issue.go (is : Issue) (sl : Slot) : Eff := .leave (setGroup is.s is.gid (setSlot is.g is.side sl))

/-- Waits in a slot. -/
def Issue.waitIn (is : Issue) (s : State) (w : Wait) : Eff :=
  .leave { s with groups := tmod s.groups is.gid (fun g => setSlot g is.side (beginWait is.sl w)) }

/-- ALIGN of a PC target: the faulters' mask is EXEC (R144, R250). -/
def Issue.alignPc (is : Issue) (a : DWord) : Eff := .trap (.plain 4 is.sl.exec a)

/-- Jumps the whole slot, or traps ALIGN (R144, R153). -/
def Issue.jump (is : Issue) (a : DWord) (sl : Slot) : Eff :=
  if pcValid a then is.go { advance sl with pc := a } else is.alignPc a

/-- The lanes of EXEC whose predicate bit differs from sense (R152). -/
def Issue.branching (is : Issue) (p : BitVec 3) (sense : BitVec 1) : Word :=
  is.sl.exec &&& (if sense = 0 then preg is.g p.toNat else ~~~(preg is.g p.toNat))

/-- A K-form branch with a predicate (R152, R153). -/
def formBr (p : BitVec 3) (i : BitVec 16) : Form := Form.mk0 [opP p.toNat] none (.replaces (i = 0)) false

/-- A group has no lane left: it is EXITED when its counters are zero, and joints and gatherings that only
waited for it are looked at again (R143, R159). -/
def finishExit (s : State) (gid : Nat) : State :=
  match tget s.groups gid with
  | none => s
  | some g =>
    let g' := { g with st := .exiting, a := Slot.free, b := Slot.free, stack := [] }
    if g.out.isEmpty then vswCheck (groupExited (setGroup s gid g') gid) g.blk
    else setGroup s gid g'

/-! ## Branches, calls and the stack -/

/-- NOP (R154). -/
def execNop (s : State) : StepOut := issueWord (encode .nop) formJ (fun is => is.put is.g) s

/-- BRA (R154). -/
def execBra (i : BitVec 23) (s : State) : StepOut :=
  issueWord (encode (.bra i)) formJ (fun is => is.jump (is.tgt (i.signExtend 64)) is.sl) s

/-- YIELD: the youngest age on the core (R146, R154). -/
def execYield (s : State) : StepOut :=
  issueWord (encode .yield) formJ (fun is =>
    let (age, s) := fresh is.s
    .done (setGroup s is.gid { is.g with age := age })) s

/-- BANY: branches if some lane of EXEC does (R155). -/
def execBany (sense : BitVec 1) (p : BitVec 3) (i : BitVec 16) (s : State) : StepOut :=
  issueWord (encode (.bany sense p i)) (formBr p i) (fun is =>
    if is.branching p sense ≠ 0 then is.jump (is.tgt (is.imm i)) is.sl else is.put is.g) s

/-- BALL: branches if every lane of EXEC does (R155). -/
def execBall (sense : BitVec 1) (p : BitVec 3) (i : BitVec 16) (s : State) : StepOut :=
  issueWord (encode (.ball sense p i)) (formBr p i) (fun is =>
    if is.branching p sense = is.sl.exec then is.jump (is.tgt (is.imm i)) is.sl else is.put is.g) s

/-- The split of BC (R156): the waiting entry, the taken side, and the lanes that fall through. -/
def splitBranch (is : Issue) (join tgt : DWord) (t n : Word) : Eff :=
  let other := slotOf is.g (1 - is.side)
  let need := if other.live then 2 else 1
  if 64 < is.g.stack.length + need then .trap (.plain 3 is.sl.exec 0)
  else
    let wait : SEntry := { pc := asPc join, mrs := is.sl.mr, mask := is.sl.exec, arr := 0 }
    let g := { is.g with stack := is.g.stack ++ [wait] }
    let g :=
      if other.live then { g with stack := g.stack ++ [{ pc := tgt, mrs := is.sl.mr, mask := t, arr := t }] }
      else setSlot g (1 - is.side) { Slot.free with live := true, pc := tgt, exec := t, mr := is.sl.mr }
    .leave (setGroup is.s is.gid (setSlot g is.side { advance is.sl with exec := n, jp := false }))

/-- BC: the divergent branch; it consumes the join latch (R156). -/
def execBc (sense : BitVec 1) (p : BitVec 3) (i : BitVec 16) (s : State) : StepOut :=
  issueWord (encode (.bc sense p i)) { formBr p i with bad := fun is => !is.sl.jp } (fun is =>
    let t := is.branching p sense
    let n := is.sl.exec &&& ~~~t
    let tgt := is.tgt (is.imm i)
    if t = 0 then is.go { advance is.sl with jp := false }
    else if !(pcValid tgt) then is.alignPc tgt
    else if n = 0 then is.go { advance is.sl with pc := tgt, jp := false }
    else splitBranch is is.sl.jpc tgt t n) s

/-- JSET: the join latch (R37). -/
def execJset (i : BitVec 16) (s : State) : StepOut :=
  issueWord (encode (.jset i)) (Form.mk0 [] none (.replaces (i = 0)) false) (fun is =>
    is.go { advance is.sl with jpc := is.tgt (is.imm i), jp := true }) s

/-- JOIN (R157). -/
def execJoin (s : State) : StepOut :=
  issueWord (encode .join) formJ (fun is =>
    let x := is.sl.pc
    let waits (e : SEntry) : Bool := !(runnable e) && decide (e.pc = x) && decide (is.sl.exec &&& ~~~e.mask = 0)
    match lastIdx waits is.g.stack with
    | none => is.put is.g
    | some k =>
      let arrive (e : SEntry) : SEntry :=
        let e := { e with arr := e.arr ||| is.sl.exec }
        if runnable e then { e with pc := x + 4 } else e
      let stack := (is.g.stack.zip (List.range is.g.stack.length)).map (fun y => if y.2 = k then arrive y.1 else y.1)
      .leave (setGroup is.s is.gid (refill (setSlot { is.g with stack := stack } is.side Slot.free)))) s

/-- CALL: v30 and v31 of the lanes of EXEC take the return address (R158). -/
def execCall (i : BitVec 23) (s : State) : StepOut :=
  issueWord (encode (.call i)) { formJ with touch := fun _ => [30, 31] } (fun is =>
    let tgt := is.tgt (i.signExtend 64)
    if pcValid tgt then
      let g := setLanes is.g is.sl.exec 30 2 (fun _ => (is.sl.pc + 4).toNat)
      .leave (setGroup is.s is.gid (setSlot g is.side { advance is.sl with pc := tgt }))
    else is.alignPc tgt) s

/-- RET: the address in the lowest lane of EXEC (R158). -/
def execRet (s : State) : StepOut :=
  issueWord (encode .ret) { formJ with touch := fun _ => [30, 31] } (fun is =>
    is.jump (BitVec.ofNat 64 (vregs is.g 30 (lowLane is.sl.exec) 2)) is.sl) s

/-- JR: S[a] + 4 · imm9 (R158). -/
def execJr (a : BitVec 7) (i : BitVec 9) (s : State) : StepOut :=
  issueWord (encode (.jr a i)) (Form.mk0 [opS a.toNat] none (.replaces (i = 0)) false) (fun is =>
    is.jump (sreg is.g a.toNat + 4 * is.imm i) is.sl) s

/-- The entries of a stack after the lanes of `x` have ended (R159). -/
def exitStack (x : Word) (st : List SEntry) : List SEntry :=
  (st.map (fun e =>
    let waiting := !(runnable e)
    let e := { e with mask := e.mask &&& ~~~x, arr := e.arr &&& ~~~x }
    if waiting && runnable e then { e with pc := e.pc + 4 } else e)).filter (fun e => decide (e.mask ≠ 0))

/-- MODE (R30, R160). -/
def execMode (t : BitVec 1) (r : BitVec 2) (e : BitVec 4) (gs : BitVec 1) (p : BitVec 3) (s : State) : StepOut :=
  let mr : BitVec 11 := t ++ r ++ e ++ gs ++ p
  issueWord (encode (.mode t r e gs p)) { formJ with bad := fun _ => !(mrValid mr) } (fun is =>
    is.go { advance is.sl with mr := mr }) s

/-- LIT: shifts 23 bits into the literal latch (R35). -/
def execLit (i : BitVec 23) (s : State) : StepOut :=
  issueWord (encode (.lit i)) { formJ with bad := fun is => decide (is.sl.lc = 3) } (fun is =>
    is.go { advance is.sl with
      lc := is.sl.lc + 1,
      lat := if is.sl.lc = 0 then i.signExtend 64 else (is.sl.lat <<< 23) ||| i.setWidth 64 }) s

/-! ## Register blocks (R149, R161) -/

/-- XACQ: waits until the allocator grants what is missing (R150, R161). -/
def execXacq (n : BitVec 2) (s : State) : StepOut :=
  issueWord (encode (.xacq n))
    { Form.mk0 [] none .refused true with
      bad := fun is => match is.blk with
        | some b => decide ((variantOf b).xblk < n.toNat)
        | none => true }
    (fun is =>
      if n.toNat ≤ is.g.held then is.put is.g
      else .leave (setGroup is.s is.gid
        (setSlot { is.g with xreq := some n.toNat } is.side (beginWait is.sl (.xacq n.toNat))))) s

/-- The vector registers of the extended blocks from number `n` up to what is held. -/
def blockRegs (n held : Nat) : List Nat := (List.range (32 * held - 32 * n)).map (· + (32 + 32 * n))

/-- XREL: releases the blocks above `n` (R161). -/
def execXrel (n : BitVec 2) (s : State) : StepOut :=
  issueWord (encode (.xrel n))
    { Form.mk0 [] none .refused true with touch := fun is => blockRegs n.toNat is.g.held } (fun is =>
    if n.toNat < is.g.held then
      is.put { is.g with held := n.toNat, v := is.g.v.filter (fun e => decide (e.1 < 32 * (32 + 32 * n.toNat))) }
    else is.put is.g) s

/-! ## RGB (R162) -/

/-- The target, join PC and branching lanes of a group that has gathered at `pc`: RGB is a release, and a thread takes no access
with it that is still to be performed, for it goes on in another group (R162, R190, R196). A group with slot B alone gathers as one
with slot A does (log 24). -/
def rgbAt (g : Group) : Option (DWord × DWord × DWord × Word) :=
  if !(releaseFree g) || decide (g.posted ≠ 0) then none
  else
  match g.a.wait, g.b.wait with
  | .rgb t j br, _ => some (g.a.pc, t, j, br)
  | _, .rgb t j br => some (g.b.pc, t, j, br)
  | _, _ => none

/-- The list of one lane column: the branching threads of the gathered groups, then the others (R162). -/
def rgbColumn (gs : List (Nat × Group × Word)) (l : Nat) : List (Group × Bool) :=
  let live (x : Nat × Group × Word) : Bool := ((x.2.1.a.exec ||| x.2.1.b.exec)).getLsbD l
  (gs.filter (fun x => live x && x.2.2.getLsbD l)).map (fun x => (x.2.1, true))
    ++ (gs.filter (fun x => live x && !(x.2.2.getLsbD l))).map (fun x => (x.2.1, false))

/-- Group `i` of a regrouping, with v0 to v31 and p0 to p6 of the threads that come to it; lanes without a
thread keep their values (log 24). -/
def rgbMember (gs : List (Nat × Group × Word)) (i : Nat) (g : Group) : Group × Word × Word :=
  (List.range 32).foldl (fun (acc : Group × Word × Word) l =>
    match (rgbColumn gs l)[i]? with
    | none => acc
    | some (src, br) =>
      let g := (List.range 32).foldl (fun g r => { g with v := mset g.v (32 * r + l) (vreg src r l) }) acc.1
      let g := (List.range 7).foldl (fun g r => setPreg g (laneBit l) r (preg src r)) g
      if br then (g, acc.2.1 ||| laneBit l, acc.2.2) else (g, acc.2.1, acc.2.2 ||| laneBit l)) (g, 0, 0)

/-- What a regrouped group goes on with (R162); `none` when it has no thread left. -/
def rgbResult (g : Group) (pc tgt join : DWord) (t n : Word) : Option Group :=
  let old := if g.a.live then g.a else g.b
  let slot (pc : DWord) (m : Word) : Slot := { Slot.free with live := true, pc := pc, exec := m, mr := old.mr }
  if t = 0 ∧ n = 0 then none
  else if n = 0 then some { g with a := slot tgt t, b := Slot.free }
  else if t = 0 then some { g with a := slot (pc + 4) n, b := Slot.free }
  else some { g with
    stack := g.stack ++ [{ pc := asPc join, mrs := old.mr, mask := t ||| n, arr := 0 }],
    a := slot tgt t, b := slot (pc + 4) n }

/-- Regroups the groups of a workgroup gathered at one PC. -/
def rgbSet (s : State) (pc : DWord) (gs : List (Nat × Group × DWord × DWord × Word)) : State :=
  let src := gs.map (fun x => (x.1, x.2.1, x.2.2.2.2))
  (gs.zip (List.range gs.length)).foldl (fun s x =>
    let (g, t, n) := rgbMember src x.2 x.1.2.1
    match rgbResult g pc x.1.2.2.1 x.1.2.2.2.1 t n with
    | some g => setGroup s x.1.1 g
    | none => finishExit (setGroup s x.1.1 { g with a := Slot.free, b := Slot.free }) x.1.1) s

/-- Looks whether every group of a workgroup that has not exited is at an RGB, and regroups them, one set
per PC (R162). -/
def rgbCheck (s : State) (blk wg : Nat) : State :=
  let all := (groupsOf s blk).filter (fun g => decide (g.2.wgid = wg) && decide (g.2.st ≠ .exited))
  let at_ := all.filterMap (fun g => (rgbAt g.2).map (fun r => (g.1, g.2, r)))
  if all.isEmpty || decide (at_.length ≠ all.length) || !(all.all (fun g => decide (g.2.st = .resident))) then s
  else
    let sorted : Tbl (Nat × Group × DWord × DWord × DWord × Word) := at_.foldl (fun t x => tset t x.2.1.grpid x) []
    let pcs := (tvals sorted).foldl (fun l x => if l.contains x.2.2.1 then l else l ++ [x.2.2.1]) []
    pcs.foldl (fun s pc =>
      rgbSet s pc (((tvals sorted).filter (fun x => decide (x.2.2.1 = pc))).map (fun x => (x.1, x.2.1, x.2.2.2)))) s

/-- A group that waits at an RGB performs what it has still to perform, and may be the last to gather. -/
def rgbGather (s : State) (gid : Nat) (g : Group) : State := rgbCheck (performStores s gid) g.blk g.wgid

/-- A group that has ended may have been all that a joint or a regrouping waited for (R137, R162). -/
def exitAndCheck (s : State) (gid : Nat) : State :=
  match tget s.groups gid with
  | none => s
  | some g => rgbCheck (finishExit s gid) g.blk g.wgid

/-- EXIT: ends the active lanes (R159). -/
def execExit (s : State) : StepOut :=
  issueWord (encode .exit) formJ (fun is =>
    let x := is.act
    if x = 0 then is.put is.g
    else
      let rest := is.sl.exec &&& ~~~x
      let g := setSlot is.g is.side (if rest = 0 then Slot.free else { advance is.sl with exec := rest })
      let g := refill { g with stack := exitStack x g.stack }
      let s := setGroup is.s is.gid g
      .leave (if !g.a.live && !g.b.live && g.stack.isEmpty then exitAndCheck s is.gid else s)) s

/-- RGB: consumes the join latch, gathers, and the last group regroups the workgroup (R162). -/
def execRgb (sense : BitVec 1) (p : BitVec 3) (i : BitVec 16) (s : State) : StepOut :=
  issueWord (encode (.rgb sense p i))
    { Form.mk0 [opP p.toNat] none (.replaces (i = 0)) true with
      bad := fun is => !is.sl.jp && decide (is.sl.wait ≠ .resume)
      touch := fun _ => List.range 32 }
    (fun is =>
      let tgt := is.tgt (is.imm i)
      if !(pcValid tgt) then is.alignPc tgt
      else
        let sl := { beginWait is.sl (.rgb tgt is.sl.jpc (is.branching p sense)) with jp := false }
        .leave (rgbGather (setGroup is.s is.gid (setSlot is.g is.side sl)) is.gid is.g)) s

/-! ## The item queue (R151, R163, R164) -/

/-- Takes one item from the head range. -/
def takeItem : List (Word × Word) → Option (Word × List (Word × Word))
  | [] => none
  | (first, n) :: r => some (first, if n = 1 then r else (first + 1, n - 1) :: r)

/-- Gives the next items to lanes in order: the written registers, the lanes served, the rest. -/
def takeItems (d : Nat) : List Nat → SMap 32 → Word → List (Word × Word) → SMap 32 × Word × List (Word × Word)
  | [], v, got, q => (v, got, q)
  | l :: r, v, got, q =>
    match takeItem q with
    | none => (v, got, q)
    | some (x, q') => takeItems d r (mset v (32 * d + l) x) (got ||| laneBit l) q'

/-- Replaces the item queue of a workgroup. -/
def setItems (b : Block) (wg : Nat) (q : List (Word × Word)) : Block := { b with items := b.items.set wg q }

/-- REFILL (R163). -/
def execRefill (d : BitVec 7) (i : BitVec 16) (s : State) : StepOut :=
  issueWord (encode (.refill d i)) (Form.mk0 [opV1 d.toNat] none (.replaces (i = 0)) false) (fun is =>
    match is.blk with
    | none => .fatal
    | some b =>
      let (v, got, q) := takeItems d.toNat (lanesOf is.act) is.g.v 0 (b.items.getD is.g.wgid [])
      let e := is.act &&& ~~~got
      let tgt := is.tgt (is.imm i)
      let g := { is.g with v := v }
      let s := setBlock is.s is.g.blk (setItems b is.g.wgid q)
      let other := slotOf g (1 - is.side)
      if e = 0 then .done (setGroup s is.gid g)
      else if !(pcValid tgt) then is.alignPc tgt
      else if e = is.sl.exec then .leave (setGroup s is.gid (setSlot g is.side { advance is.sl with pc := tgt }))
      else if other.live && decide (is.g.stack.length = 64) then .trap (.plain 3 is.sl.exec 0)
      else
        let g :=
          if other.live then { g with stack := g.stack ++ [{ pc := tgt, mrs := is.sl.mr, mask := e, arr := e }] }
          else setSlot g (1 - is.side) { Slot.free with live := true, pc := tgt, exec := e, mr := is.sl.mr }
        .leave (setGroup s is.gid (setSlot g is.side { advance is.sl with exec := is.sl.exec &&& ~~~e }))) s

/-- ITEMP (R164), a release of the group's earlier accesses at core scope (R151). -/
def execItemp (d a : BitVec 7) (i : BitVec 9) (s : State) : StepOut :=
  issueWord (encode (.itemp d a i))
    { Form.mk0 [opS d.toNat, opS a.toNat] none (.replaces (i = 0)) true with
      bad := fun is => match is.lit with
        | some x => decide (2 ^ 32 ≤ x.toNat)
        | none => false }
    (fun is =>
      let cnt := is.lit.getD (i.setWidth 64)
      let first : Word := BitVec.ofNat 32 (sreg is.g a.toNat).toNat
      if cnt = 0 then is.putS d.toNat 1
      else
        match is.blk with
        | none => .fatal
        | some b =>
          let q := b.items.getD is.g.wgid []
          if q.length < b.itemq then
            if releaseFree is.g then
              let b := setItems b is.g.wgid (q ++ [(first, BitVec.ofNat 32 cnt.toNat)])
              .done (setGroup (setBlock is.s is.g.blk b) is.gid (setSreg is.g d.toNat 1))
            else .again (performStores is.s is.gid)
          else is.putS d.toNat 0) s

/-! ## Joints (R137) -/

/-- VSW: with a switch request, the group drains its counters and gathers; the last one switches or the
switch is declined (R136, R137). -/
def execVsw (j : BitVec 6) (s : State) : StepOut :=
  issueWord (encode (.vsw j)) (Form.mk0 [] none .refused true) (fun is =>
    match is.blk with
    | none => .fatal
    | some b =>
      if !b.joint then is.put is.g
      else
        let s := drainLdSt is.s is.gid
        match tget s.groups is.gid with
        | none => .leave s
        | some g =>
          let ready := g.out.isEmpty
          let s := setGroup s is.gid (setSlot g is.side (beginWait is.sl (.vsw j.toNat ready)))
          .leave (if ready then vswCheck s g.blk else s)) s

/-! ## Child grids (R138, R140) -/

/-- A GRIDID that is not 0 and no live grid's (R123). -/
def freeGridid (s : State) (id : Nat) : Word :=
  let c (k : Nat) : Word := BitVec.ofNat 32 ((id + k) % (2 ^ 32 - 1) + 1)
  (((List.range (s.grids.length + 1)).map c).find? (fun w => !(s.grids.any (fun g => decide (g.2.gridid = w))))).getD (c 0)

/-- Makes a QUEUED grid from a launch record (R131, R138). -/
def newGrid (s : State) (p c : Nat) (src : GridSrc) (addr : DWord) (lrec : List DWord) (depth : Nat) : Nat × State :=
  let (id, s) := fresh s
  (id, setGrid s id
    { st := .queued, part := p, ctx := c, src := src, addr := addr, lrec := lrec, gridid := freeGridid s id,
      depth := depth, next := 0, blkdone := 0, live := 0, code := 0, detail := 0, finfo := 0, later := none,
      kids := 0, passed := 0 })

/-- How the read of a structure ends when a group asks for it: the words, a trap on the address, a wait for
the second stage, or a wait in a state in which what is missing has been asked for. -/
inductive RecRes where
  | words (w : List DWord)
  | trap (cause : Nat) (addr : DWord)
  | s2 (die ia : Nat)
  | wait (s : State)

/-- One word of a record on another node or in host memory: what came back for it, or a request for it. -/
def remoteWord (s : State) (gid : Nat) (lanes : Word) (node : Nat) (va : DWord) : RecRes :=
  match tget s.groups gid with
  | none => .wait s
  | some g =>
    match g.recs.find? (fun x => decide (x.1 = va)) with
    | some (_, some w) => .words [w]
    | some (_, none) => .wait s
    | none =>
      let s := setGroup s gid { g with recs := g.recs ++ [(va, none)] }
      .wait (newReq s { src := g.core, part := (reqOf s g).part, ctx := (reqOf s g).ctx, node := node, addr := va, kind := .rd, op := 0, size := 8, a := 0, b := 0,
                        port := none, owner := .record gid lanes })

/-- Whether a store that a group has not performed covers a word it is about to read. -/
def ownWordHits (s : State) (gid : Nat) (t : Target) : Bool :=
  match tget s.groups gid with
  | none => false
  | some g => g.out.any (fun o => o.stores.any (fun x => overlaps x.tgt (if o.zero then 128 else x.size) t 8))

/-- Reads `n` words at an aligned address with the checks of R168, for a group's own instruction that has performed the stores it
could. Windows, notify registers and the near-bank control region take no such read (R295, R339, R351). -/
def readRecord (s : State) (gid : Nat) (lanes : Word) (rq : Req) (a : DWord) (n : Nat) : RecRes :=
  (List.range n).foldl (fun acc i =>
    let word (s : State) : RecRes :=
      let va := a + BitVec.ofNat 64 (8 * i)
      match checkAcc s rq .load va 8 va.toNat 8 with
      | .ok (.window _ _) _ => .trap 18 va
      | .ok (.notify _ _) _ => .trap 18 va
      | .ok (.nbctl _ _) _ => .trap 18 va
      | .ok t _ =>
        if ownWordHits s gid t then .wait s
        else
          (match t with
            | .remote node _ => remoteWord s gid lanes node va
            | .host _ => remoteWord s gid lanes 510 va
            | t => .words [BitVec.ofNat 64 (readT s t 8)])
      | .bad _ c => .trap c va
      | .s2 d ia => .s2 d ia
      | .flip _ => .wait s
    match acc with
    | .words w =>
      (match word s with
        | .words x => .words (w ++ x)
        | e => e)
    | .wait s =>
      (match word s with
        | .wait s => .wait s
        | _ => .wait s)
    | e => e) (.words [])

/-- Forgets the words of records that a group has used. -/
def clearRecs (s : State) (gid : Nat) : State := { s with groups := tmod s.groups gid (fun g => { g with recs := [] }) }

/-- A second-stage failure of a group's access: Quinmin is signalled and the group parks with REASON 5; once
Quinmin has refused, it is a fatal error of the group (R218). -/
def s2Fault (s : State) (gid side : Nat) (die ia : Nat) : State :=
  match tget s.groups gid with
  | none => s
  | some g0 =>
    let p := (reqOf s g0).part
    if s2Refused s p die ia then groupFatal s gid (slotOf g0 side).pc
    else
      let s := drainLdSt s gid
      match tget s.groups gid with
      | none => s
      | some g =>
        if ldStZero g then
          parkGroup (signalS2 (setGroup s gid { g with s2at := some (die, ia / 8192) }) p die ia) gid 5 0
        else s

/-- The child grid of a record at an address (R138, R139): a release at dev scope of the group's earlier accesses and posted
near-bank commands comes first (R196, R206). -/
def launchChild (is : Issue) (addr : DWord) (d : Nat) : Eff :=
  let s := performStores is.s is.gid
  match tget s.groups is.gid with
  | none => .leave s
  | some g =>
    match tget s.blocks g.blk with
    | none => .leave s
    | some b =>
      let depth : Nat := match tget s.grids b.grid with
        | some gr => gr.depth
        | none => 0
      if !(releaseFree g) || decide (g.posted ≠ 0) then .again s
      else
      match readRecord s is.gid is.sl.exec (reqOf s g) addr 16 with
      | .words w =>
        let g := { g with recs := [] }
        let (id, s) := newGrid s b.part b.ctx (.child is.gid g.blk b.grid) addr w (depth + 1)
        let s := { s with
          blocks := tmod s.blocks g.blk (fun b => { b with kids := b.kids + 1 })
          grids := tmod s.grids b.grid (fun gr => { gr with kids := gr.kids + 1 }) }
        let handle : Word := (tget s.grids id).elim 0 Grid.gridid
        let g := setSreg { g with kids := g.kids + 1 } d (handle.setWidth 64)
        .leave (setGroup s is.gid (setSlot g is.side (advance (slotOf g is.side))))
      | .trap c a => .trap (.plain c is.sl.exec a)
      | .s2 die ia => .leave (s2Fault s is.gid is.side die ia)
      | .wait s => .again s

/-- CLAUNCH: a child grid from a launch record in memory (R138). In a save or restore grid it is fatal
(R383). -/
def execClaunch (d a : BitVec 7) (i : BitVec 9) (s : State) : StepOut :=
  issueWord (encode (.claunch d a i)) (Form.mk0 [opS d.toNat, opS a.toNat] none (.replaces (i = 0)) true) (fun is =>
    match is.blk with
    | none => .fatal
    | some b =>
      let depth : Nat := match tget is.s.grids b.grid with
        | some gr => gr.depth
        | none => 0
      let addr := sreg is.g a.toNat + 128 * is.lit.getD (i.setWidth 64)
      if b.service then .fatal
      else if depth = 10 then .trap (.plain 14 is.sl.exec 0)
      else if addr.toNat % 128 ≠ 0 then .trap (.plain 4 is.sl.exec addr)
      else if 64 ≤ b.kids then is.go (beginWait is.sl (.claunch addr d.toNat))
      else launchChild is addr d.toNat) s

/-- CWAIT: waits for the children of the group (R140). -/
def execCwait (s : State) : StepOut :=
  issueWord (encode .cwait) formJ (fun is =>
    if is.g.kids = 0 then is.put is.g else is.go (beginWait is.sl .cwait)) s

/-! ## Traps and service calls by instruction -/

/-- BRK (R259). -/
def execBrk (i : BitVec 23) (s : State) : StepOut :=
  issueWord (encode (.brk i)) formJ (fun is =>
    if is.act = 0 then is.put is.g
    else .trap { TrapI.plain 13 is.act 0 with info := i.setWidth 64 }) s

/-- The argument block of a lane: v0 to v15 (R262). -/
def sysArgs (g : Group) (l : Nat) : List DWord := (List.range 8).map (fun i => two (vreg g (2 * i) l) (vreg g (2 * i + 1) l))

/-- Posts a service call and parks the group; until the slot of the ring is FREE, the group's accesses and posted commands are
performed (R206, R209) and its park area can be written, the slot waits (R266). -/
def sysPost (s : State) (gid side : Nat) (m : Word) (kind : BitVec 23) : State :=
  match tget s.groups gid with
  | none => s
  | some g0 =>
    let pc := (slotOf g0 side).pc
    let waiting (s : State) : State :=
      { s with groups := tmod s.groups gid (fun g => setSlot g side (beginWait (slotOf g side) (.sysc m kind))) }
    let s := drainLdSt s gid
    match tget s.groups gid with
    | none => s
    | some g =>
      if decide (g.posted ≠ 0) then waiting s
      else
      match readyToPark s gid with
      | .error s => waiting s
      | .ok false => groupFatal s gid pc
      | .ok true =>
        match postRequest s gid m kind.toNat pc (sysArgs g)
            ((List.range 32).flatMap (fun l => [(vreg g 13 l).toNat, vregs g 14 l 2])) with
        | .bad => groupFatal s gid pc
        | .busy => waiting s
        | .s2 d ia => signalS2 (waiting s) (reqOf s g).part d ia
        | .posted s q =>
          let s := { s with groups := tmod s.groups gid (fun g => setSlot g side (advance (slotOf g side))) }
          parkGroup s gid 2 q

/-- SYSC (R266). -/
def execSysc (i : BitVec 23) (s : State) : StepOut :=
  issueWord (encode (.sysc i))
    { formJ with bad := fun _ => decide (0x400000 ≤ i.toNat), touch := fun _ => List.range 16 } (fun is =>
    if is.act = 0 then is.put is.g else .leave (sysPost is.s is.gid is.side is.act i)) s

/-- TRAPRET (R257). -/
def execTrapret (k : BitVec 1) (s : State) : StepOut :=
  issueWord (encode (.trapret k)) formJ (fun is => .leave (trapReturn is.s is.gid is.side 1 (k = 1))) s

/-- SRET (R257). -/
def execSret (k : BitVec 1) (s : State) : StepOut :=
  issueWord (encode (.sret k)) formJ (fun is => .leave (trapReturn is.s is.gid is.side 2 (k = 1))) s

/-! ## The capability list (R18 to R24) -/

/-- The records of R19 in list order: offset, id, length in 16-byte units, offset of the next. -/
def capRecords : List (Nat × Nat × Nat × Nat) :=
  [(0x0000, 0x0001, 3, 0x0030), (0x0030, 0x0002, 2, 0x0050), (0x0050, 0x0010, 1, 0x0060), (0x0060, 0x0011, 1, 0x0070),
   (0x0070, 0x0012, 1, 0x0080), (0x0080, 0x0013, 1, 0x0090), (0x0090, 0x0020, 1, 0x00A0), (0x00A0, 0x0021, 1, 0x00B0),
   (0x00B0, 0x0030, 1, 0x00C0), (0x00C0, 0x0031, 1, 0x00D0), (0x00D0, 0x0040, 1, 0x00E0), (0x00E0, 0x0041, 1, 0x00F0),
   (0x00F0, 0x0050, 1, 0x0100), (0x0100, 0x0060, 2, 0x0120), (0x0120, 0x0061, 1, 0x0130), (0x0130, 0x0070, 1, 0x0140),
   (0x0140, 0x0071, 1, 0x0150), (0x0150, 0x0072, 1, 0)]

/-- The word of a record's header in a view: EN when the feature is enabled, DIS otherwise (R18, R20). -/
def capHeader (r : Nat × Nat × Nat × Nat) (en : Bool) : DWord :=
  BitVec.ofNat 64 ((if en then 2 ^ 48 else 2 ^ 49) + r.2.2.2 * 2 ^ 32 + r.2.2.1 * 2 ^ 24 + 2 ^ 16 + r.2.1)

/-- The capability list in a view: which records, by place in the list, are enabled (R19, R20). -/
def capWord (s : State) (view : Nat → Bool) (off : Nat) : DWord :=
  match findIdx? (fun r => decide (r.1 = off)) capRecords 0 with
  | some (k, r) => capHeader r (view k)
  | none =>
    match off with
    | 0x10 => BitVec.ofNat 64 (2 ^ 32 + 0x0960 * 2 ^ 16 + 0x1AE3)
    | 0x18 => BitVec.ofNat 64 (18 * 2 ^ 48 + 48 * 2 ^ 40 + 96 * 2 ^ 32 + 8 * 2 ^ 24 + 80 * 2 ^ 16 + 128 * 2 ^ 8 + 4)
    | 0x20 => Config.moduleSerial
    | 0x40 => BitVec.ofNat 64 (8 * 2 ^ 48 + 32 * 2 ^ 40 + 10 * 2 ^ 32 + 12 * 2 ^ 24 + 4 * 2 ^ 16 + 2 ^ 8)
    | 0x110 => BitVec.ofNat 64 (384 * 2 ^ 16 + 18 * 2 ^ 9 + s.mnode)
    | _ => 0

/-- CapList(View(), off, 8) of R24 for a partition (R19). -/
def capList (s : State) (p off : Nat) : DWord := capWord s (capOn s p) off

/-- CAPR (R24). -/
def execCapr (d a : BitVec 7) (i : BitVec 9) (s : State) : StepOut :=
  issueWord (encode (.capr d a i)) (Form.mk0 [opS d.toNat, opS a.toNat] none .ignored true) (fun is =>
    let off := sreg is.g a.toNat + 8 * i.setWidth 64
    if off.toNat % 8 ≠ 0 then .trap (.plain 4 is.sl.exec off)
    else is.putS d.toNat (if off.toNat < 0x1000 then capList is.s (reqOf is.s is.g).part off.toNat else 0)) s

end Sys2Proof.Machine
end

