-- ==== Sys2Proof/Machine/Numbers.lean ====
section
/-! DEFINITION. Floating-point formats, correct rounding and the narrowing rules (R70 to R74),
the A96 cell and its drain (R75 to R77), codebooks (R81) and the rotation (R83, R84). -/

namespace Sys2Proof.Machine

/-- Exponent bits, fraction bits and bias of a format (R70). -/
def fExp : FFmt → Nat
  | .f32 => 8 | .f16 => 5 | .bf16 => 8 | .e4m3 => 4 | .e5m2 => 5
def fFrac : FFmt → Nat
  | .f32 => 23 | .f16 => 10 | .bf16 => 7 | .e4m3 => 3 | .e5m2 => 2
def fBias : FFmt → Nat
  | .f32 => 127 | .f16 => 15 | .bf16 => 127 | .e4m3 => 7 | .e5m2 => 15
/-- Width of a format in bits. -/
def fBits (f : FFmt) : Nat := fExp f + fFrac f + 1
/-- The encoding of the largest finite value, without sign (R70). -/
def fMaxBits : FFmt → Nat
  | .f32 => 0x7F7FFFFF | .f16 => 0x7BFF | .bf16 => 0x7F7F | .e4m3 => 0x7E | .e5m2 => 0x7B
/-- The canonical NaN (R70). -/
def fNaN : FFmt → Nat
  | .f32 => 0x7FC00000 | .f16 => 0x7E00 | .bf16 => 0x7FC0 | .e4m3 => 0x7F | .e5m2 => 0x7E
/-- Whether the format has infinities; e4m3 has none. -/
def fHasInf : FFmt → Bool
  | .e4m3 => false
  | _ => true
/-- The exponent of the least significant bit of a subnormal (R70). -/
def fEmin (f : FFmt) : Int := 1 - Int.ofNat (fBias f) - Int.ofNat (fFrac f)
/-- The sign bit of a format, set when `neg`. -/
def fSign (f : FFmt) (neg : Bool) : Nat := if neg then 2 ^ (fExp f + fFrac f) else 0
/-- The encoding of an infinity. -/
def fInf (f : FFmt) (neg : Bool) : Nat := fSign f neg + (2 ^ fExp f - 1) * 2 ^ fFrac f
/-- The encoding of the largest finite value of a sign. -/
def fMax (f : FFmt) (neg : Bool) : Nat := fSign f neg + fMaxBits f

/-- The value an encoding stands for (R70, R71). -/
def fDecode (f : FFmt) (x : Nat) : FVal :=
  let frac := x % 2 ^ fFrac f
  let ex := x / 2 ^ fFrac f % 2 ^ fExp f
  let neg := x.testBit (fExp f + fFrac f)
  if ex = 2 ^ fExp f - 1 ∧ fHasInf f = true then (if frac = 0 then .inf neg else .nan)
  else if fHasInf f = false ∧ ex = 2 ^ fExp f - 1 ∧ frac = 2 ^ fFrac f - 1 then .nan
  else if ex = 0 then .fin neg frac (fEmin f)
  else .fin neg (2 ^ fFrac f + frac) (fEmin f + Int.ofNat (ex - 1))

/-- What rounding a magnitude gives: the encoding without sign, and whether it overflowed. -/
structure RMag where
  bits : Nat
  ovf : Bool
deriving DecidableEq, Repr

/-- Whether a magnitude with remainder is rounded away from zero (R73). `half` compares the
remainder with half a unit: 0 below, 1 equal, 2 above; `any` says it is not zero. -/
def roundsUp (md : RMode) (neg odd : Bool) (half : Nat) (any : Bool) : Bool :=
  match md with
  | .rne => half = 2 || (half = 1 && odd)
  | .rtz => false
  | .rup => any && !neg
  | .rdn => any && neg

/-- Shifts `m` right by `k`, rounding; `sticky` says that the exact value is larger than `m` by
less than one unit of its last place. -/
def roundShift (md : RMode) (neg : Bool) (m k : Nat) (sticky : Bool) : Nat :=
  let q := m / 2 ^ k
  let r := m % 2 ^ k
  let half :=
    if k = 0 then 0
    else if r < 2 ^ (k - 1) then 0
    else if r = 2 ^ (k - 1) && !sticky then 1 else 2
  q + (if roundsUp md neg (q % 2 = 1) half (r ≠ 0 || sticky) then 1 else 0)

/-- Rounds (m + sticky) * 2^e into `f` with unbounded exponent above (R73). A sticky value must
come with two more bits than the format holds, or lie below the least subnormal. -/
def roundMag (f : FFmt) (md : RMode) (neg : Bool) (m : Nat) (e : Int) (sticky : Bool) : RMag :=
  let q : Int := max (e + Int.ofNat (bitLen m) - Int.ofNat (fFrac f + 1)) (fEmin f)
  let mant :=
    if q ≤ e then m * 2 ^ (e - q).toNat
    else if Int.ofNat (bitLen m) + 2 < q - e then (if roundsUp md neg false 0 (m ≠ 0 || sticky) then 1 else 0)
    else roundShift md neg m (q - e).toNat sticky
  let bits := (q - fEmin f).toNat * 2 ^ fFrac f + mant
  { bits := bits, ovf := fMaxBits f < bits }

/-- Whether an overflow goes to infinity in this mode (R73). -/
def overToInf (md : RMode) (neg : Bool) : Bool :=
  match md with
  | .rne => true
  | .rtz => false
  | .rup => !neg
  | .rdn => neg

/-- Round(x, f, m) of R73; `sat` replaces an overflowing infinity by the largest finite value
(R109). -/
def roundFin (f : FFmt) (md : RMode) (sat : Bool) (neg : Bool) (m : Nat) (e : Int) (sticky : Bool) : Nat :=
  if m = 0 && !sticky then fSign f neg
  else
    let r := roundMag f md neg m e sticky
    if !r.ovf then fSign f neg + r.bits
    else if overToInf md neg && !sat then (if fHasInf f then fInf f neg else fNaN f)
    else fMax f neg

/-- Rounds an exact value into `f` (R71, R73, R109). -/
def roundVal (f : FFmt) (md : RMode) (sat : Bool) : FVal → Nat
  | .nan => fNaN f
  | .inf neg => if fHasInf f then fInf f neg else fNaN f
  | .fin neg m e => roundFin f md sat neg m e false

/-- The narrowing conversions to a floating-point format (R74). -/
def narrowF (f : FFmt) (sat : Bool) : FVal → Nat
  | .nan => fNaN f
  | .inf neg => if fHasInf f then fInf f neg else if sat then fMax f neg else fNaN f
  | .fin neg m e =>
    if m = 0 then fSign f neg
    else
      let r := roundMag f .rne neg m e false
      if !r.ovf then fSign f neg + r.bits
      else if sat then fMax f neg else fNaN f

/-- The integer a mode selects for an exact value (R73). -/
def roundToInt (md : RMode) (neg : Bool) (m : Nat) (e : Int) : Int :=
  let a : Nat := if 0 ≤ e then m * 2 ^ e.toNat else roundShift md neg m (-e).toNat false
  if neg then -Int.ofNat a else Int.ofNat a

/-- The indefinite value of an integer format: the minimum of a signed one, the maximum of an
unsigned one (R74). -/
def indefinite (signed : Bool) (w : Nat) : Nat :=
  if signed then 2 ^ (w - 1) else 2 ^ w - 1

/-- An exact value into an integer format: rounded in `md`, then the integer rows of R74. A
magnitude of 2^200 or more lies outside every integer format. -/
def narrowI (signed : Bool) (w : Nat) (md : RMode) (sat : Bool) : FVal → Nat
  | .nan => if sat then 0 else indefinite signed w
  | .inf neg =>
    if sat then wrapTo w (if neg then intMin signed w else intMax signed w) else indefinite signed w
  | .fin neg m e =>
    let x : Int :=
      if 200 < e + Int.ofNat (bitLen m) ∧ m ≠ 0 then (if neg then -Int.ofNat (2 ^ 200) else Int.ofNat (2 ^ 200))
      else roundToInt md neg m e
    if intMin signed w ≤ x ∧ x ≤ intMax signed w then wrapTo w x
    else if sat then wrapTo w (clampI (intMin signed w) (intMax signed w) x)
    else indefinite signed w

/-- An integer as an exact value. -/
def fOfInt (x : Int) : FVal := .fin (x < 0) x.natAbs 0

/-- Multiplies an exact value by 2^k. -/
def fScale (k : Int) : FVal → FVal
  | .fin n m e => .fin n m (e + k)
  | v => v

/-- The negated value; a NaN stays a NaN. -/
def fNegV : FVal → FVal
  | .nan => .nan
  | .inf n => .inf (!n)
  | .fin n m e => .fin (!n) m e

/-- Exact product with the invalid cases of R111. -/
def fMulV (a b : FVal) : FVal :=
  match a, b with
  | .nan, _ => .nan
  | _, .nan => .nan
  | .inf n, .inf n' => .inf (xor n n')
  | .inf n, .fin n' m _ => if m = 0 then .nan else .inf (xor n n')
  | .fin n m _, .inf n' => if m = 0 then .nan else .inf (xor n n')
  | .fin n m e, .fin n' m' e' => .fin (xor n n') (m * m') (e + e')

/-- The signed mantissa of a finite value at exponent `q` at or below its own. -/
def mantAt (n : Bool) (m : Nat) (e q : Int) : Int :=
  let a := Int.ofNat (m * 2 ^ (e - q).toNat)
  if n then -a else a

/-- Exact sum with the invalid cases and the zero signs of R111 in mode `md`. -/
def fAddV (md : RMode) (a b : FVal) : FVal :=
  match a, b with
  | .nan, _ => .nan
  | _, .nan => .nan
  | .inf n, .inf n' => if n = n' then .inf n else .nan
  | .inf n, .fin _ _ _ => .inf n
  | .fin _ _ _, .inf n' => .inf n'
  | .fin n m e, .fin n' m' e' =>
    if m = 0 ∧ m' = 0 then .fin (if n = n' then n else decide (md = .rdn)) 0 0
    else if m = 0 then .fin n' m' e'
    else if m' = 0 then .fin n m e
    else
      let q := min e e'
      let s := mantAt n m e q + mantAt n' m' e' q
      if s = 0 then .fin (decide (md = .rdn)) 0 0 else .fin (s < 0) s.natAbs q

/-- A ÷ B rounded once (R111). -/
def fDiv (f : FFmt) (md : RMode) (sat : Bool) (a b : FVal) : Nat :=
  match a, b with
  | .nan, _ => fNaN f
  | _, .nan => fNaN f
  | .inf _, .inf _ => fNaN f
  | .inf n, .fin n' _ _ => fInf f (xor n n')
  | .fin n _ _, .inf n' => fSign f (xor n n')
  | .fin n m e, .fin n' m' e' =>
    if m' = 0 then (if m = 0 then fNaN f else fInf f (xor n n'))
    else if m = 0 then fSign f (xor n n')
    else
      let k := 60 + bitLen m'
      let num := m * 2 ^ k
      roundFin f md sat (xor n n') (num / m') (e - e' - Int.ofNat k) (num % m' ≠ 0)

/-- The integer square root of `x`, decided bit by bit from bit `k - 1` down. -/
def isqrtFrom (x : Nat) : Nat → Nat → Nat
  | 0, r => r
  | k + 1, r => if (r + 2 ^ k) * (r + 2 ^ k) ≤ x then isqrtFrom x k (r + 2 ^ k) else isqrtFrom x k r
def isqrt (x : Nat) : Nat := isqrtFrom x (bitLen x / 2 + 1) 0

/-- √x rounded once (R114). -/
def fSqrt (f : FFmt) (md : RMode) (sat : Bool) : FVal → Nat
  | .nan => fNaN f
  | .inf n => if n then fNaN f else fInf f false
  | .fin n m e =>
    if m = 0 then fSign f n
    else if n then fNaN f
    else
      let odd := e % 2 = 1
      let m1 := (if odd then 2 * m else m) * 2 ^ 120
      let e1 := (if odd then e - 1 else e) - 120
      let r := isqrt m1
      roundFin f md sat false r (e1 / 2) (r * r ≠ m1)

/-- 1/√x rounded once (R114). -/
def fRsqrt (f : FFmt) (md : RMode) (sat : Bool) : FVal → Nat
  | .nan => fNaN f
  | .inf n => if n then fNaN f else fSign f false
  | .fin n m e =>
    if m = 0 then fInf f n
    else if n then fNaN f
    else
      let odd := e % 2 = 1
      let m1 := if odd then 2 * m else m
      let e1 := if odd then e - 1 else e
      let k := 80 + bitLen m1
      let num := 2 ^ (2 * k)
      let r := isqrt (num / m1)
      roundFin f md sat false r (-(e1 / 2) - Int.ofNat k) (r * r * m1 ≠ num)

/-- Compares two exact values that are no NaN: whether a < b. -/
def fLt (a b : FVal) : Bool :=
  match a, b with
  | .nan, _ => false
  | _, .nan => false
  | .inf n, .inf n' => n && !n'
  | .inf n, .fin _ _ _ => n
  | .fin _ _ _, .inf n' => !n'
  | .fin n m e, .fin n' m' e' =>
    let q := min e e'
    decide (mantAt n m e q < mantAt n' m' e' q)

/-- Whether two exact values are equal as numbers; −0 equals +0, a NaN equals nothing (R113). -/
def fEq (a b : FVal) : Bool :=
  match a, b with
  | .nan, _ => false
  | _, .nan => false
  | a, b => !fLt a b && !fLt b a

def fIsNaN : FVal → Bool
  | .nan => true
  | _ => false

/-- Whether the encoding `x` of `f` lies below `y` in the order of R112, −0 below +0. -/
def fOrdLt (f : FFmt) (x y : Nat) : Bool :=
  let a := fDecode f x
  let b := fDecode f y
  fLt a b || (fEq a b && x.testBit (fBits f - 1) && !y.testBit (fBits f - 1))

/-- FMIN and FMAX of R112. -/
def fMinMax (f : FFmt) (isMax : Bool) (x y : Nat) : Nat :=
  match fIsNaN (fDecode f x), fIsNaN (fDecode f y) with
  | true, true => fNaN f
  | true, false => y
  | false, true => x
  | false, false => if xor isMax (fOrdLt f y x) then y else x

/-- FCLASS of R115. -/
def fClass (f : FFmt) (x : Nat) : Nat :=
  match fDecode f x with
  | .nan => 0x100
  | .inf n => if n then 0x001 else 0x080
  | .fin n m _ =>
    if m = 0 then (if n then 0x008 else 0x010)
    else if m < 2 ^ fFrac f then (if n then 0x004 else 0x020)
    else (if n then 0x002 else 0x040)

/-- FRINT of R115. -/
def fRint (f : FFmt) (md : RMode) (x : Nat) : Nat :=
  match fDecode f x with
  | .nan => fNaN f
  | .inf n => fInf f n
  | .fin n m e => if 0 ≤ e then x else roundFin f md false n (roundShift md n m (-e).toNat false) 0 false

/-! ## The A96 cell (R75 to R77) -/

/-- An A96 cell read from 128 bits; bits [127:100] are ignored (R75). -/
structure Cell where
  v : BitVec 96
  n : Bool
  p : Bool
  m : Bool
  w : Bool
deriving DecidableEq, Repr

def Cell.zero : Cell := { v := 0, n := false, p := false, m := false, w := false }

def cellOf (x : Nat) : Cell :=
  { v := BitVec.ofNat 96 x, n := x.testBit 96, p := x.testBit 97, m := x.testBit 98, w := x.testBit 99 }

/-- The 128 bits of a cell, bits [127:100] zero (R75). -/
def cellBits (c : Cell) : Nat :=
  c.v.toNat + (if c.n then 2 ^ 96 else 0) + (if c.p then 2 ^ 97 else 0)
    + (if c.m then 2 ^ 98 else 0) + (if c.w then 2 ^ 99 else 0)

/-- A96Add of R76. -/
def a96Add (l : Int) (c : Cell) : FVal → Cell
  | .nan => { c with n := true }
  | .inf neg => if neg then { c with m := true } else { c with p := true }
  | .fin neg m e =>
    if m = 0 then c
    else if l + 74 < e + Int.ofNat (bitLen m) then
      { c with w := true,
               v := c.v + BitVec.ofInt 96 (if neg then -Int.ofNat (2 ^ 74 - 1) else Int.ofNat (2 ^ 74 - 1)) }
    else
      let a := if l ≤ e then m * 2 ^ (e - l).toNat else if Int.ofNat (bitLen m) < l - e then 0 else m / 2 ^ (l - e).toNat
      { c with v := c.v + BitVec.ofInt 96 (if neg then -Int.ofNat a else Int.ofNat a) }

/-- A96Merge of R76. -/
def a96Merge (c e : Cell) : Cell :=
  { v := c.v + e.v, n := c.n || e.n, p := c.p || e.p, m := c.m || e.m, w := c.w || e.w }

/-- A drain target: a floating-point format, or a signed integer of `w` bits (R78). -/
inductive DFmt where
  | flt (f : FFmt)
  | int (w : Nat)
deriving DecidableEq, Repr

/-- The format a code of R78 names, cb4 excepted. -/
def dfmtOfCode (c : Nat) : DFmt :=
  match c with
  | 0 => .int 8 | 1 => .int 4 | 2 => .flt .e4m3 | 3 => .flt .e5m2
  | 5 => .flt .bf16 | 6 => .flt .f16 | 7 => .flt .f32 | _ => .int 32

/-- Bits of a format of R78. -/
def codeBits (c : Nat) : Nat :=
  match c with
  | 0 => 8 | 1 => 4 | 2 => 8 | 3 => 8 | 4 => 4 | 5 => 16 | 6 => 16 | _ => 32

/-- The drain of R77 with accumulator exponent `l`, drain shift `dsh` and scale `s`. -/
def a96Drain (l dsh : Int) (dsat : Bool) (f : DFmt) (c : Cell) (s : FVal) : Nat :=
  let big (neg : Bool) : Nat :=
    match f with
    | .flt ff => fMax ff neg
    | .int w => wrapTo w (if neg then intMin true w else intMax true w)
  let infRes (neg : Bool) : Nat :=
    match f with
    | .flt ff => if fHasInf ff then fInf ff neg else fMax ff neg
    | .int _ => big neg
  let nanRes : Nat :=
    match f with
    | .flt ff => fNaN ff
    | .int _ => 0
  let sneg : Bool := match s with
    | .inf n => n
    | .fin n _ _ => n
    | .nan => false
  let vneg := c.v.msb
  let vmag := c.v.toInt.natAbs
  if c.n || (c.p && c.m) || fIsNaN s then nanRes
  else if c.p || c.m then
    match fMulV (.inf c.m) s with
    | .inf n => infRes n
    | _ => nanRes
  else if c.w then big (xor vneg sneg)
  else
    match s with
    | .nan => nanRes
    | .inf n => if vmag = 0 then nanRes else infRes (xor vneg n)
    | .fin n sm se =>
      let m := vmag * sm
      let e := l + dsh + se
      if m = 0 then 0
      else
        let neg := xor vneg n
        match f with
        | .flt ff => roundFin ff .rtz false neg m e false
        | .int w =>
          let x : Int := roundToInt .rtz neg m e
          if dsat then wrapTo w (clampI (intMin true w) (intMax true w) x) else wrapTo w x

/-! ## Codebooks and the rotation (R81, R83, R84) -/

/-- The lowest index whose entry `f` accepts, or `d`. -/
def lowestIdx (f : FVal → Bool) (cb : List FVal) (d : Nat) : Nat :=
  match findIdx? f cb 0 with
  | some (i, _) => i
  | none => d

/-- The distance of two finite values as an exact magnitude. -/
def fDist (a b : FVal) : FVal :=
  match fAddV .rne a (fNegV b) with
  | .fin _ m e => .fin false m e
  | v => v

/-- The lowest code whose finite entry is best, `better a b` saying that entry `a` beats `b`. -/
def bestCode (better : FVal → FVal → Bool) : List FVal → Nat → Option (Nat × FVal) → Option (Nat × FVal)
  | [], _, best => best
  | x :: r, i, best =>
    match x, best with
    | .fin _ _ _, none => bestCode better r (i + 1) (some (i, x))
    | .fin _ _ _, some (j, y) => bestCode better r (i + 1) (if better x y then some (i, x) else some (j, y))
    | _, _ => bestCode better r (i + 1) best

/-- Encoding a value into cb4 (R81). -/
def cbEncode (cb : List FVal) (x : FVal) : Nat :=
  let pick (o : Option (Nat × FVal)) : Nat := match o with
    | some (i, _) => i
    | none => 0
  match x with
  | .nan => lowestIdx fIsNaN cb 0
  | .inf neg =>
    match findIdx? (fun e => decide (e = .inf neg)) cb 0 with
    | some (i, _) => i
    | none => pick (bestCode (fun a b => if neg then fLt a b else fLt b a) cb 0 none)
  | .fin n m e => pick (bestCode (fun a b => fLt (fDist a (.fin n m e)) (fDist b (.fin n m e))) cb 0 none)

/-- Mix of R83. -/
def rotMix (z : DWord) : DWord :=
  let z := z ^^^ (z >>> 30)
  let z := z * 0xBF58476D1CE4E5B9#64
  let z := z ^^^ (z >>> 27)
  let z := z * 0x94D049BB133111EB#64
  z ^^^ (z >>> 31)

/-- Flip of R83. -/
def rotFlip (seed b : DWord) (i : Nat) : Bool :=
  (rotMix (seed + (64#64 * b + BitVec.ofNat 64 (i + 1)) * 0x9E3779B97F4A7C15#64)).msb

/-- The flip of one element: a zero or a NaN stays as it is (R84). -/
def rotFlipV (seed b : DWord) (i : Nat) (x : FVal) : FVal :=
  match x with
  | .fin n m e => if m ≠ 0 ∧ rotFlip seed b i = true then .fin (!n) m e else .fin n m e
  | .inf n => if rotFlip seed b i then .inf (!n) else .inf n
  | .nan => .nan

/-- One exact Hadamard sum, scaled by 2^-3 (R84): a NaN, or infinities of both signs, give NaN; an
exact zero is +0. -/
def hadamardAt (u : List FVal) (i : Nat) : FVal :=
  let rec go : List FVal → Nat → FVal → FVal
    | [], _, acc => acc
    | x :: r, j, acc =>
      go r (j + 1) (fAddV .rne acc (if popCount (i &&& j) 6 % 2 = 1 then fNegV x else x))
  match go u 0 (.fin false 0 0) with
  | .fin n m e => if m = 0 then .fin false 0 0 else .fin n m (e - 3)
  | v => v

/-- Applies the flips to a block of 64 values. -/
def flipAll (seed b : DWord) (x : List FVal) : List FVal :=
  (List.range 64).map (fun i => rotFlipV seed b i (x.getD i .nan))

/-- The rotation of R84: flips, then transform. -/
def rotate (seed b : DWord) (x : List FVal) : List FVal :=
  let u := flipAll seed b x
  (List.range 64).map (hadamardAt u)

/-- The inverse of R84: transform, then flips. -/
def unrotate (seed b : DWord) (x : List FVal) : List FVal :=
  flipAll seed b ((List.range 64).map (hadamardAt x))

end Sys2Proof.Machine
end

