-- ==== Sys2Proof/Machine/Transcendental.lean ====
section
/-! DEFINITION. The correctly rounded one-operand functions of R114. Each function is bracketed by
fixed-point arithmetic on integers and the bracket is narrowed until both ends round alike. -/

namespace Sys2Proof.Machine

/-- Σ (±1)^k / ((2k+1) d^(2k+1)) scaled by 2^p, from the running power `pw` and odd divisor `j`. -/
def atanSeries (alt : Bool) (d2 : Nat) : Nat → Nat → Nat → Bool → Int → Int
  | 0, _, _, _, acc => acc
  | n + 1, pw, j, neg, acc =>
    if pw = 0 then acc
    else
      let t := Int.ofNat (pw / j)
      atanSeries alt d2 n (pw / d2) (j + 2) (xor neg alt) (acc + (if neg then -t else t))

/-- atan(1/d) and atanh(1/d) scaled by 2^p. -/
def atanInv (p d : Nat) : Int := atanSeries true (d * d) (p + 1) (2 ^ p / d) 1 false 0
def atanhInv (p d : Nat) : Int := atanSeries false (d * d) (p + 1) (2 ^ p / d) 1 false 0

/-- ln 2 = 2 atanh(1/3), and π/2 = 8 atan(1/5) − 2 atan(1/239), scaled by 2^p. -/
def ln2Fix (p : Nat) : Int := 2 * atanhInv p 3
def halfPiFix (p : Nat) : Int := 8 * atanInv p 5 - 2 * atanInv p 239

/-- Σ t^k / k! over the terms the step `st` keeps, at scale 2^p: `st = 1` gives exp(t), `st = 2`
with alternating signs gives cos(t) and sin(t). -/
def taylor (p st : Nat) (alt : Bool) (t : Int) : Nat → Nat → Int → Bool → Int → Int
  | 0, _, _, _, acc => acc
  | n + 1, k, term, neg, acc =>
    if term = 0 ∨ term = -1 then acc
    else
      let acc := acc + (if neg then -term else term)
      let q := Int.ofNat (2 ^ p)
      let term := if st = 1 then term * t / q / Int.ofNat (k + 1)
                  else term * t / q * t / q / Int.ofNat ((k + 1) * (k + 2))
      taylor p st alt t n (k + st) term (xor neg alt) acc

def expFix (p : Nat) (t : Int) : Int := taylor p 1 false t p 0 (Int.ofNat (2 ^ p)) false 0
def cosFix (p : Nat) (t : Int) : Int := taylor p 2 true t p 0 (Int.ofNat (2 ^ p)) false 0
def sinFix (p : Nat) (t : Int) : Int :=
  if t < 0 then -taylor p 2 true (-t) p 1 (-t) false 0 else taylor p 2 true t p 1 t false 0

/-- The value m * 2^e scaled by 2^p; exact whenever -p ≤ e. -/
def fixOf (p : Nat) (neg : Bool) (m : Nat) (e : Int) : Int :=
  let a := if 0 ≤ e + Int.ofNat p then Int.ofNat (m * 2 ^ (e + Int.ofNat p).toNat) else 0
  if neg then -a else a

/-- The precisions tried, in order. -/
def zivPrecisions : List Nat := [200, 400, 800, 1600]

/-- Rounds v * 2^e. -/
def roundInt (f : FFmt) (md : RMode) (sat : Bool) (v e : Int) : Nat :=
  roundFin f md sat (v < 0) v.natAbs e false

/-- Rounds the real number that `approx p` gives, scaled by 2^p and shifted by `sh p`, within 2^24
units; tries the precisions in turn until both ends of the bracket round alike. -/
def zivRound (f : FFmt) (md : RMode) (sat : Bool) (approx : Nat → Int) (sh : Int) (fallback : Nat) : List Nat → Nat
  | [] => fallback
  | p :: ps =>
    let v := approx p
    let lo := v - Int.ofNat (2 ^ 24)
    let hi := v + Int.ofNat (2 ^ 24)
    let a := roundInt f md sat lo (sh - Int.ofNat p)
    if (decide (0 < lo) || decide (hi < 0)) && (a == roundInt f md sat hi (sh - Int.ofNat p)) then a
    else zivRound f md sat approx sh fallback ps

/-- The value one minus (plus, for `up`) an arbitrarily small amount. -/
def nearOne (f : FFmt) (md : RMode) (neg : Bool) : Nat :=
  roundFin f md false neg (2 ^ 200 - 1) (-200) true

/-- The floor of m * 2^e with sign. -/
def floorOf (neg : Bool) (m : Nat) (e : Int) : Int := roundToInt .rdn neg m e

/-- Whether m * 2^e is an integer. -/
def isIntVal (m : Nat) (e : Int) : Bool := decide (0 ≤ e) || decide (m % 2 ^ (-e).toNat = 0)

/-- FEXP2 of a finite nonzero value. -/
def fExp2Fin (f : FFmt) (md : RMode) (sat : Bool) (neg : Bool) (m : Nat) (e : Int) : Nat :=
  if 12 < e + Int.ofNat (bitLen m) then
    (if neg then roundFin f md sat false 1 (-4000) true else roundFin f md sat false 1 4000 true)
  else if isIntVal m e then roundFin f md sat false 1 (floorOf neg m e) false
  else
    let n := floorOf neg m e
    zivRound f md sat
      (fun p =>
        let q := Int.ofNat (2 ^ p)
        let fr := fixOf p neg m e - n * q
        expFix p (fr * ln2Fix p / q))
      n (Config.transcendental 18 (fSign f neg + m)) zivPrecisions

/-- FLOG2 of a positive value. -/
def fLog2Fin (f : FFmt) (md : RMode) (sat : Bool) (m : Nat) (e : Int) : Nat :=
  let l := bitLen m
  if m = 2 ^ (l - 1) then
    let n := e + Int.ofNat (l - 1)
    roundFin f md sat (n < 0) n.natAbs 0 false
  else
    -- y = m / 2^j lies in [3/4, 3/2)
    let j := if 2 * m < 3 * 2 ^ (l - 1) then l - 1 else l
    let n := e + Int.ofNat j
    let num := Int.ofNat m - Int.ofNat (2 ^ j)
    let den := Int.ofNat m + Int.ofNat (2 ^ j)
    zivRound f md sat
      (fun p =>
        let p2 := p + 32
        let q := Int.ofNat (2 ^ p2)
        let z := num * q / den
        let z2 := z * z / q
        let rec go : Nat → Nat → Int → Int → Int
          | 0, _, _, acc => acc
          | k + 1, i, pw, acc =>
            if pw = 0 ∨ pw = -1 then acc
            else go k (i + 2) (pw * z2 / q) (acc + pw / Int.ofNat i)
        let ln := 2 * go p2 1 z 0
        (n * q + ln * q / ln2Fix p2) / Int.ofNat (2 ^ 32))
      0 (Config.transcendental 19 m) zivPrecisions

/-- The quadrant and the remainder, scaled by 2^p, of |x| = m * 2^e over π/2. -/
def reduceHalfPi (p m : Nat) (e : Int) : Int × Int :=
  let pb := p + 200
  let h := halfPiFix (pb + 16) / Int.ofNat (2 ^ 16)
  let x := fixOf pb false m e
  let k := (2 * x + h) / (2 * h)
  (k, (x - k * h) / Int.ofNat (2 ^ 200))

/-- FSIN (`quarter = 0`) and FCOS (`quarter = 1`) of a finite nonzero value. -/
def fSinCosFin (f : FFmt) (md : RMode) (sat : Bool) (quarter : Int) (neg : Bool) (m : Nat) (e : Int) : Nat :=
  zivRound f md sat
    (fun p =>
      let (k, r) := reduceHalfPi p m e
      let j := (k + quarter) % 4
      let v := if j % 2 = 0 then sinFix p r else cosFix p r
      let v := if 2 ≤ j then -v else v
      if neg ∧ quarter = 0 then -v else v)
    0 (Config.transcendental 20 (fSign f neg + m)) zivPrecisions

/-- FTANH of a finite nonzero value. -/
def fTanhFin (f : FFmt) (md : RMode) (sat : Bool) (neg : Bool) (m : Nat) (e : Int) : Nat :=
  if 7 < e + Int.ofNat (bitLen m) then nearOne f md neg
  else
    zivRound f md sat
      (fun p =>
        let q := Int.ofNat (2 ^ p)
        let y := 2 * fixOf p false m e
        let l := ln2Fix p
        let n := y / l
        let u := expFix p (-(y - n * l)) / Int.ofNat (2 ^ n.toNat)
        let v := (q - u) * q / (q + u)
        if neg then -v else v)
      0 (Config.transcendental 22 (fSign f neg + m)) zivPrecisions

/-- The one-operand functions. -/
inductive Fun1 where
  | sqrt | rcp | rsq | exp2 | log2 | sin | cos | tanh
deriving DecidableEq, Repr

/-- R114: the table's fixed cases, and the correctly rounded value everywhere else. -/
def fFun1 (fn : Fun1) (f : FFmt) (md : RMode) (sat : Bool) (x : Nat) : Nat :=
  let one := fDecode f x
  match fn with
  | .sqrt => fSqrt f md sat one
  | .rsq => fRsqrt f md sat one
  | .rcp => fDiv f md sat (.fin false 1 0) one
  | .exp2 =>
    match one with
    | .nan => fNaN f
    | .inf n => if n then fSign f false else fInf f false
    | .fin n m e => if m = 0 then roundFin f md sat false 1 0 false else fExp2Fin f md sat n m e
  | .log2 =>
    match one with
    | .nan => fNaN f
    | .inf n => if n then fNaN f else fInf f false
    | .fin n m e => if m = 0 then fInf f true else if n then fNaN f else fLog2Fin f md sat m e
  | .sin =>
    match one with
    | .nan => fNaN f
    | .inf _ => fNaN f
    | .fin n m e => if m = 0 then fSign f n else fSinCosFin f md sat 0 n m e
  | .cos =>
    match one with
    | .nan => fNaN f
    | .inf _ => fNaN f
    | .fin n m e => if m = 0 then roundFin f md sat false 1 0 false else fSinCosFin f md sat 1 n m e
  | .tanh =>
    match one with
    | .nan => fNaN f
    | .inf n => fSign f n + roundFin f md sat false 1 0 false
    | .fin n m e => if m = 0 then fSign f n else fTanhFin f md sat n m e

end Sys2Proof.Machine
end

