-- ==== Sys2Proof/Machine/VecInt.lean ====
section
/-! DEFINITION. Class 2: the vector integer instructions (R100 to R108). -/

namespace Sys2Proof.Machine

/-- The type sets of R100. -/
def setM : List ET := [.i32, .ui32, .i16x2, .ui16x2, .i8x4, .ui8x4, .i64]
def setA : List ET := [.i32, .ui32, .i16x2, .ui16x2, .i8x4, .ui8x4, .i4x8, .i64]
def setS : List ET := [.i32, .i16x2, .i8x4, .i4x8, .i64]
def setW : List ET := [.i32, .ui32, .i64]
def setX : List ET :=
  [.i32, .ui32, .i16x2, .ui16x2, .i8x4, .ui8x4, .f32, .f16x2, .bf16x2, .e4m3x4, .e5m2x4, .i64, .i4x8, .cb4x8, .a96]

/-- A form whose vector operand b a literal replaces, but not when b is an a96 quad (R36). -/
def formVb (ops : List Operand) (ets : List ET) (b : BitVec 7) : Form :=
  { Form.mk0 ops (some ets) (.replaces (b = 0)) false with
    bad := fun is => is.lit.isSome && decide (is.et = .a96) && ets.contains .a96 }

/-- A two-operand instruction over whole operands of one lane: `f` takes the type, SAT, a, b and the old d
(R100, R102). -/
def vecBin (w : Word) (ets : List ET) (d a b : BitVec 7) (f : ET → Bool → Nat → Nat → Nat → Nat) (s : State) : StepOut :=
  issueWord w (formVb [opV d.toNat, opV a.toNat, opV b.toNat] ets b)
    (fun is => is.putLanes d.toNat is.n
      (fun l => f is.et is.sat (vregs is.g a.toNat l is.n) (is.vb b.toNat is.n l) (vregs is.g d.toNat l is.n))) s

/-- A one-operand instruction over whole operands of one lane. -/
def vecUn (w : Word) (ets : List ET) (d a : BitVec 7) (f : ET → Bool → Nat → Nat) (s : State) : StepOut :=
  issueWord w (Form.mk0 [opV d.toNat, opV a.toNat] (some ets) .refused false)
    (fun is => is.putLanes d.toNat is.n (fun l => f is.et is.sat (vregs is.g a.toNat l is.n))) s

/-- Element by element on unsigned values: `f` takes the width and the elements. -/
def mapU2 (t : ET) (f : Nat → Nat → Nat → Nat) (a b : Nat) : Nat :=
  packElems (etBits t) (fun k => f (etBits t) (elemU (etBits t) k a) (elemU (etBits t) k b)) (etCount t)

def mapU1 (t : ET) (f : Nat → Nat → Nat) (a : Nat) : Nat :=
  packElems (etBits t) (fun k => f (etBits t) (elemU (etBits t) k a)) (etCount t)

/-- VMOV: b or the literal (R102). -/
def execVmov (h : BitVec 2) (d b : BitVec 7) (s : State) : StepOut :=
  issueWord (encode (.vmov h d b)) (formVb [opV d.toNat, opV b.toNat] setX b)
    (fun is => is.putLanes d.toNat is.n (fun l => is.vb b.toNat is.n l)) s

/-- VADD: Fit(A.e + B.e) (R102). -/
def execVadd (h : BitVec 2) (d a b : BitVec 7) (s : State) : StepOut :=
  vecBin (encode (.vadd h d a b)) setA d a b
    (fun t sat x y _ => mapInt2 t sat (fun p q => p + q) x y) s

/-- VSUB: Fit(A.e − B.e) (R102). -/
def execVsub (h : BitVec 2) (d a b : BitVec 7) (s : State) : StepOut :=
  vecBin (encode (.vsub h d a b)) setA d a b
    (fun t sat x y _ => mapInt2 t sat (fun p q => p - q) x y) s

/-- VMUL: Fit(A.e × B.e) (R102). -/
def execVmul (h : BitVec 2) (d a b : BitVec 7) (s : State) : StepOut :=
  vecBin (encode (.vmul h d a b)) setM d a b
    (fun t sat x y _ => mapInt2 t sat (fun p q => p * q) x y) s

/-- VMULH: the high half of the exact product (R102). -/
def execVmulh (h : BitVec 2) (d a b : BitVec 7) (s : State) : StepOut :=
  vecBin (encode (.vmulh h d a b)) setM d a b
    (fun t _ x y _ => mapInt2 t false (fun p q => p * q / Int.ofNat (2 ^ etBits t)) x y) s

/-- VMAD: Fit(A.e × B.e + D.e), formed exactly from the old D.e (R102). -/
def execVmad (h : BitVec 2) (d a b : BitVec 7) (s : State) : StepOut :=
  vecBin (encode (.vmad h d a b)) setM d a b
    (fun t sat x y z => packElems (etBits t)
      (fun k => fitInt (etSigned t) (etBits t) sat (elemI t k x * elemI t k y + elemI t k z)) (etCount t)) s

/-- VMIN: the smaller element (R102). -/
def execVmin (h : BitVec 2) (d a b : BitVec 7) (s : State) : StepOut :=
  vecBin (encode (.vmin h d a b)) setA d a b
    (fun t _ x y _ => mapInt2 t false (fun p q => if p < q then p else q) x y) s

/-- VMAX: the larger element (R102). -/
def execVmax (h : BitVec 2) (d a b : BitVec 7) (s : State) : StepOut :=
  vecBin (encode (.vmax h d a b)) setA d a b
    (fun t _ x y _ => mapInt2 t false (fun p q => if p < q then q else p) x y) s

/-- VABS: Fit(|A.e|) (R102). -/
def execVabs (h : BitVec 2) (d a : BitVec 7) (s : State) : StepOut :=
  vecUn (encode (.vabs h d a)) setS d a
    (fun t sat x => mapInt2 t sat (fun p _ => Int.ofNat p.natAbs) x 0) s

/-- VNEG: Fit(−A.e) (R102). -/
def execVneg (h : BitVec 2) (d a : BitVec 7) (s : State) : StepOut :=
  vecUn (encode (.vneg h d a)) setS d a
    (fun t sat x => mapInt2 t sat (fun p _ => -p) x 0) s

/-- VAND: bitwise AND of the whole operand (R103). -/
def execVand (h : BitVec 2) (d a b : BitVec 7) (s : State) : StepOut :=
  vecBin (encode (.vand h d a b)) setX d a b
    (fun _ _ x y _ => x &&& y) s

/-- VOR: bitwise OR (R103). -/
def execVor (h : BitVec 2) (d a b : BitVec 7) (s : State) : StepOut :=
  vecBin (encode (.vor h d a b)) setX d a b
    (fun _ _ x y _ => x ||| y) s

/-- VXOR: bitwise XOR (R103). -/
def execVxor (h : BitVec 2) (d a b : BitVec 7) (s : State) : StepOut :=
  vecBin (encode (.vxor h d a b)) setX d a b
    (fun _ _ x y _ => x ^^^ y) s

/-- VNOT: complement of the whole operand (R103). -/
def execVnot (h : BitVec 2) (d a : BitVec 7) (s : State) : StepOut :=
  vecUn (encode (.vnot h d a)) setX d a
    (fun t _ x => 2 ^ (32 * etRegs t) - 1 - x) s

/-- VSHL: Fit(A.e × 2^c), c = B.e mod w (R103). -/
def execVshl (h : BitVec 2) (d a b : BitVec 7) (s : State) : StepOut :=
  vecBin (encode (.vshl h d a b)) setA d a b
    (fun t sat x y _ => packElems (etBits t) (fun k => fitInt (etSigned t) (etBits t) sat
      (elemI t k x * Int.ofNat (2 ^ (elemU (etBits t) k y % etBits t)))) (etCount t)) s

/-- VSHR: logical right shift by c (R103). -/
def execVshr (h : BitVec 2) (d a b : BitVec 7) (s : State) : StepOut :=
  vecBin (encode (.vshr h d a b)) setA d a b
    (fun t _ x y _ => mapU2 t (fun w p q => p / 2 ^ (q % w)) x y) s

/-- VSRA: arithmetic right shift by c, of the two's complement element under every type (R103; log 119). -/
def execVsra (h : BitVec 2) (d a b : BitVec 7) (s : State) : StepOut :=
  vecBin (encode (.vsra h d a b)) setA d a b
    (fun t _ x y _ => packElems (etBits t) (fun k => wrapTo (etBits t)
      (signedOf (etBits t) (elemU (etBits t) k x) / Int.ofNat (2 ^ (elemU (etBits t) k y % etBits t)))) (etCount t)) s

/-- VCLZ: leading zero bits of A.e within w (R102). -/
def execVclz (h : BitVec 2) (d a : BitVec 7) (s : State) : StepOut :=
  vecUn (encode (.vclz h d a)) setA d a
    (fun t _ x => mapU1 t (fun w p => leadZeros p w) x) s

/-- VPOPC: one bits of A.e (R102). -/
def execVpopc (h : BitVec 2) (d a : BitVec 7) (s : State) : StepOut :=
  vecUn (encode (.vpopc h d a)) setA d a
    (fun t _ x => mapU1 t (fun w p => popCount p w) x) s

/-- VADDI: Fit(A.e + imm9 or the literal read as signed 64 bits) (R102). -/
def execVaddi (d a : BitVec 7) (i : BitVec 9) (s : State) : StepOut :=
  issueWord (encode (.vaddi d a i)) (Form.mk0 [opV d.toNat, opV a.toNat] (some setA) (.replaces (i = 0)) false)
    (fun is => is.putLanes d.toNat is.n
      (fun l => mapInt2 is.et is.sat (fun p _ => p + (is.imm i).toInt) (vregs is.g a.toNat l is.n) 0)) s

/-- VBFX: extracts the field that the exempt register b gives (R104). -/
def execVbfx (h : BitVec 2) (d a b : BitVec 7) (s : State) : StepOut :=
  issueWord (encode (.vbfx h d a b))
    (Form.mk0 [opV d.toNat, opV a.toNat, opV1 b.toNat] (some setW) (.replaces (b = 0)) false)
    (fun is => is.putLanes d.toNat is.n
      (fun l => bfExtract is.et (vregs is.g a.toNat l is.n) (is.vb b.toNat 1 l))) s

/-- VBFI: inserts into the field that the exempt register b gives (R104). -/
def execVbfi (h : BitVec 2) (d a b : BitVec 7) (s : State) : StepOut :=
  issueWord (encode (.vbfi h d a b))
    (Form.mk0 [opV d.toNat, opV a.toNat, opV1 b.toNat] (some setW) (.replaces (b = 0)) false)
    (fun is => is.putLanes d.toNat is.n
      (fun l => bfInsert is.et (vregs is.g d.toNat l is.n) (vregs is.g a.toNat l is.n) (is.vb b.toNat 1 l))) s

/-- VSEL: every lane of EXEC takes A if it passes the guard, else B (R105). -/
def execVsel (h : BitVec 2) (d a b : BitVec 7) (s : State) : StepOut :=
  issueWord (encode (.vsel h d a b)) (formVb [opV d.toNat, opV a.toNat, opV b.toNat] setX b)
    (fun is => is.put (setLanes is.g is.sl.exec d.toNat is.n
      (fun l => if (guardMask is.g is.sl.mr).getLsbD l then vregs is.g a.toNat l is.n else is.vb b.toNat is.n l))) s

/-- A compare: bit `lane` of predicate d says whether the relation holds for every element (R106). -/
def vecCmp (w : Word) (d a b : BitVec 7) (r : Int → Int → Bool) (s : State) : StepOut :=
  issueWord w (formVb [opP d.toNat, opV a.toNat, opV b.toNat] setA b)
    (fun is => is.put (setPreg is.g is.act d.toNat (maskOf (fun l =>
      (List.range (etCount is.et)).all (fun k =>
        r (elemI is.et k (vregs is.g a.toNat l is.n)) (elemI is.et k (is.vb b.toNat is.n l))))))) s

/-- VCMPEQ (R106). -/
def execVcmpeq (h : BitVec 2) (d a b : BitVec 7) (s : State) : StepOut :=
  vecCmp (encode (.vcmpeq h d a b)) d a b (fun x y => decide (x = y)) s

/-- VCMPLT (R106). -/
def execVcmplt (h : BitVec 2) (d a b : BitVec 7) (s : State) : StepOut :=
  vecCmp (encode (.vcmplt h d a b)) d a b (fun x y => decide (x < y)) s

/-- VCMPLE (R106). -/
def execVcmple (h : BitVec 2) (d a b : BitVec 7) (s : State) : StepOut :=
  vecCmp (encode (.vcmple h d a b)) d a b (fun x y => decide (x ≤ y)) s

/-- A predicate operation of R106; MR.ET is ignored. -/
def predBin (w : Word) (d a b : BitVec 7) (f : Word → Word → Word) (s : State) : StepOut :=
  issueWord w (Form.mk0 [opP d.toNat, opP a.toNat, opP b.toNat] none .refused false)
    (fun is => is.put (setPreg is.g is.act d.toNat (f (preg is.g a.toNat) (preg is.g b.toNat)))) s

/-- VPAND (R106). -/
def execVpand (d a b : BitVec 7) (s : State) : StepOut :=
  predBin (encode (.vpand d a b)) d a b (fun x y => x &&& y) s

/-- VPOR (R106). -/
def execVpor (d a b : BitVec 7) (s : State) : StepOut :=
  predBin (encode (.vpor d a b)) d a b (fun x y => x ||| y) s

/-- VPXOR (R106). -/
def execVpxor (d a b : BitVec 7) (s : State) : StepOut :=
  predBin (encode (.vpxor d a b)) d a b (fun x y => x ^^^ y) s

/-- VPNOT (R106). -/
def execVpnot (d a : BitVec 7) (s : State) : StepOut :=
  issueWord (encode (.vpnot d a)) (Form.mk0 [opP d.toNat, opP a.toNat] none .refused false)
    (fun is => is.put (setPreg is.g is.act d.toNat (~~~(preg is.g a.toNat)))) s

/-- VSHFL: the value of lane B[4:0] of a, whatever EXEC and the guard hold there (R107). -/
def execVshfl (h : BitVec 2) (d a b : BitVec 7) (s : State) : StepOut :=
  issueWord (encode (.vshfl h d a b))
    (Form.mk0 [opV d.toNat, opV a.toNat, opV1 b.toNat] (some setX) (.replaces (b = 0)) false)
    (fun is => is.putLanes d.toNat is.n (fun l => vregs is.g a.toNat (is.vb b.toNat 1 l % 32) is.n)) s

/-- VLANE: the value of lane S[b][4:0] of a in every active lane (R107). -/
def execVlane (h : BitVec 2) (d a b : BitVec 7) (s : State) : StepOut :=
  issueWord (encode (.vlane h d a b))
    (Form.mk0 [opV d.toNat, opV a.toNat, opS b.toNat] (some setX) (.replaces (b = 0)) false)
    (fun is => is.putLanes d.toNat is.n (fun _ => vregs is.g a.toNat ((is.sb b.toNat).toNat % 32) is.n)) s

/-- A reduction over the active lanes, element position by element position (R108): `f` takes the exact
values of one position, in ascending lane order. -/
def vecReduce (w : Word) (d a : BitVec 7) (f : ET → Bool → List Int → Nat) (s : State) : StepOut :=
  issueWord w (Form.mk0 [opV d.toNat, opV a.toNat] (some setA) .refused false)
    (fun is =>
      let r := packElems (etBits is.et)
        (fun k => f is.et is.sat ((lanesOf is.act).map (fun l => elemI is.et k (vregs is.g a.toNat l is.n)))) (etCount is.et)
      is.putLanes d.toNat is.n (fun _ => r)) s

/-- The least (greatest, for `up`) value of a list. -/
def extreme (up : Bool) : List Int → Int
  | [] => 0
  | x :: r => r.foldl (fun a y => if up then (if a < y then y else a) else (if y < a then y else a)) x

/-- VRADD: Fit of the exact sum (R108). -/
def execVradd (h : BitVec 2) (d a : BitVec 7) (s : State) : StepOut :=
  vecReduce (encode (.vradd h d a)) d a (fun t sat xs => fitInt (etSigned t) (etBits t) sat (xs.foldl (· + ·) 0)) s

/-- VRMIN: the least element (R108). -/
def execVrmin (h : BitVec 2) (d a : BitVec 7) (s : State) : StepOut :=
  vecReduce (encode (.vrmin h d a)) d a (fun t _ xs => wrapTo (etBits t) (extreme false xs)) s

/-- VRMAX: the greatest element (R108). -/
def execVrmax (h : BitVec 2) (d a : BitVec 7) (s : State) : StepOut :=
  vecReduce (encode (.vrmax h d a)) d a (fun t _ xs => wrapTo (etBits t) (extreme true xs)) s

/-- VSCAN: each lane takes Fit of the exact sum over the active lanes up to it (R108). -/
def execVscan (h : BitVec 2) (d a : BitVec 7) (s : State) : StepOut :=
  issueWord (encode (.vscan h d a)) (Form.mk0 [opV d.toNat, opV a.toNat] (some setA) .refused false)
    (fun is => is.putLanes d.toNat is.n (fun l =>
      packElems (etBits is.et)
        (fun k => fitInt (etSigned is.et) (etBits is.et) is.sat
          (((lanesOf is.act).filter (fun m => decide (m ≤ l))).foldl
            (fun x m => x + elemI is.et k (vregs is.g a.toNat m is.n)) 0)) (etCount is.et))) s

end Sys2Proof.Machine
end

