-- ==== Sys2Proof/Machine/VecFloat.lean ====
section
/-! DEFINITION. Class 3: the vector float instructions and the A96 cells of a group (R109 to R118). -/

namespace Sys2Proof.Machine

/-- The type set F of R109. -/
def setF : List ET := [.f32, .f16x2, .bf16x2]

/-- The format of the elements under an accepted type. -/
def fmtOf (t : ET) : FFmt := (etFloat t).getD .f32

/-- The exact value of element `k` under a type: integers by value (R117). -/
def elemV (t : ET) (k x : Nat) : FVal :=
  match etFloat t with
  | some f => fDecode f (elemU (etBits t) k x)
  | none => fOfInt (elemI t k x)

/-- Element by element on a float type: `f` takes the format and the encodings. -/
def mapF2 (t : ET) (f : FFmt → Nat → Nat → Nat) (a b : Nat) : Nat :=
  packElems (etBits t) (fun k => f (fmtOf t) (elemU (etBits t) k a) (elemU (etBits t) k b)) (etCount t)

/-- A two-operand arithmetic instruction of class 3, given by its exact value on A.e, B.e and the old D.e,
rounded once (R109, R111). -/
def floatBin (w : Word) (d a b : BitVec 7) (f : RMode → FVal → FVal → FVal → FVal) (s : State) : StepOut :=
  issueWord w (formVb [opV d.toNat, opV a.toNat, opV b.toNat] setF b)
    (fun is => is.putLanes d.toNat is.n (fun l =>
      packElems (etBits is.et) (fun k => roundVal (fmtOf is.et) is.rm is.sat
        (f is.rm (elemV is.et k (vregs is.g a.toNat l is.n)) (elemV is.et k (is.vb b.toNat is.n l))
          (elemV is.et k (vregs is.g d.toNat l is.n)))) (etCount is.et))) s

/-- An instruction of class 3 on encodings: `f` takes the issue, the format and the encodings of A.e and
B.e. -/
def floatEnc (w : Word) (d a b : BitVec 7) (f : Issue → FFmt → Nat → Nat → Nat) (s : State) : StepOut :=
  issueWord w (formVb [opV d.toNat, opV a.toNat, opV b.toNat] setF b)
    (fun is => is.putLanes d.toNat is.n (fun l =>
      mapF2 is.et (f is) (vregs is.g a.toNat l is.n) (is.vb b.toNat is.n l))) s

/-- A one-operand instruction of class 3 on encodings. -/
def floatUn (w : Word) (d a : BitVec 7) (f : Issue → FFmt → Nat → Nat) (s : State) : StepOut :=
  issueWord w (Form.mk0 [opV d.toNat, opV a.toNat] (some setF) .refused false)
    (fun is => is.putLanes d.toNat is.n (fun l =>
      mapF2 is.et (fun ff x _ => f is ff x) (vregs is.g a.toNat l is.n) 0)) s

/-- A compare of class 3 (R113). -/
def floatCmp (w : Word) (d a b : BitVec 7) (r : FVal → FVal → Bool) (s : State) : StepOut :=
  issueWord w (formVb [opP d.toNat, opV a.toNat, opV b.toNat] setF b)
    (fun is => is.put (setPreg is.g is.act d.toNat (maskOf (fun l =>
      (List.range (etCount is.et)).all (fun k =>
        r (elemV is.et k (vregs is.g a.toNat l is.n)) (elemV is.et k (is.vb b.toNat is.n l))))))) s

/-- FADD: A.e + B.e (R111). -/
def execFadd (h : BitVec 2) (d a b : BitVec 7) (s : State) : StepOut :=
  floatBin (encode (.fadd h d a b)) d a b (fun m x y _ => fAddV m x y) s

/-- FSUB: A.e − B.e (R111). -/
def execFsub (h : BitVec 2) (d a b : BitVec 7) (s : State) : StepOut :=
  floatBin (encode (.fsub h d a b)) d a b (fun m x y _ => fAddV m x (fNegV y)) s

/-- FMUL: A.e × B.e (R111). -/
def execFmul (h : BitVec 2) (d a b : BitVec 7) (s : State) : StepOut :=
  floatBin (encode (.fmul h d a b)) d a b (fun _ x y _ => fMulV x y) s

/-- FMA: A.e × B.e + D.e (R111). -/
def execFma (h : BitVec 2) (d a b : BitVec 7) (s : State) : StepOut :=
  floatBin (encode (.fma h d a b)) d a b (fun m x y z => fAddV m (fMulV x y) z) s

/-- FMS: A.e × B.e − D.e (R111). -/
def execFms (h : BitVec 2) (d a b : BitVec 7) (s : State) : StepOut :=
  floatBin (encode (.fms h d a b)) d a b (fun m x y z => fAddV m (fMulV x y) (fNegV z)) s

/-- FNMA: −(A.e × B.e) + D.e (R111). -/
def execFnma (h : BitVec 2) (d a b : BitVec 7) (s : State) : StepOut :=
  floatBin (encode (.fnma h d a b)) d a b (fun m x y z => fAddV m (fNegV (fMulV x y)) z) s

/-- FMIN (R112). -/
def execFmin (h : BitVec 2) (d a b : BitVec 7) (s : State) : StepOut :=
  floatEnc (encode (.fmin h d a b)) d a b (fun _ f x y => fMinMax f false x y) s

/-- FMAX (R112). -/
def execFmax (h : BitVec 2) (d a b : BitVec 7) (s : State) : StepOut :=
  floatEnc (encode (.fmax h d a b)) d a b (fun _ f x y => fMinMax f true x y) s

/-- FABS: clears the sign bit (R112). -/
def execFabs (h : BitVec 2) (d a : BitVec 7) (s : State) : StepOut :=
  floatUn (encode (.fabs h d a)) d a (fun _ f x => x % 2 ^ (fBits f - 1)) s

/-- FNEG: inverts the sign bit (R112). -/
def execFneg (h : BitVec 2) (d a : BitVec 7) (s : State) : StepOut :=
  floatUn (encode (.fneg h d a)) d a (fun _ f x => x ^^^ 2 ^ (fBits f - 1)) s

/-- FCMPEQ (R113). -/
def execFcmpeq (h : BitVec 2) (d a b : BitVec 7) (s : State) : StepOut :=
  floatCmp (encode (.fcmpeq h d a b)) d a b fEq s

/-- FCMPLT (R113). -/
def execFcmplt (h : BitVec 2) (d a b : BitVec 7) (s : State) : StepOut :=
  floatCmp (encode (.fcmplt h d a b)) d a b fLt s

/-- FCMPLE (R113). -/
def execFcmple (h : BitVec 2) (d a b : BitVec 7) (s : State) : StepOut :=
  floatCmp (encode (.fcmple h d a b)) d a b (fun x y => fLt x y || fEq x y) s

/-- FCMPUN (R113). -/
def execFcmpun (h : BitVec 2) (d a b : BitVec 7) (s : State) : StepOut :=
  floatCmp (encode (.fcmpun h d a b)) d a b (fun x y => fIsNaN x || fIsNaN y) s

/-- FDIV: A.e ÷ B.e (R111). -/
def execFdiv (h : BitVec 2) (d a b : BitVec 7) (s : State) : StepOut :=
  floatEnc (encode (.fdiv h d a b)) d a b (fun is f x y => fDiv f is.rm is.sat (fDecode f x) (fDecode f y)) s

/-- FSQRT (R114). -/
def execFsqrt (h : BitVec 2) (d a : BitVec 7) (s : State) : StepOut :=
  floatUn (encode (.fsqrt h d a)) d a (fun is f x => fFun1 .sqrt f is.rm is.sat x) s

/-- FRCP (R114). -/
def execFrcp (h : BitVec 2) (d a : BitVec 7) (s : State) : StepOut :=
  floatUn (encode (.frcp h d a)) d a (fun is f x => fFun1 .rcp f is.rm is.sat x) s

/-- FRSQ (R114). -/
def execFrsq (h : BitVec 2) (d a : BitVec 7) (s : State) : StepOut :=
  floatUn (encode (.frsq h d a)) d a (fun is f x => fFun1 .rsq f is.rm is.sat x) s

/-- FEXP2 (R114). -/
def execFexp2 (h : BitVec 2) (d a : BitVec 7) (s : State) : StepOut :=
  floatUn (encode (.fexp2 h d a)) d a (fun is f x => fFun1 .exp2 f is.rm is.sat x) s

/-- FLOG2 (R114). -/
def execFlog2 (h : BitVec 2) (d a : BitVec 7) (s : State) : StepOut :=
  floatUn (encode (.flog2 h d a)) d a (fun is f x => fFun1 .log2 f is.rm is.sat x) s

/-- FSIN (R114). -/
def execFsin (h : BitVec 2) (d a : BitVec 7) (s : State) : StepOut :=
  floatUn (encode (.fsin h d a)) d a (fun is f x => fFun1 .sin f is.rm is.sat x) s

/-- FCOS (R114). -/
def execFcos (h : BitVec 2) (d a : BitVec 7) (s : State) : StepOut :=
  floatUn (encode (.fcos h d a)) d a (fun is f x => fFun1 .cos f is.rm is.sat x) s

/-- FTANH (R114). -/
def execFtanh (h : BitVec 2) (d a : BitVec 7) (s : State) : StepOut :=
  floatUn (encode (.ftanh h d a)) d a (fun is f x => fFun1 .tanh f is.rm is.sat x) s

/-- FCLASS: the class mask of each element (R115). -/
def execFclass (h : BitVec 2) (d a : BitVec 7) (s : State) : StepOut :=
  floatUn (encode (.fclass h d a)) d a (fun _ f x => fClass f x) s

/-- FRINT: an integer value in the same format (R115). -/
def execFrint (h : BitVec 2) (d a : BitVec 7) (s : State) : StepOut :=
  floatUn (encode (.frint h d a)) d a (fun is f x => fRint f is.rm x) s

/-- Comb of R116. -/
def treeComb (f : FFmt) (md : RMode) (sat : Bool) (x y : Option Nat) : Option Nat :=
  match x, y with
  | none, y => y
  | x, none => x
  | some x, some y => some (roundVal f md sat (fAddV md (fDecode f x) (fDecode f y)))

/-- One level of the tree of R116. -/
def treeLevel (comb : Option Nat → Option Nat → Option Nat) : List (Option Nat) → List (Option Nat)
  | [] => []
  | [x] => [x]
  | x :: y :: r => comb x y :: treeLevel comb r

/-- The five levels of R116 over 32 leaves. -/
def treeReduce (comb : Option Nat → Option Nat → Option Nat) (l : List (Option Nat)) : Option Nat :=
  ((treeLevel comb (treeLevel comb (treeLevel comb (treeLevel comb (treeLevel comb l))))).headD none)

/-- FRADD: the fixed tree over the active lanes; a NaN result is canonical (R116). -/
def execFradd (h : BitVec 2) (d a : BitVec 7) (s : State) : StepOut :=
  issueWord (encode (.fradd h d a)) (Form.mk0 [opV d.toNat, opV a.toNat] (some setF) .refused false)
    (fun is =>
      let f := fmtOf is.et
      let r := packElems (etBits is.et) (fun k =>
        let x := (treeReduce (treeComb f is.rm is.sat) ((List.range 32).map (fun l =>
          if is.act.getLsbD l then some (elemU (etBits is.et) k (vregs is.g a.toNat l is.n)) else none))).getD 0
        if fIsNaN (fDecode f x) then fNaN f else x) (etCount is.et)
      is.putLanes d.toNat is.n (fun _ => r)) s

/-- The types FDOTA accepts (R117). -/
def setDot : List ET := [.f32, .f16x2, .bf16x2, .e4m3x4, .e5m2x4, .i8x4, .ui8x4, .i4x8]

/-- FDOTA: adds the exact products of the elements to the cell of d, with slot 0's L (R117). -/
def execFdota (h : BitVec 2) (d a b : BitVec 7) (s : State) : StepOut :=
  issueWord (encode (.fdota h d a b)) (formVb [opCell d.toNat, opV a.toNat, opV b.toNat] setDot b)
    (fun is =>
      let l0 := fsL (is.slotWord 0 0)
      is.putLanes d.toNat 4 (fun l =>
        cellBits ((List.range (etCount is.et)).foldl (fun c k =>
          a96Add l0 c (fMulV (elemV is.et k (vregs is.g a.toNat l 1)) (elemV is.et k (is.vb b.toNat 1 l))))
          (cellOf (vregs is.g d.toNat l 4))))) s

/-- AADD: the merge of two cells (R118). -/
def execAadd (h : BitVec 2) (d a b : BitVec 7) (s : State) : StepOut :=
  issueWord (encode (.aadd h d a b))
    (Form.mk0 [opV d.toNat, opV a.toNat, opV b.toNat] (some [.a96]) .refused false)
    (fun is => is.putLanes d.toNat 4 (fun l =>
      cellBits (a96Merge (cellOf (vregs is.g a.toNat l 4)) (cellOf (vregs is.g b.toNat l 4))))) s

/-- AREDA: the merge of the cells of every active lane (R118). -/
def execAreda (h : BitVec 2) (d a : BitVec 7) (s : State) : StepOut :=
  issueWord (encode (.areda h d a)) (Form.mk0 [opV d.toNat, opV a.toNat] (some [.a96]) .refused false)
    (fun is =>
      let c := (lanesOf is.act).foldl (fun c l => a96Merge c (cellOf (vregs is.g a.toNat l 4))) Cell.zero
      is.putLanes d.toNat 4 (fun _ => cellBits c)) s

end Sys2Proof.Machine
end

