-- ==== Sys2Proof/Machine/Convert.lean ====
section
/-! DEFINITION. Class 4: conversion, packing, quantisation, rotation and A96 drain (R85 to R93). -/

namespace Sys2Proof.Machine

/-! ## Runs (R85) -/

/-- The registers that a side with `n` elements per lane takes when the other has `m`. -/
def runRegs (n m : Nat) : Nat := max n m / n

/-- Whether a run of `k` registers starts at a multiple of `k` and is held (R85). -/
def runOk (g : Group) (base k : Nat) : Bool :=
  decide (base % k = 0) && decide (base + k ≤ 32 + 32 * g.held)

/-- The numbers of a run. -/
def runList (base k : Nat) : List Nat := (List.range k).map (· + base)

/-- A conversion from a run at `a` of elements of `ws` bits to a run at `d` of elements of `wd` bits, on
the active lanes: element e of a run is bits [w·e + w − 1 : w·e] of its registers taken together. -/
def convertRuns (is : Issue) (d a ws wd : Nat) (f : Nat → Nat) : Eff :=
  let ns := 32 / ws
  let nd := 32 / wd
  is.putLanes d (runRegs nd ns) (fun l =>
    let x := vregs is.g a l (runRegs ns nd)
    packElems wd (fun e => f (elemU ws e x)) (max ns nd))

/-- The form of a conversion: `rd` and `ra` give the run lengths of d and a. -/
def formConv (d a : BitVec 7) (ets : List ET) (bad : Issue → Bool) (rd ra : Issue → Nat) : Form :=
  { Form.mk0 [opV1 d.toNat, opV1 a.toNat] (some ets) .ignored false with
    bad := bad
    runs := fun is => !(runOk is.g d.toNat (rd is)) || !(runOk is.g a.toNat (ra is))
    touch := fun is => runList d.toNat (rd is) ++ runList a.toNat (ra is) }

/-- The type sets of CVT and CVTI (R86). -/
def setCvt : List ET := [.f32, .f16x2, .bf16x2, .e4m3x4, .e5m2x4]
def setCvti : List ET := [.i32, .ui32, .i16x2, .ui16x2, .i8x4, .ui8x4, .f32, .f16x2, .bf16x2]

/-- Whether a type's elements are integers. -/
def etIsInt : ET → Bool
  | .i32 | .ui32 | .i16x2 | .ui16x2 | .i8x4 | .ui8x4 | .i64 | .i4x8 => true
  | _ => false

/-- The run lengths of a conversion from type `t` to type `to` on the two sides. -/
def cvtRegs (t dt : ET) : Nat := runRegs (etCount t) (etCount dt)

/-- CVT: float to float, exact or narrowed by R74 (R86); a reserved `to` is found before the type (log 43). -/
def execCvt (t : BitVec 4) (d a : BitVec 7) (s : State) : StepOut :=
  let dt := (etOfCode t.toNat).getD .a96
  issueWord (encode (.cvt t d a))
    (formConv d a setCvt (fun _ => !(setCvt.contains dt)) (fun is => cvtRegs dt is.et) (fun is => cvtRegs is.et dt))
    (fun is => convertRuns is d.toNat a.toNat (etBits is.et) (etBits dt)
      (fun x => narrowF (fmtOf dt) is.sat (fDecode (fmtOf is.et) x))) s

/-- One element of CVTI (R86). -/
def cvtiElem (t dt : ET) (md : RMode) (sat : Bool) (x : Nat) : Nat :=
  match etFloat t, etFloat dt with
  | some f, none => narrowI (etSigned dt) (etBits dt) md sat (fDecode f x)
  | none, some f => roundVal f md false (fOfInt (elemI t 0 x))
  | none, none => fitInt (etSigned dt) (etBits dt) sat (elemI t 0 x)
  | some f, some f' => narrowF f' sat (fDecode f x)

/-- CVTI: conversions with an integer side (R86); a reserved `to` is found before the type (log 43). -/
def execCvti (t : BitVec 4) (d a : BitVec 7) (s : State) : StepOut :=
  let dt := (etOfCode t.toNat).getD .a96
  issueWord (encode (.cvti t d a))
    (formConv d a setCvti (fun is => !(setCvti.contains dt) || (!(etIsInt is.et) && !(etIsInt dt)))
      (fun is => cvtRegs dt is.et) (fun is => cvtRegs is.et dt))
    (fun is => convertRuns is d.toNat a.toNat (etBits is.et) (etBits dt)
      (fun x => cvtiElem is.et dt is.rm is.sat x)) s

/-! ## Packing (R87) -/

/-- The types of PACK and UNPK (R87). -/
def setPack : List ET :=
  [.i16x2, .ui16x2, .i8x4, .ui8x4, .f16x2, .bf16x2, .e4m3x4, .e5m2x4, .i4x8, .cb4x8]

/-- PACK: the even elements of a, then those of b (R87). -/
def execPack (h : BitVec 2) (d a b : BitVec 7) (s : State) : StepOut :=
  vecBin (encode (.pack h d a b)) setPack d a b
    (fun t _ x y _ =>
      let w := etBits t
      let n := etCount t / 2
      packElems w (fun k => if k < n then elemU w (2 * k) x else elemU w (2 * (k - n)) y) (2 * n)) s

/-- UNPK: the low elements of a and b, interleaved (R87). -/
def execUnpk (h : BitVec 2) (d a b : BitVec 7) (s : State) : StepOut :=
  vecBin (encode (.unpk h d a b)) setPack d a b
    (fun t _ x y _ =>
      let w := etBits t
      packElems w (fun k => if k % 2 = 0 then elemU w (k / 2) x else elemU w (k / 2) y) (etCount t)) s

/-! ## Quantisation (R88) -/

/-- The codebook of a format slot (R79). -/
def codebook (is : Issue) (k : Nat) : List FVal :=
  (List.range 16).map (fun i => fDecode .bf16 ((is.slotWord k (2 + i / 4)).toNat / 2 ^ (16 * (i % 4)) % 2 ^ 16))

/-- The packed format that QNT and DQNT use: WFMT or AFMT of the slot (R88). -/
def qCode (is : Issue) (k : Nat) (w : BitVec 1) : Nat :=
  if w = 1 then fsWFMT (is.slotWord k 0) else fsAFMT (is.slotWord k 0)

/-- Encode_q of R88. -/
def encodeQ (cb : List FVal) (sat : Bool) (code : Nat) (x : FVal) : Nat :=
  if code = 4 then cbEncode cb x
  else
    match dfmtOfCode code with
    | .flt f => narrowF f sat x
    | .int w => narrowI true w .rne sat x

/-- Decode_q of R88. -/
def decodeQ (cb : List FVal) (code x : Nat) : FVal :=
  if code = 4 then cb.getD x .nan
  else
    match dfmtOfCode code with
    | .flt f => fDecode f x
    | .int w => fOfInt (signedOf w x)

/-- QNT: Encode_q(x · 2^k) (R88). -/
def execQnt (slot : BitVec 3) (w : BitVec 1) (k : BitVec 5) (d a : BitVec 7) (s : State) : StepOut :=
  let nq (is : Issue) := 32 / codeBits (qCode is slot.toNat w)
  issueWord (encode (.qnt slot w k d a))
    (formConv d a setF (fun _ => false) (fun is => runRegs (nq is) (etCount is.et)) (fun is => runRegs (etCount is.et) (nq is)))
    (fun is =>
      let code := qCode is slot.toNat w
      convertRuns is d.toNat a.toNat (etBits is.et) (codeBits code)
        (fun x => encodeQ (codebook is slot.toNat) is.sat code (fScale k.toInt (fDecode (fmtOf is.et) x)))) s

/-- DQNT: Narrow_ET(Decode_q(x) · 2^k) (R88). -/
def execDqnt (slot : BitVec 3) (w : BitVec 1) (k : BitVec 5) (d a : BitVec 7) (s : State) : StepOut :=
  let nq (is : Issue) := 32 / codeBits (qCode is slot.toNat w)
  issueWord (encode (.dqnt slot w k d a))
    (formConv d a setF (fun _ => false) (fun is => runRegs (etCount is.et) (nq is)) (fun is => runRegs (nq is) (etCount is.et)))
    (fun is =>
      let code := qCode is slot.toNat w
      convertRuns is d.toNat a.toNat (codeBits code) (etBits is.et)
        (fun x => narrowF (fmtOf is.et) is.sat (fScale k.toInt (decodeQ (codebook is slot.toNat) code x)))) s

/-! ## Rotation (R89) -/

/-- HADR and HADI (R89): the 64 elements of a, read in all 32 lanes, go through `f` and are narrowed into
the active lanes of d. -/
def rotateBlock (w : Word) (slot : BitVec 3) (bi : BitVec 5) (d a : BitVec 7)
    (f : DWord → DWord → List FVal → List FVal) (s : State) : StepOut :=
  let pair (is : Issue) := decide (is.et = .f32)
  let bad (is : Issue) (r : BitVec 7) : Bool := pair is && !(runOk is.g r.toNat 2)
  issueWord w
    { Form.mk0 [opV1 d.toNat, opV1 a.toNat, opS bi.toNat] (some setF) .ignored false with
      bad := fun is => bad is d || bad is a
      touch := fun is => if pair is then [d.toNat + 1, a.toNat + 1] else [] }
    (fun is =>
      let ff := fmtOf is.et
      let x := (List.range 64).map (fun e =>
        fDecode ff (if pair is then (vreg is.g (a.toNat + e / 32) (e % 32)).toNat
          else elemU 16 (e % 2) (vreg is.g a.toNat (e / 2)).toNat))
      let y := f (is.slotWord slot.toNat 1) (sreg is.g bi.toNat) x
      let out (e : Nat) : Nat := narrowF ff is.sat (y.getD e .nan)
      if pair is then is.putLanes d.toNat 2 (fun l => out l + 2 ^ 32 * out (l + 32))
      else is.putLanes d.toNat 1 (fun l => out (2 * l) + 2 ^ 16 * out (2 * l + 1))) s

/-- HADR (R89). -/
def execHadr (slot : BitVec 3) (b : BitVec 5) (d a : BitVec 7) (s : State) : StepOut :=
  rotateBlock (encode (.hadr slot b d a)) slot b d a rotate s

/-- HADI (R89). -/
def execHadi (slot : BitVec 3) (b : BitVec 5) (d a : BitVec 7) (s : State) : StepOut :=
  rotateBlock (encode (.hadi slot b d a)) slot b d a unrotate s

/-! ## AMAX (R90) -/

/-- The types AMAX accepts (R90). -/
def setAmax : List ET := [.i32, .i16x2, .i8x4, .f32, .f16x2, .bf16x2]

/-- The magnitude of an element as AMAX compares it; a NaN is ignored (R90). -/
def amaxElem (t : ET) (x : Nat) : Option Nat :=
  match etFloat t with
  | some f => if fIsNaN (fDecode f x) then none else some (x % 2 ^ (etBits t - 1))
  | none => some (signedOf (etBits t) x).natAbs

/-- AMAX: the largest magnitude over a and b in the active lanes (R90). -/
def execAmax (h : BitVec 2) (d a b : BitVec 7) (s : State) : StepOut :=
  issueWord (encode (.amax h d a b)) (formVb [opV d.toNat, opV a.toNat, opV b.toNat] setAmax b)
    (fun is =>
      let elems := (lanesOf is.act).flatMap (fun l =>
        (List.range (etCount is.et)).flatMap (fun k =>
          [elemU (etBits is.et) k (vregs is.g a.toNat l 1), elemU (etBits is.et) k (is.vb b.toNat 1 l)]))
      let m : Nat :=
        match elems.filterMap (amaxElem is.et) with
        | [] => fNaN (fmtOf is.et)
        | x :: r => r.foldl max x
      is.putLanes d.toNat 1 (fun _ => packElems (etBits is.et) (fun _ => m) (etCount is.et))) s

/-! ## Cells (R91, R92) and format slots (R93) -/

/-- ADRN: drains the cell of a into d, scaled by bf16 D[15:0] when sc = 1 (R91). -/
def execAdrn (slot : BitVec 3) (c : BitVec 1) (d a : BitVec 7) (s : State) : StepOut :=
  issueWord (encode (.adrn slot c d a)) (Form.mk0 [opV1 d.toNat, opVn a.toNat 4] none .ignored false)
    (fun is =>
      let w := is.slotWord slot.toNat 0
      is.putLanes d.toNat 1 (fun l =>
        a96Drain (fsL w) (fsDSH w) (fsDSAT w) (dfmtOfCode (fsDFMT w)) (cellOf (vregs is.g a.toNat l 4))
          (if c = 1 then fDecode .bf16 ((vreg is.g d.toNat l).toNat % 2 ^ 16) else .fin false 1 0))) s

/-- The types AFROM accepts (R92). -/
def setAfrom : List ET := [.i32, .ui32, .f32, .f16x2, .bf16x2]

/-- AFROM: the cell of one value (R92). -/
def execAfrom (slot : BitVec 3) (e : BitVec 1) (d a : BitVec 7) (s : State) : StepOut :=
  issueWord (encode (.afrom slot e d a))
    { Form.mk0 [opCell d.toNat, opV a.toNat] (some setAfrom) .ignored false with
      rsv := fun is => decide (e = 1) && [ET.i32, .ui32, .f32].contains is.et }
    (fun is =>
      let l0 := fsL (is.slotWord slot.toNat 0)
      is.putLanes d.toNat 4 (fun l =>
        cellBits (a96Add l0 Cell.zero (elemV is.et (if etCount is.et = 2 then e.toNat else 0) (vregs is.g a.toNat l 1))))) s

/-- FSLT: a word of the block's copy of a format slot (R93). -/
def execFslt (d : BitVec 7) (w slot : BitVec 3) (s : State) : StepOut :=
  issueWord (encode (.fslt d w slot)) (Form.mk0 [opS d.toNat] none .refused true)
    (fun is => is.putS d.toNat (is.slotWord slot.toNat w.toNat)) s

end Sys2Proof.Machine
end

