-- ==== Sys2Proof/Machine/Rmw.lean ====
section
/-! DEFINITION. What a read-modify-write computes (R288, R289), on `n`-byte words as numbers. -/

namespace Sys2Proof.Machine

/-- One element of AMOFADD: RoundRNE(old.e + D.e) with the special cases of R111. -/
def rmwFAdd (f : FFmt) (x y : Nat) : Nat := roundVal f .rne false (fAddV .rne (fDecode f x) (fDecode f y))

/-- AMOFADD over `k` elements of a format. -/
def rmwFAdds (f : FFmt) (k old a : Nat) : Nat :=
  packElems (fBits f) (fun i => rmwFAdd f (elemU (fBits f) i old) (elemU (fBits f) i a)) k

/-- Op(old, D) of R288 and the compare and swap of R289, by operation: 0 add, 1 and 2 signed minimum and
maximum, 3 and 4 unsigned, 5 and, 6 or, 7 xor, 8 swap, 9 float add of f32, 10 A96 merge, 11 compare and swap
(`a` expected, `b` new), 12 float add of f16x2, 13 of bf16x2. -/
def rmw (op n old a b : Nat) : Nat :=
  let w := 8 * n
  match op with
  | 0 => (old + a) % 2 ^ w
  | 1 => if signedOf w a < signedOf w old then a else old
  | 2 => if signedOf w old < signedOf w a then a else old
  | 3 => if a < old then a else old
  | 4 => if old < a then a else old
  | 5 => Nat.land old a
  | 6 => Nat.lor old a
  | 7 => Nat.xor old a
  | 8 => a
  | 9 => rmwFAdds .f32 1 old a
  | 10 => cellBits (a96Merge (cellOf old) (cellOf a))
  | 11 => if old = a then b else old
  | 12 => rmwFAdds .f16 2 old a
  | _ => rmwFAdds .bf16 2 old a

end Sys2Proof.Machine
end

