-- ==== Sys2Proof/Machine/Windows.lean ====
section
/-! DEFINITION. Operators and trusses: their windows, grants and entries (R294 to R309), passes and their steps
(R299, R300, R308, R318, R320 to R327), and the answers to requests of other agents (R421, R427, R431). -/

namespace Sys2Proof.Machine

/-! ## Answers to other agents -/

/-- Why a request of another agent fails at its owner (R421, R427). -/
inductive InFail where
  | notMapped | permission | refused | unresolvable | tdi | secondStage | revoked
deriving DecidableEq, Repr

/-- The code of PCERR (R421) and the answer of R427. -/
def InFail.hostCode : InFail → Nat
  | .notMapped => 1 | .permission => 2 | .refused => 3 | .unresolvable => 4 | .tdi => 5 | .secondStage => 1 | .revoked => 1
def InFail.nodeCode : InFail → Nat
  | .notMapped => 1 | .permission => 2 | .refused => 2 | .unresolvable => 1 | .tdi => 2 | .secondStage => 2 | .revoked => 3

/-- Records a failed host access in PCERR of a function: the first failure since the last clear keeps its code
and address (R421). -/
def pcerrAdd (s : State) (fn code : Nat) (addr : DWord) : State :=
  let w := mget s.pcerr fn
  let n := w.toNat / 2 ^ 48 % 2 ^ 15
  if n = 0 then
    { s with pcerr := mset s.pcerr fn (BitVec.ofNat 64 (2 ^ 48 + code)), pcerrAddr := mset s.pcerrAddr fn addr }
  else { s with pcerr := mset s.pcerr fn (BitVec.ofNat 64 (min (n + 1) (2 ^ 15 - 1) * 2 ^ 48 + w.toNat % 2 ^ 48)) }

/-- Answers a host access through the window of partition `p` at host address `hpa` (R421). -/
def answerHost (s : State) (p : Nat) (hpa : DWord) (load : Bool) (f : Option InFail) (poison : Bool) (data : Nat) : State :=
  match f with
  | none => sendMsg s (.host p (if poison then 9 else 0) (BitVec.ofNat 512 data))
  | some f =>
    let s := pcerrAdd s p f.hostCode hpa
    if load then sendMsg s (.host p f.hostCode (BitVec.allOnes 512)) else sendMsg s (.host p f.hostCode 0)

/-- Answers a request of another agent: done with data, or failed. -/
def answerReq (s : State) (r : InReq) (f : Option InFail) (poison : Bool) (data : Nat) : State :=
  let load := decide (r.kind ≠ .wr) && decide (r.kind ≠ .ntf)
  match r.origin with
  | .host p => answerHost s p (BitVec.ofNat 64 r.a.toNat) load f poison data
  | .node n =>
    match f with
    | none => sendMsg s (.urradAns n 0 poison (BitVec.ofNat 1024 data))
    | some f => sendMsg s (.urradAns n f.nodeCode false 0)
  | .hart h reg => hartAnswer s h reg r.addr (f.isNone && !poison) load data

/-- Answers a request that was waiting at its owner. -/
def answerIn (s : State) (id : Nat) (f : Option InFail) (poison : Bool) (data : Nat) : State :=
  match tget s.inreqs id with
  | none => s
  | some r => answerReq { s with inreqs := tdel s.inreqs id } r f poison data

/-! ## Geometry (R292 to R294) -/

/-- K′ and N′ (R292). -/
def opK (o : Oper) : Nat := if o.trans then o.n else o.k
def opN (o : Oper) : Nat := if o.trans then o.k else o.n

/-- Bits of an input element (R294). -/
def opAw (o : Oper) : Nat :=
  let w := o.slot.getD 0 0
  if fsROT w then 16 else match fsAFMT w with
    | 1 => 4
    | 5 => 16
    | _ => 8

/-- A size rounded up to 16, then to a power of two (R294). -/
def powerUp (n : Nat) : Nat :=
  let m := (n + 15) / 16 * 16
  if 2 ^ Nat.log2 m = m then m else 2 ^ (Nat.log2 m + 1)

/-- Used input bytes, input stride, result element size and result stride (R294). -/
def opUb (o : Oper) : Nat := (opK o * opAw o + 7) / 8
def opIES (o : Oper) : Nat := powerUp (opUb o)
def opResElem (o : Oper) : Nat := if o.raw then 16 else codeBits (fsDFMT (o.slot.getD 0 0)) / 8
def opRES (o : Oper) : Nat := powerUp (opN o * opResElem o)

/-- Where a byte of a handle's region lies: in an input or a result window, the entry and the byte within it. -/
structure WinAt where
  input : Bool
  entry : Nat
  byte : Nat
deriving DecidableEq, Repr

/-- The entry under a window offset; nothing beyond W × S entries, and nothing in the region of a truss
member's index (R294, R319). -/
def winAt (o : Oper) (off : Nat) : Option WinAt :=
  let r := off % 0x100000
  let input := decide (r < 0x80000)
  let str := if input then opIES o else opRES o
  let x := r % 0x80000
  if o.root.isSome ∨ o.w * o.s ≤ x / str then none
  else some { input := input, entry := x / str, byte := x % str }

/-- An entry after bind (R297, R301). -/
def Entry.empty : Entry := { q := 0, r := false, fill := [], staged := [], result := [] }

/-- Entry `i` of an operator. -/
def entryOf (o : Oper) (i : Nat) : Entry := (tget o.entries i).getD Entry.empty

/-- Replaces entry `i` of operator `key`. -/
def setEntry (s : State) (key i : Nat) (e : Entry) : State :=
  { s with ops := tmod s.ops key (fun o => { o with entries := tset o.entries i e }) }

/-! ## Grants (R305, R306) -/

/-- The source class of a requester toward an operator (R305). -/
def srcClass (key : Nat) (o : Oper) (w : Who) : Nat :=
  if w.cls ≠ 0 then w.cls
  else if w.blk = some o.blk then 0
  else if w.die = key / 64 / 128 % 4 then 1 else 2

/-- Whether a request matches the grant of a writer slot (R306). -/
def grantOk (key : Nat) (o : Oper) (slot : Nat) (w : Who) : Bool :=
  let g := o.grants.getD slot 0
  let k := srcClass key o w
  g.getLsbD 63 && decide (w.part = o.part) && g.getLsbD (32 + k)
    && (g.getLsbD 10 || decide (g.toNat % 1024 = w.ctx))
    && (decide (k ≠ 3) || decide (g.toNat / 2 ^ 42 % 512 = w.node) || decide (g.toNat / 2 ^ 42 % 512 = 0x1FF))

/-- Whether an agent may read a result entry (R306). -/
def readOk (key : Nat) (o : Oper) (slot : Nat) (w : Who) : Bool :=
  decide (w.cls = 0 ∧ w.blk = some o.blk) || grantOk key o slot w

/-! ## Passes (R299, R302, R307, R321) -/

/-- The tile size of a deck and the tiles of a share (R293). -/
def opTile (o : Oper) : Nat := tileBytes (fsWFMT (o.slot.getD 0 0))
def shareKT (o : Oper) : Nat := (o.sk + 127) / 128
def shareNT (o : Oper) : Nat := (o.sn + 63) / 64

/-- The codebook of a slot copy (R81). -/
def slotCodebook (slot : List DWord) : List FVal :=
  (List.range 16).map (fun i => fDecode .bf16 ((slot.getD (2 + i / 4) 0).toNat / 2 ^ (16 * (i % 4)) % 2 ^ 16))

/-- Element `i` of packed bytes of a format (R183, R299). -/
def packedVal (code : Nat) (cb : List FVal) (bytes : Nat → Nat) (i : Nat) : FVal :=
  let w := codeBits code
  let x := if w = 4 then bytes (i / 2) / 16 ^ (i % 2) % 16
    else if w = 8 then bytes i else bytes (2 * i) + 256 * bytes (2 * i + 1)
  decodeQ cb code x

/-- The format of an input element: bf16 under ROT (R294). -/
def inFmt (o : Oper) : Nat := if fsROT (o.slot.getD 0 0) then 5 else fsAFMT (o.slot.getD 0 0)

/-- The captured input, rotated when the slot asks for it (R326). -/
def captureInput (o : Oper) (staged : SMap 8) : SMap 8 :=
  let raw := staged.filter (fun e => decide (e.1 < opUb o))
  if fsROT (o.slot.getD 0 0) then
    let x (i : Nat) : FVal := packedVal 5 [] (fun j => (mget raw j).toNat) i
    (List.range (opK o / 64)).foldl (fun m b =>
      let y := rotate (o.slot.getD 1 0) (BitVec.ofNat 64 b) ((List.range 64).map (fun e => x (64 * b + e)))
      (List.range 64).foldl (fun m e => msetBytes m (2 * (64 * b + e)) 2 (narrowF .bf16 false (y.getD e .nan))) m) []
  else raw

/-- Whether member `j` of a pass still holds its place in its core's reservation table (R322). -/
def passHolds (p : Pass) (j : Nat) : Bool := decide (j = 0) || !(p.arrived.contains j)

/-- The places in use in a core's reservation table (R308, R322). -/
def placesUsed (s : State) (core : Nat) : Nat :=
  s.passes.foldl (fun a p =>
    match tget s.ops p.2.op with
    | none => a
    | some o => a + ((o.members.zip (List.range o.members.length)).filter (fun m =>
        decide (m.1 / 64 = core) && passHolds p.2 m.2)).length) 0

/-- Whether every member's table has a free place (R308, R322). -/
def placesFree (s : State) (o : Oper) : Bool := o.members.all (fun m => decide (placesUsed s (m / 64) < 64))

/-- The tiles of every member of an operator. -/
def passTiles (s : State) (o : Oper) : List (Nat × Nat) :=
  (o.members.zip (List.range o.members.length)).flatMap (fun m =>
    match tget s.ops m.1 with
    | none => []
    | some x => (List.range (shareKT x * shareNT x)).map (fun t => (m.2, t)))

/-- Queues a pass on an entry whose vector is complete; a store of a group counts it in the group's op counter
(R302, R307). -/
def queuePass (s : State) (key i : Nat) (o : Oper) (e : Entry) (gid : Option Nat) : State :=
  let (pid, s) := fresh s
  let (s, owner) : State × Option (Nat × Nat) :=
    match gid with
    | none => (s, none)
    | some g =>
      let (uid, s) := fresh s
      ({ s with groups := tmod s.groups g (fun x => { x with out := x.out ++
          [{ uid := uid, cls := .op, sem := 0, regs := [], vw := [], sw := none, stores := [], zero := false, pend := 0, fin := false, sealed := false, lanes := none, rmw := false }] }) },
        some (g, uid))
  let s := setEntry s key i { e with q := e.q + 1, fill := [], staged := [] }
  let p : Pass :=
    { op := key, entry := i, input := captureInput o e.staged, poisoned := false, tiles := passTiles s o, cells := [],
      arrived := [], gid := owner, skips := [] }
  { s with passes := tset s.passes pid p }

/-! ## Input stores (R303) -/

/-- How one lane's store at an owner ends: applied, refused with a cause of R249, or held. -/
inductive WinSt where
  | ok (s : State)
  | refuse (cause : Nat)
  | held

/-- The checks and the effect of R303 for the bytes [b, b + n) of an entry; `ahead` says that an older store is held for a place in
the same reservation table. -/
def winStore (s : State) (key : Nat) (o : Oper) (at_ : WinAt) (n data : Nat) (who : Who) (ahead : Bool) : WinSt :=
  if o.st = .suspended ∨ o.st = .moving then .held
  else
    let slot := at_.entry / o.s
    let e := entryOf o at_.entry
    let b := ((List.range n).map (· + at_.byte)).filter (· < opUb o)
    if o.st = .unbinding ∨ !(grantOk key o slot who) then .refuse 6
    else if b.any (fun x => e.fill.contains x) then .refuse 9
    else
      let starts := e.fill.isEmpty && !b.isEmpty
      if starts && !o.overwrite && (decide (0 < e.q) || e.r) then .refuse 8
      else
        let void := starts && o.overwrite && e.r
        let fill := (List.range (opUb o)).filter (fun x => e.fill.contains x || b.contains x)
        let complete := decide (fill.length = opUb o)
        if complete && (ahead || !(placesFree s o)) then .held
        else
          let e := { e with
            r := if void then false else e.r
            result := if void then [] else e.result
            fill := fill
            staged := b.foldl (fun m x => mset m x (BitVec.ofNat 8 (data / 2 ^ (8 * (x - at_.byte))))) e.staged }
          let s := match who.gid with
            | some (g, _) => if void then { s with groups := tmod s.groups g (fun x => { x with opst := x.opst ||| 2 }) } else s
            | none => s
          .ok (if complete then queuePass s key at_.entry o e (who.gid.map Prod.fst) else setEntry s key at_.entry e)

/-- The owner of a window byte, its operator and the entry, when the index is not FREE. -/
def winOwner (s : State) (core off : Nat) : Option (Nat × Oper × WinAt) :=
  match winOper s core off with
  | none => none
  | some (key, o) => (winAt o off).map (fun a => (key, o, a))

/-- The store of one lane at its owner; where no input entry stands any more it is refused. -/
def laneStore (s : State) (owner : Option (Nat × Oper × WinAt)) (l : StLane) (who : Who) (ahead : Bool) : WinSt :=
  match owner with
  | some (key, o, a) => if a.input then winStore s key o a l.size l.data.toNat who ahead else .refuse 6
  | none => .refuse 6

/-- The owner of a lane's window byte now. -/
def laneOwner (s : State) (l : StLane) : Option (Nat × Oper × WinAt) :=
  match l.tgt with
  | .window c off => winOwner s c off
  | _ => none

/-- The owner that an arrival came to: the operator that was there, wherever it is now, or whoever stands there if nobody did
(R297). -/
def heldOwner (s : State) (h : HeldAcc) (l : StLane) : Option (Nat × Oper × WinAt) :=
  match h.ident, l.tgt with
  | none, _ => laneOwner s l
  | some (b, r), .window _ off =>
    (match s.ops.find? (fun o => decide (o.2.blk = b) && decide (o.2.reuse = r) && decide (o.1 % 64 = off / 0x100000) && o.2.root.isNone) with
      | some (key, o) => (winAt o off).map (fun a => (key, o, a))
      | none => none)
  | _, _ => none

/-- The entry a lane of an access names, by its owner. -/
def ownerEntry (x : Option (Nat × Oper × WinAt)) : Option (Nat × Nat) := x.map (fun y => (y.1, y.2.2.entry))

/-- The entry a lane of a window access names. -/
def laneEntry (s : State) (l : StLane) : Option (Nat × Nat) := ownerEntry (laneOwner s l)

/-- Whether an arrival at a core is a store that waits for a place in its reservation table (R303). -/
def waitsPlace (core : Nat) (h : HeldAcc) : Bool := decide (h.core = core) && !h.load && h.held

/-- Writes the bytes of a lane into its entry, whatever its checks say: later lanes are checked as after it (R303). -/
def forceLane (s : State) (l : StLane) : State :=
  match laneOwner s l with
  | some (key, o, a) =>
    let e := entryOf o a.entry
    let b := ((List.range l.size).map (· + a.byte)).filter (· < opUb o)
    let fill := (List.range (opUb o)).filter (fun x => e.fill.contains x || b.contains x)
    if fill.length = opUb o then setEntry s key a.entry { e with q := e.q + 1, fill := [], staged := [] }
    else setEntry s key a.entry { e with fill := fill }
  | none => s

/-- What the stores of a thread into windows of its own core say together: the state after all of them; the
first failing cause with the lanes that fail that check; or a stall (R303). -/
inductive LocalSt where
  | ok (s : State)
  | trap (cause : Nat) (mask : Word) (addr : DWord)
  | stall

/-- Whether the operator of an access holds every access back (R297). -/
def opHolds (owner : Option (Nat × Oper × WinAt)) : Bool :=
  match owner with
  | some (_, o, _) => decide (o.st = .suspended) || decide (o.st = .moving)
  | none => false

/-- The checks of a thread's lanes, ascending, each as after the lanes before it; a lane that fails decides a trap, and where none
does, one that would be held for a place makes the instruction stall. It stalls too while a lane cannot be checked yet, its operator
being held or an older store of its entry waiting (R297, R303). -/
def localStores (s : State) (who : Who) (ls : List StLane) : LocalSt :=
  let one (acc : State × Bool × Bool × Option (Nat × Word × DWord)) (l : StLane) : State × Bool × Bool × Option (Nat × Word × DWord) :=
    let (s, early, stall, bad) := acc
    let core := match l.tgt with
      | .window c _ => c
      | _ => 0
    let behind := s.heldAcc.any (fun h => waitsPlace core h && h.lanes.any (fun y => decide (ownerEntry (heldOwner s h y) = laneEntry s l)))
    if behind || opHolds (laneOwner s l) then (s, true, stall, bad)
    else
      match laneStore s (laneOwner s l) l who (s.heldAcc.any (waitsPlace core)) with
      | .ok t => (t, early, stall, bad)
      | .held => (forceLane s l, early, true, bad)
      | .refuse c =>
        (forceLane s l, early, stall, match bad with
          | none => some (c, laneBit l.lane, l.addr)
          | some (k, m, a) => some (k, if k = c then m ||| laneBit l.lane else m, a))
  match ls.foldl one (s, false, false, none) with
  | (_, true, _, _) => .stall
  | (_, _, _, some (c, m, a)) => .trap c m a
  | (_, _, true, none) => .stall
  | (s, _, _, none) => .ok s

/-! ## Result loads (R304) -/

/-- How a result load of one entry ends: a value of the bytes with whether ZEROABS supplied it, absent, not
readable, or a wait. -/
inductive WinLd where
  | value (data : Nat) (zero : Bool)
  | absent
  | bad
  | wait
deriving DecidableEq, Repr

def winLoad (key : Nat) (o : Oper) (at_ : WinAt) (n : Nat) (who : Who) : WinLd :=
  if o.st = .unbinding ∨ at_.input then .bad
  else if !(readOk key o (at_.entry / o.s) who) then .bad
  else if o.st = .suspended ∨ o.st = .moving then .wait
  else
    let e := entryOf o at_.entry
    if 0 < e.q then .wait
    else if e.r then .value (mbytes e.result at_.byte n) false
    else if o.zeroabs then .value 0 true else .absent

/-- The load of one lane at its owner. -/
def ownerLoad (owner : Option (Nat × Oper × WinAt)) (l : StLane) (who : Who) : WinLd :=
  match owner with
  | some (key, o, a) => winLoad key o a l.size who
  | none => .bad

/-- The load of one lane of a window here and now. -/
def laneLoad (s : State) (l : StLane) (who : Who) : WinLd := ownerLoad (laneOwner s l) l who

/-- Consumes a READY entry (R302, R304). -/
def consumeEntry (s : State) (key i : Nat) : State :=
  match tget s.ops key with
  | none => s
  | some o =>
    let e := entryOf o i
    if e.q = 0 && e.r then setEntry s key i { e with r := false, result := [] } else s

/-- Consumes the entries that some lanes read. -/
def consumeLanes (s : State) (ls : List StLane) : State :=
  (ls.filterMap (laneEntry s)).foldl (fun s x => consumeEntry s x.1 x.2) s

/-- Sets OPST.ABS of a group (R304, R317). -/
def setAbs (s : State) (gid : Nat) : State := { s with groups := tmod s.groups gid (fun x => { x with opst := x.opst ||| 1 }) }

/-! ## Arrivals at an owner -/

/-- Replaces the arrival at place `i`, or removes it. -/
def putHeld (s : State) (i : Nat) (h : Option HeldAcc) : State :=
  match h with
  | none => { s with heldAcc := s.heldAcc.eraseIdx i }
  | some h => { s with heldAcc := s.heldAcc.set i h }

/-- The entry that an arrival came to. -/
def heldEntry (s : State) (h : HeldAcc) : Option (Nat × Nat) :=
  match h.lanes with
  | [] => none
  | l :: _ => ownerEntry (heldOwner s h l)

/-- Whether two arrivals came from one group. -/
def sameGroup (x h : HeldAcc) : Bool :=
  match x.who.gid, h.who.gid with
  | some a, some b => decide (a.1 = b.1)
  | _, _ => false

/-- Whether the arrival at place `i` must wait for an earlier one of its core: a store for a store of the same entry (R303), a load
for a store of its group into the entry (R205), and whatever came to a SUSPENDED or MOVING operator for everything that came to it
before, but for what waits for a place (R297). -/
def heldBehind (s : State) (i : Nat) (h : HeldAcc) : Bool :=
  (s.heldAcc.take i).any (fun x => decide (x.core = h.core)
    && ((!x.load && decide (heldEntry s x = heldEntry s h) && (!h.load || sameGroup x h))
      || (!x.held && (x.susp || h.susp) && decide ((heldEntry s x).map Prod.fst = (heldEntry s h).map Prod.fst))))

/-- How a window access of another agent fails: as at a FREE index when no operator stands there any more, and a load also
while the operator is UNBINDING; else it is refused (R297, R427). -/
def winFail (load : Bool) (owner : Option (Nat × Oper × WinAt)) : InFail :=
  match owner with
  | some (_, o, _) => if load && decide (o.st = .unbinding) then .unresolvable else .refused
  | none => .unresolvable

/-- The refusal of a window store for whoever made it. -/
def refuseStore (s : State) (h : HeldAcc) (l : StLane) : State :=
  match h.req with
  | some id => answerIn s id (some (winFail false (heldOwner s h l))) false 0
  | none =>
    match h.who.gid with
    | some (g, uid) => laneAnswer s g uid l.lane 0 0 l.addr false 0
    | none => s

/-- The acceptance of a window store. -/
def acceptStore (s : State) (h : HeldAcc) (l : StLane) : State :=
  match h.req with
  | some id => if h.more then s else answerIn s id none false 0
  | none =>
    match h.who.gid with
    | some (g, uid) => laneAnswer s g uid l.lane 0 0 l.addr true 0
    | none => s

/-- The owner of an arrival, with the grant that its store is checked under (R313). -/
def storeOwner (s : State) (h : HeldAcc) (l : StLane) : Option (Nat × Oper × WinAt) :=
  match h.grant with
  | none => heldOwner s h l
  | some g => (heldOwner s h l).map (fun x => (x.1, { x.2.1 with grants := x.2.1.grants.set (x.2.2.entry / x.2.1.s) g }, x.2.2))

/-- Whether an arrival is a store into a writer slot of an operator. -/
def storeFor (s : State) (key w : Nat) (h : HeldAcc) : Bool :=
  !h.load && h.lanes.any (fun l => match heldOwner s h l with
    | some (k, o, a) => decide (k = key) && decide (a.entry / o.s = w)
    | none => false)

/-- Replaces the grant of a writer slot: the stores that have come and wait are still checked under the old one (R313). -/
def setGrant (s : State) (key w : Nat) (x : DWord) : State :=
  let old := ((tget s.ops key).map (fun o => o.grants.getD w 0)).getD 0
  let keep (i : Nat) (h : HeldAcc) : HeldAcc :=
    if storeFor s key w h && h.grant.isNone && (h.held || heldBehind s i h) then { h with grant := some old } else h
  { s with
    heldAcc := (s.heldAcc.zip (List.range s.heldAcc.length)).map (fun h => keep h.2 h.1)
    ops := tmod s.ops key (fun o => { o with grants := o.grants.set w x }) }

/-- Whether every store that came under an old grant of a writer slot is done (R313). -/
def grantSettled (s : State) (key w : Nat) : Bool := s.heldAcc.all (fun h => !(storeFor s key w h) || h.grant.isNone)

/-- Applies the arrival at place `i`, a store of one lane; it stays where the operator holds it or it waits for a place. -/
def applyStore (s : State) (i : Nat) : State :=
  match s.heldAcc[i]? with
  | none => s
  | some h =>
    match h.lanes with
    | [] => putHeld s i none
    | l :: _ =>
      match laneStore s (storeOwner s h l) l h.who ((s.heldAcc.take i).any (waitsPlace h.core)) with
      | .ok s => acceptStore (putHeld s i none) h l
      | .refuse _ => refuseStore (putHeld s i none) h l
      | .held => if opHolds (heldOwner s h l) then s else putHeld s i (some { h with held := true })

/-- Serves the arrival at place `i`, a load of one entry, in one step (R304); it stays while the entry is
PENDING or its operator SUSPENDED or MOVING. -/
def serveLoad (s : State) (i : Nat) : State :=
  match s.heldAcc[i]? with
  | none => s
  | some h =>
    let got (l : StLane) : WinLd := ownerLoad (heldOwner s h l) l h.who
    if h.lanes.any (fun l => decide (got l = .wait)) then s
    else
      let fail := (h.lanes.head?.map (fun l => winFail true (heldOwner s h l))).getD .refused
      let took := (h.lanes.filter (fun l => match got l with
        | .value _ _ => true
        | _ => false)).filterMap (fun l => ownerEntry (heldOwner s h l))
      let s := putHeld s i none
      let ans (s : State) (l : StLane) (ok : Bool) (x : Nat) : State :=
        match h.who.gid with
        | some (g, uid) =>
          if h.reg < 200 then laneAnswer s g uid l.lane h.reg ((l.size + 3) / 4) l.addr ok x
          else scalarAnswer s g uid (h.reg - 200) l.addr ok x
        | none => s
      let s := match h.req with
        | some id =>
          let base := (h.lanes.head?.map (fun l => l.addr)).getD 0
          let val := h.lanes.foldl (fun (v : Option Nat) l =>
            match v, got l with
            | some v, .value x _ => some (v + x * 2 ^ (8 * (l.addr - base).toNat))
            | _, _ => none) (some 0)
          (match val with
            | some v => answerIn s id none false v
            | none => answerIn s id (some fail) false 0)
        | none => h.lanes.foldl (fun s l =>
          match got l with
          | .value x z =>
            let s := match h.who.gid with
              | some (g, _) => if z then setAbs s g else s
              | none => s
            ans s l true x
          | _ => ans s l false 0) s
      if h.consume then took.foldl (fun s x => consumeEntry s x.1 x.2) s else s

/-- The first arrival of a core that `f` accepts, by place. -/
def firstHeld (s : State) (core : Nat) (f : Nat → HeldAcc → Bool) : Option Nat :=
  (List.range s.heldAcc.length).find? (fun i =>
    match s.heldAcc[i]? with
    | none => false
    | some h => decide (h.core = core) && f i h)

/-! ## Steps of passes (R300, R308, R318) -/

/-- The macro of a member's tile (R318). -/
def tileMacro (x : Oper) (t : Nat) : Nat := (x.deck + t * opTile x) / 65536

/-- The next tile of a pass in a macro of a core: the member, its key and the tile. -/
def passTileAt (s : State) (core mac : Nat) (p : Pass) : Option (Nat × Nat × Nat) :=
  match tget s.ops p.op with
  | none => none
  | some o =>
    p.tiles.findSome? (fun x =>
      let key := o.members.getD x.1 0
      match tget s.ops key with
      | none => none
      | some m => if key / 64 = core ∧ tileMacro m x.2 = mac then some (x.1, key, x.2) else none)

/-- The source of a pass, an (operator, writer slot) pair, as one number, and its priority (R308). -/
def passSource (s : State) (p : Pass) : Nat × Nat :=
  match tget s.ops p.op with
  | none => (0, 0)
  | some o => (p.op * 16 + p.entry / o.s, o.prio)

/-- The passes that have a tile in a macro, in the order they were queued. -/
def macroPasses (s : State) (core mac : Nat) : Tbl Pass := s.passes.filter (fun p => (passTileAt s core mac p.2).isSome)

/-- The number of grants of a macro that passed over a pass. -/
def passedOver (core mac : Nat) (p : Pass) : Nat := (tget p.skips (core * 32 + mac)).getD 0

/-- The key of a source at a macro, and the grants at its priority that passed over it (R308). -/
def skipKey (core mac src : Nat) : Nat := (core * 32 + mac) * 2 ^ 40 + src
def srcSkips (s : State) (core mac src : Nat) : Nat := (tget s.arbSkips (skipKey core mac src)).getD 0

/-- The sources of some passes, each once. -/
def passSources (s : State) (ps : Tbl Pass) : List Nat :=
  ps.foldl (fun l p => if l.contains (passSource s p.2).1 then l else l ++ [(passSource s p.2).1]) []

/-- The first element of a list with the greatest value of `f`. -/
def maxBy (f : Nat → Nat) : List Nat → Nat
  | [] => 0
  | x :: xs => xs.foldl (fun a y => if f a < f y then y else a) x

/-- The pass that the arbiter of a macro serves next: one passed over 4,096 times, else of the highest priority, the source passed
over longest once that is 64 grants, else the next in turn (R308). -/
def choosePass (s : State) (core mac : Nat) : Option Nat :=
  let ps := macroPasses s core mac
  match ps.find? (fun p => decide (4096 ≤ passedOver core mac p.2)) with
  | some p => some p.1
  | none =>
    let top := ps.foldl (fun a p => max a (passSource s p.2).2) 0
    let ps := ps.filter (fun p => decide ((passSource s p.2).2 = top))
    let last := (tget s.arbLast (core * 32 + mac)).getD 0
    let srcs := passSources s ps
    let long := srcs.filter (fun x => decide (64 ≤ srcSkips s core mac x))
    let later := srcs.filter (fun x => decide (last < x))
    let pick := if !long.isEmpty then maxBy (srcSkips s core mac) long
      else if later.isEmpty then srcs.foldl min (srcs.headD 0) else later.foldl min (later.headD 0)
    (ps.find? (fun p => decide ((passSource s p.2).1 = pick))).map Prod.fst

/-- Counts a grant of a macro: the sources of its priority that it passed over (R308). -/
def countGrant (s : State) (core mac : Nat) (p : Pass) : Tbl Nat :=
  let (src, prio) := passSource s p
  let others := (passSources s ((macroPasses s core mac).filter (fun e => decide ((passSource s e.2).2 = prio)))).filter (fun x => decide (x ≠ src))
  others.foldl (fun t x => tset t (skipKey core mac x) (srcSkips s core mac x + 1)) (tdel s.arbSkips (skipKey core mac src))

/-- The cells of a pass after one tile of a member: every product of the tile is added exactly (R299). -/
def stepTile (s : State) (p : Pass) (o m : Oper) (j t core : Nat) : SMap 128 :=
  let w := m.slot.getD 0 0
  let code := fsWFMT w
  let cb := slotCodebook m.slot
  let kt := t % shareKT m
  let nt := t / shareKT m
  let base := skey core (m.deck + t * opTile m)
  let byte (i : Nat) : Nat := (mget s.spad (base + i)).toNat
  let inp (i : Nat) : FVal := packedVal (inFmt o) cb (fun i => (mget p.input i).toNat) i
  (List.range (min 128 (m.sk - 128 * kt))).foldl (fun cells r =>
    (List.range (min 64 (m.sn - 64 * nt))).foldl (fun cells q =>
      let k := m.k0 + 128 * kt + r
      let n := m.n0 + 64 * nt + q
      let wv := packedVal code cb byte (r * 64 + q)
      let col := if o.trans then k else n
      let x := inp (if o.trans then n else k)
      let c := cellOf (mget cells (j * 65536 + col)).toNat
      mset cells (j * 65536 + col) (BitVec.ofNat 128 (cellBits (a96Add (fsL w) c (fMulV x wv))))) cells) p.cells

/-- Whether a tile holds a poisoned granule (R452). -/
def tilePoisoned (s : State) (m : Oper) (core t : Nat) : Bool :=
  let lo := skey core (m.deck + t * opTile m) / 8
  s.spoison.any (fun e => decide (lo ≤ e.1) && decide (e.1 < lo + opTile m / 8))

/-- TILE_STEP: a macro grants one step to the pass its arbiter chooses (R300, R308, R318). -/
def execTileStep (core mac : Nat) (s : State) : StepOut :=
  .next (match choosePass s core mac with
    | none => s
    | some pid =>
      match tget s.passes pid with
      | none => s
      | some p =>
        match passTileAt s core mac p, tget s.ops p.op with
        | some (j, key, t), some o =>
          match tget s.ops key with
          | none => s
          | some m =>
            let others := (macroPasses s core mac).map Prod.fst
            let k := core * 32 + mac
            let passes := s.passes.map (fun e =>
              if e.1 ≠ pid ∧ others.contains e.1 then (e.1, { e.2 with skips := tset e.2.skips k (passedOver core mac e.2 + 1) }) else e)
            let p' := { p with
              tiles := p.tiles.filter (fun x => decide (x ≠ (j, t)))
              cells := stepTile s p o m j t core
              poisoned := p.poisoned || tilePoisoned s m core t
              skips := tdel p.skips k }
            { s with passes := tset passes pid p', arbLast := tset s.arbLast k (passSource s p).1, arbSkips := countGrant s core mac p }
        | _, _ => s)

/-- Whether member `j` of a pass has no step left. -/
def memberDone (p : Pass) (j : Nat) : Bool := p.tiles.all (fun x => decide (x.1 ≠ j))

/-- TRUSS_CELLS_ARRIVE: the cells of a member reach the root core of the oldest pass that waits for them
(R321, R322). -/
def execTrussCellsArrive (core stripe : Nat) (s : State) : StepOut :=
  .next (match s.passes.find? (fun p =>
      decide (p.2.op / 64 = core) && decide (stripe ≠ 0) && memberDone p.2 stripe && !(p.2.arrived.contains stripe)
        && (match tget s.ops p.2.op with
            | some o => decide (stripe < o.members.length)
            | none => false)) with
    | some p => { s with passes := tset s.passes p.1 { p.2 with arrived := p.2.arrived ++ [stripe] } }
    | none => s)

/-- Whether a pass can end: it is the oldest of its entry, its steps are done and its members' cells are at
the root (R302, R321). -/
def passReady (s : State) (pid : Nat) (p : Pass) : Bool :=
  p.tiles.isEmpty
    && (match tget s.ops p.op with
        | some o => (List.range o.members.length).all (fun j => decide (j = 0) || p.arrived.contains j)
        | none => false)
    && !(s.passes.any (fun e => decide (e.1 < pid) && decide (e.2.op = p.op) && decide (e.2.entry = p.entry)))

/-- The merged cell of a column (R321). -/
def passCell (p : Pass) (o : Oper) (n : Nat) : Cell :=
  let c := (List.range o.members.length).foldl (fun c j => a96Merge c (cellOf (mget p.cells (j * 65536 + n)).toNat)) Cell.zero
  if p.poisoned then { c with n := true } else c

/-- The result entry of a finished pass (R299, R327). -/
def passResult (s : State) (p : Pass) (o : Oper) : SMap 8 :=
  let w := o.slot.getD 0 0
  let core := p.op / 64
  (List.range (opN o)).foldl (fun m n =>
    let c := passCell p o n
    let sc : FVal := match o.scale with
      | some a => fDecode .bf16 (mbytes s.spad (skey core (a + 2 * n)) 2)
      | none => .fin false 1 0
    let x := if o.raw then cellBits c else a96Drain (fsL w) (fsDSH w) (fsDSAT w) (dfmtOfCode (fsDFMT w)) c sc
    msetBytes m (n * opResElem o) (opResElem o) x) []

/-- Takes a finished pass off: its op count retires (R172, R307). -/
def retirePass (s : State) (p : Pass) : State :=
  match p.gid with
  | none => s
  | some (g, uid) => { s with groups := tmod s.groups g (fun x => retireDone (updOut x uid (fun o => { o with fin := true })) .op) }

/-- Ends a pass: the result is written to its entry (R302). -/
def endPass (s : State) (pid : Nat) (p : Pass) : State :=
  match tget s.ops p.op with
  | none => { s with passes := tdel s.passes pid }
  | some o =>
    let e := entryOf o p.entry
    let s := setEntry s p.op p.entry { e with q := e.q - 1, r := true, result := passResult s p o }
    let s := if p.poisoned then logError s 3 0 o.part 0 0 o.ctx (p.op / 64) else s
    opTryFree (retirePass { s with passes := tdel s.passes pid } p) p.op

/-- PASS_END: pass `pass` of the operators whose root lies on `core` ends (R302). -/
def execPassEnd (core pass : Nat) (s : State) : StepOut :=
  .next (match tget s.passes pass with
    | none => s
    | some p => if p.op / 64 = core ∧ passReady s pass p = true then endPass s pass p else s)

end Sys2Proof.Machine
end

