-- ==== Sys2Proof/Machine/Memory.lean ====
section
/-! DEFINITION. Class 5: loads, stores and line operations (R174 to R179), WAIT and FENCE (R180, R181), and what
completes them (R172, R173). -/

namespace Sys2Proof.Machine

/-! ## Lanes of an access -/

/-- The address of a lane: S[base] + SignExtend64(V[off][lane]), or S[base] + LAT (R174). -/
def Issue.laneAddr (is : Issue) (b o l : Nat) : DWord :=
  sreg is.g b + (match is.lit with
    | some x => x
    | none => (vreg is.g o l).signExtend 64)

/-- The active lanes with their addresses (R174). -/
def Issue.laneAddrs (is : Issue) (b o : Nat) : List (Nat × DWord) := (lanesOf is.act).map (fun l => (l, is.laneAddr b o l))

/-- How the checks of R168 on the lanes of an instruction end: where each lane goes; a trap; a second-stage
failure; or a wait for a flip. -/
inductive Gather where
  | ok (ls : List StLane)
  | trap (t : TrapI)
  | s2 (die ia : Nat)
  | wait

/-- The check of one lane: `line` takes the whole line of the address, `adm` says which targets the instruction
admits; the others are PAGE of the unresolvable kind, in order `ord` of the checks. -/
def laneAcc (is : Issue) (kind : AKind) (n : Nat) (line : Bool) (ord : Nat) (adm : Target → Bool) (va : DWord) : Acc :=
  let rq := reqOf is.s is.g
  let (lo, len) := if line then lineOf (route is.s rq.part va) va else (va.toNat, n)
  match checkAcc is.s rq kind va (if line then 1 else n) lo len with
  | .ok t pte => if adm t then .ok t pte else .bad ord 18
  | .bad 2 c =>
    (match route is.s rq.part va with
      | .to (.notify _ _) => .bad ord c
      | .to (.nbctl _ _) => .bad ord c
      | _ => .bad 2 c)
  | a => a

/-- The order of a failing check, 9 for none. -/
def Acc.order : Acc → Nat
  | .bad o _ => o
  | .s2 _ _ => 5
  | _ => 9

/-- The checks of R168 over the lanes of an instruction, and the targets that it admits: with the holes of the aperture (order 2), or,
for atomics, after all of R168 (order 6, R287). `mask` replaces the failing lanes in TMASK where the
address comes from a scalar register (R250). -/
def gather (is : Issue) (kind : AKind) (n : Nat) (line : Bool) (ord : Nat) (adm : Target → Bool)
    (reqs : List (Nat × DWord)) (mask : Option Word) : Gather :=
  let accs := reqs.map (fun r => (r, laneAcc is kind n line ord adm r.2))
  let first := accs.foldl (fun a x => min a x.2.order) 9
  if first < 9 then
    let bad := accs.filter (fun x => decide (x.2.order = first))
    match bad with
    | [] => .wait
    | (_, .s2 d ia) :: _ => .s2 d ia
    | (r, .bad _ c) :: _ =>
      .trap (.plain c (mask.getD (maskOf (fun l => bad.any (fun x => decide (x.1.1 = l) && (match x.2 with
        | .bad _ _ => true
        | _ => false))))) r.2)
    | _ => .wait
  else if accs.any (fun x => match x.2 with
      | .flip _ => true
      | _ => false) then .wait
  else .ok (accs.filterMap (fun x => match x.2 with
    | .ok t _ => some { lane := x.1.1, addr := x.1.2, tgt := t, size := n, data := 0 }
    | _ => none))

/-- Which windows a load of the group may read: a result window it may read (R295, R304, R306). -/
def admLoad (is : Issue) (t : Target) : Bool :=
  match t with
  | .window c off =>
    match winOwner is.s c off with
    | some (key, o, a) => !a.input && decide (o.st ≠ .unbinding) && readOk key o (a.entry / o.s) (whoOf is.s is.gid is.g 0)
    | none => false
  | _ => true

/-- Which windows a store of a thread may name: an input window of an operator that is not FREE (R295). The
near-bank control region takes no store (R339). -/
def admStore (is : Issue) (t : Target) : Bool :=
  match t with
  | .window c off =>
    match winOwner is.s c off with
    | some (_, _, a) => a.input
    | none => false
  | .nbctl _ _ => false
  | _ => true

/-! ## What holds an access back -/

def isWindow (l : StLane) : Bool :=
  match l.tgt with
  | .window _ _ => true
  | _ => false

/-- Whether stores of the group that are not performed overlap a lane, or store into the input entry of a result that a lane names
(R205). -/
def ownStoreHits (s : State) (g : Group) (ls : List StLane) : Bool :=
  g.out.any (fun o => o.stores.any (fun x => ls.any (fun l =>
    overlaps x.tgt (if o.zero then 128 else x.size) l.tgt l.size || (isWindow x && isWindow l && decide (laneEntry s x = laneEntry s l)))))

/-- The lanes of a load see the group's own earlier stores: those are performed first. `none` while a release
among them still waits. -/
def settle (s : State) (gid : Nat) (ls : List StLane) : Option State :=
  match tget s.groups gid with
  | none => none
  | some g =>
    if ownStoreHits s g ls then
      let s := performStores s gid
      match tget s.groups gid with
      | none => none
      | some g => if ownStoreHits s g ls then none else some s
    else some s

/-- The window of the issuing core (R303, R304). -/
def isLocal (is : Issue) (l : StLane) : Bool :=
  match l.tgt with
  | .window c _ => decide (c = is.g.core)
  | _ => false

/-- Appends an outstanding operation to a group. -/
def pushOut (s : State) (gid : Nat) (o : Out) : State :=
  { s with groups := tmod s.groups gid (fun g => { g with out := g.out ++ [o] }) }

/-- An operation of a class with nothing owed. -/
def Out.new (uid : Nat) (cls : OCls) (sem : BitVec 4) : Out :=
  { uid := uid, cls := cls, sem := sem, regs := [], vw := [], sw := none, stores := [], zero := false, pend := 0,
    fin := false, sealed := false, lanes := none, rmw := false }

/-! ## Loads (R174 to R178) -/

/-- The request of a load lane to another node or the host: `n` registers from `reg`. -/
def loadReq (rq : Req) (core node : Nat) (consume : Bool) (addr : DWord) (size : Nat) (ow : ROwner) : RReq :=
  { src := core, part := rq.part, ctx := rq.ctx, node := node, addr := addr, kind := if consume then .rdc else .rd, op := 0, size := size, a := 0, b := 0,
    port := none, owner := ow }

/-- Sends the lanes of a load that another node, the host or the owner of a window must answer. Registers from
200 up are scalar. -/
def loadElsewhere (s : State) (gid uid : Nat) (g : Group) (consume : Bool) (reg n : Nat) (l : StLane) : State :=
  let ow (lane reg n : Nat) : ROwner := if 200 ≤ reg then .scalar gid uid (reg - 200) else .lane gid uid lane reg n
  match l.tgt with
  | .remote node _ => newReq s (loadReq (reqOf s g) g.core node consume l.addr l.size (ow l.lane reg n))
  | .host _ =>
    if l.size = 16 then
      let s := newReq s (loadReq (reqOf s g) g.core 510 false l.addr 8 (ow l.lane reg 2))
      newReq s (loadReq (reqOf s g) g.core 510 false (l.addr + 8) 8 (ow l.lane (reg + 2) 2))
    else newReq s (loadReq (reqOf s g) g.core 510 false l.addr l.size (ow l.lane reg n))
  | _ => s

/-- The arrivals at the owners of windows of other cores, one for each entry that the lanes read (R304). -/
def heldLoads (s : State) (who : Who) (consume : Bool) (reg : Nat) (ls : List StLane) : List HeldAcc :=
  let keys := ls.foldl (fun (k : List (Option (Nat × Nat))) l =>
    if k.contains (laneEntry s l) then k else k ++ [laneEntry s l]) []
  keys.map (fun k =>
    let mine := ls.filter (fun l => decide (laneEntry s l = k))
    let core := (match mine with
      | l :: _ => (match l.tgt with
        | .window c _ => c
        | _ => 0)
      | [] => 0)
    arrival s core true consume who reg mine none false)

/-- The value a lane reads here and now. -/
def laneValue (s : State) (who : Who) (l : StLane) : Nat :=
  if isWindow l then (match laneLoad s l who with
    | .value x _ => x
    | _ => 0)
  else readT s l.tgt l.size

/-- The reads of lanes at their homes by the L1 of a core (R236). -/
def touchReads (s : State) (core : Nat) (ls : List StLane) : State :=
  ls.foldl (fun s l => touch s (some core) l.tgt l.size false) s

/-- Issues a load of `n` registers per lane from `reg` (200 + r for a scalar register) once its checks have
passed; `near` are the lanes that are read at once. -/
def startLoad (s : State) (is : Issue) (consume : Bool) (sem : BitVec 4) (reg n : Nat) (ls : List StLane) (mask : Option Word) : State :=
  let far (l : StLane) : Bool := elsewhere l.tgt && !(isLocal is l)
  let (uid, s) := fresh s
  match tget s.groups is.gid with
  | none => s
  | some g =>
    let who := whoOf s is.gid g uid
    let near := ls.filter (fun l => !far l)
    let farL := ls.filter far
    let o : Out := { Out.new uid .ld sem with
      regs := if 200 ≤ reg then [reg] else (List.range n).map (· + reg)
      vw := if 200 ≤ reg then [] else
        near.flatMap (fun l =>
          let x := laneValue s who l
          (List.range n).map (fun i => (32 * (reg + i) + l.lane, BitVec.ofNat 32 (x / 2 ^ (32 * i)))))
      sw := if 200 ≤ reg then near.head?.map (fun l => (reg - 200, BitVec.ofNat 64 (laneValue s who l))) else none
      pend := farL.foldl (fun a l => a + answersOf l) 0, lanes := mask }
    let abs := near.any (fun l => isWindow l && (match laneLoad s l who with
      | .value _ z => z
      | _ => false))
    let s := pushOut (touchReads s g.core near) is.gid o
    let s := if abs then setAbs s is.gid else s
    let s := if consume then consumeLanes s (near.filter isWindow) else s
    let s := { s with heldAcc := s.heldAcc ++ heldLoads s who consume reg (farL.filter isWindow) }
    farL.foldl (fun s l => loadElsewhere s is.gid uid g consume reg n l) s

/-- The lanes of a list that `f` accepts, as a mask, with the first such address. -/
def failing (ls : List StLane) (f : StLane → Bool) : Option (Word × DWord) :=
  match ls.filter f with
  | [] => none
  | l :: r => some (maskOf (fun k => (l :: r).any (fun x => decide (x.lane = k))), l.addr)

/-- A load of `size` bytes per lane into `n` registers from `reg`: the checks of R168, the windows of the
issuing core (R304), poison (R453), and the counter (R172). -/
def loadEff (is : Issue) (size : Nat) (consume : Bool) (sem : BitVec 4) (reg n : Nat) (reqs : List (Nat × DWord))
    (mask : Option Word) : Eff :=
  if reqs.isEmpty then .done is.s
  else
    match gather is .load size false 2 (admLoad is) reqs mask with
    | .trap t => .trap t
    | .s2 d ia => .leave (s2Fault is.s is.gid is.side d ia)
    | .wait => .again is.s
    | .ok ls =>
      let who := whoOf is.s is.gid is.g 0
      let mine := ls.filter (isLocal is)
      if acqPending is.g then .again is.s
      else if 63 ≤ cntOf is.g .ld then .stall .ld 1
      else if mine.any (fun l => decide (laneLoad is.s l who = .wait)) then .again is.s
      else
        match failing mine (fun l => decide (laneLoad is.s l who = .absent)) with
        | some (m, a) => .trap (.plain 7 (mask.getD m) a)
        | none =>
          match settle is.s is.gid ls with
          | none => .again (performStores is.s is.gid)
          | some s =>
            match failing ls (fun l => poisonedT s l.tgt l.size) with
            | some (m, a) => .trap (.plain 15 (mask.getD m) a)
            | none => .done (startLoad s is consume sem reg n ls mask)

/-- The accepted sem of a load, a store and an atomic (R41). -/
def semLoad (x : BitVec 4) : Bool := decide (x.toNat ≤ 6)
def semStore (x : BitVec 4) : Bool := decide (x.toNat = 0) || (decide (9 ≤ x.toNat) && decide (x.toNat ≤ 14))
def semAmo (x : BitVec 4) : Bool := semLoad x || semStore x

/-- The form of a vector access: `k` registers of data, a scalar base, a vector offset that a literal replaces
(R175). -/
def formMem (d : BitVec 7) (k : Nat) (b : BitVec 5) (o : BitVec 7) (semOk : Bool) : Form :=
  { Form.mk0 [opVn d.toNat k, opS b.toNat, opV1 o.toNat] none (.replaces (o = 0)) false with bad := fun _ => !semOk }

/-- A vector load of `size` bytes. -/
def loadVec (w : Word) (size : Nat) (consume : Bool) (sm : BitVec 4) (d : BitVec 7) (b : BitVec 5) (o : BitVec 7) (s : State) : StepOut :=
  let k := (size + 3) / 4
  issueWord w (formMem d k b o (semLoad sm))
    (fun is => loadEff is size consume sm d.toNat k (is.laneAddrs b.toNat o.toNat) none) s

/-- VLD8 (R176). -/
def execVld8 (sm : BitVec 4) (d : BitVec 7) (b : BitVec 5) (o : BitVec 7) (s : State) : StepOut :=
  loadVec (encode (.vld8 sm d b o)) 1 false sm d b o s

/-- VLD16 (R176). -/
def execVld16 (sm : BitVec 4) (d : BitVec 7) (b : BitVec 5) (o : BitVec 7) (s : State) : StepOut :=
  loadVec (encode (.vld16 sm d b o)) 2 false sm d b o s

/-- VLD32 (R176). -/
def execVld32 (sm : BitVec 4) (d : BitVec 7) (b : BitVec 5) (o : BitVec 7) (s : State) : StepOut :=
  loadVec (encode (.vld32 sm d b o)) 4 false sm d b o s

/-- VLD64 (R176). -/
def execVld64 (sm : BitVec 4) (d : BitVec 7) (b : BitVec 5) (o : BitVec 7) (s : State) : StepOut :=
  loadVec (encode (.vld64 sm d b o)) 8 false sm d b o s

/-- VLD128 (R176). -/
def execVld128 (sm : BitVec 4) (d : BitVec 7) (b : BitVec 5) (o : BitVec 7) (s : State) : StepOut :=
  loadVec (encode (.vld128 sm d b o)) 16 false sm d b o s

/-- VLDC: VLD32 whose lanes consume the result entries they read (R178, R304, R316). -/
def execVldc (sm : BitVec 4) (d : BitVec 7) (b : BitVec 5) (o : BitVec 7) (s : State) : StepOut :=
  loadVec (encode (.vldc sm d b o)) 4 true sm d b o s

/-- The form of SLD and SST (R177). -/
def formScalarMem (d : BitVec 7) (b : BitVec 5) (semOk : Bool) : Form :=
  { Form.mk0 [opS d.toNat, opS b.toNat] none (.replaces true) true with bad := fun _ => !semOk }

/-- The one access of SLD and SST, in the lowest lane's name. -/
def Issue.scalarAddr (is : Issue) (b : BitVec 5) : List (Nat × DWord) :=
  [(lowLane is.sl.exec, sreg is.g b.toNat + is.lit.getD 0)]

/-- SLD (R177). -/
def execSld (sm : BitVec 4) (d : BitVec 7) (b : BitVec 5) (s : State) : StepOut :=
  issueWord (encode (.sld sm d b)) (formScalarMem d b (semLoad sm)) (fun is =>
    loadEff is 8 false sm (200 + d.toNat) 1 (is.scalarAddr b) (some is.sl.exec)) s

/-! ## Stores (R174, R176, R177) -/

/-- Whether a store or atomic that takes effect at issue must wait for what its group did before: reads whose values are still to
come (R200), and, for a release, every earlier access and at dev or wider the posted near-bank commands (R196, R206). -/
def mustWait (g : Group) (sem : BitVec 4) : Bool :=
  g.out.any unread || (decide (8 ≤ sem.toNat) && !(releaseFree g)) || (decide (12 ≤ sem.toNat) && decide (g.posted ≠ 0))

/-- Issues a store whose checks have passed: its lanes on the issuing core's windows take effect at once, the
others are performed later (R174, R303, R307). -/
def storeEff (is : Issue) (sem : BitVec 4) (ls : List StLane) (mask : Option Word) : Eff :=
  let mine := ls.filter (isLocal is)
  if acqPending is.g then .again is.s
  else if 63 ≤ cntOf is.g .st then .stall .st 1
  else if ls.any isWindow ∧ 63 < cntOf is.g .op + ls.length then .stall .op ls.length
  else
    let (uid, s) := fresh is.s
    let s := if mine.isEmpty then s else performStores s is.gid
    match tget s.groups is.gid with
    | none => .again s
    | some g =>
      if !mine.isEmpty && mustWait g sem then .again s
      else
        match localStores s (whoOf s is.gid g uid) mine with
        | .stall => .again s
        | .trap c m a => .trap (.plain c (mask.getD m) a)
        | .ok s => .done (pushOut s is.gid { Out.new uid .st sem with stores := ls.filter (fun l => !(isLocal is l)), lanes := mask })

/-- A store of `size` bytes per lane, with the data of each lane. -/
def storeLanes (is : Issue) (size : Nat) (sem : BitVec 4) (data : Nat → Nat) (reqs : List (Nat × DWord))
    (mask : Option Word) : Eff :=
  if reqs.isEmpty then .done is.s
  else
    match gather is .store size false 2 (admStore is) reqs mask with
    | .trap t => .trap t
    | .s2 d ia => .leave (s2Fault is.s is.gid is.side d ia)
    | .wait => .again is.s
    | .ok ls => storeEff is sem (ls.map (fun l => { l with data := BitVec.ofNat 128 (data l.lane % 2 ^ (8 * size)) })) mask

/-- A vector store of `size` bytes. -/
def storeVec (w : Word) (size : Nat) (sm : BitVec 4) (d : BitVec 7) (b : BitVec 5) (o : BitVec 7) (s : State) : StepOut :=
  let k := (size + 3) / 4
  issueWord w (formMem d k b o (semStore sm))
    (fun is => storeLanes is size sm (fun l => vregs is.g d.toNat l k) (is.laneAddrs b.toNat o.toNat) none) s

/-- VST8 (R176). -/
def execVst8 (sm : BitVec 4) (d : BitVec 7) (b : BitVec 5) (o : BitVec 7) (s : State) : StepOut :=
  storeVec (encode (.vst8 sm d b o)) 1 sm d b o s

/-- VST16 (R176). -/
def execVst16 (sm : BitVec 4) (d : BitVec 7) (b : BitVec 5) (o : BitVec 7) (s : State) : StepOut :=
  storeVec (encode (.vst16 sm d b o)) 2 sm d b o s

/-- VST32 (R176). -/
def execVst32 (sm : BitVec 4) (d : BitVec 7) (b : BitVec 5) (o : BitVec 7) (s : State) : StepOut :=
  storeVec (encode (.vst32 sm d b o)) 4 sm d b o s

/-- VST64 (R176). -/
def execVst64 (sm : BitVec 4) (d : BitVec 7) (b : BitVec 5) (o : BitVec 7) (s : State) : StepOut :=
  storeVec (encode (.vst64 sm d b o)) 8 sm d b o s

/-- VST128 (R176). -/
def execVst128 (sm : BitVec 4) (d : BitVec 7) (b : BitVec 5) (o : BitVec 7) (s : State) : StepOut :=
  storeVec (encode (.vst128 sm d b o)) 16 sm d b o s

/-- SST (R177). -/
def execSst (sm : BitVec 4) (d : BitVec 7) (b : BitVec 5) (s : State) : StepOut :=
  issueWord (encode (.sst sm d b)) (formScalarMem d b (semStore sm)) (fun is =>
    storeLanes is 8 sm (fun _ => (sreg is.g d.toNat).toNat) (is.scalarAddr b) (some is.sl.exec)) s

/-! ## Line operations (R179) -/

/-- The form of a line operation. -/
def formLine (b : BitVec 5) (o : BitVec 7) : Form :=
  Form.mk0 [opS b.toNat, opV1 o.toNat] none (.replaces (o = 0)) false

/-- PFT: brings lines into a cache if it can; it changes no value and never faults (R169, R179). -/
def execPft (b : BitVec 5) (o : BitVec 7) (s : State) : StepOut :=
  issueWord (encode (.pft b o)) (formLine b o) (fun is => is.put is.g) s

/-- Whether an address lies in the aperture of this module (R166). -/
def inAperture (s : State) (va : DWord) : Bool :=
  (decide (vaNode va = 509) || decide (vaNode va = s.mnode)) && decide (DA ≤ vaOff va)

/-- The 128-byte line of memory behind a target, as the coherence directory numbers it; a page of host bias has no copies here. -/
def lineNo (t : Target) : Option Nat :=
  match t with
  | .hbm d o => some (hkey d o / 128)
  | .host o => some (hostLineAt o)
  | _ => none

/-- The refusals of lines that the host does not serve (R168, R173, R227), as class st. -/
def hostRefusals (s : State) (gid : Nat) (rq : Req) (ls : List StLane) : State :=
  ls.foldl (fun s l =>
    match l.tgt with
    | .host o => if hostServes s rq.part rq.ctx o then s
      else { s with groups := tmod s.groups gid (fun g => addRefusal g l.addr (laneBit l.lane) 1) }
    | _ => s) s

/-- Whether the host serves the line of a lane, where it lies in host memory. -/
def lineServed (s : State) (rq : Req) (l : StLane) : Bool :=
  match l.tgt with
  | .host o => hostServes s rq.part rq.ctx o
  | _ => true

/-- FLUSH and INVL: the dirty copies of the lines go home, and INVL drops every copy; no value changes (R179). On
an aperture address they have no effect. -/
def flushEff (is : Issue) (b o : Nat) (drop : Bool) : Eff :=
  let reqs := (is.laneAddrs b o).filter (fun r => !(inAperture is.s r.2))
  if is.act = 0 then .done is.s
  else
    match gather is .line 1 true 2 (fun _ => true) reqs none with
    | .trap t => .trap t
    | .s2 d ia => .leave (s2Fault is.s is.gid is.side d ia)
    | .wait => .again is.s
    | .ok ls =>
      if acqPending is.g then .again is.s
      else if 63 ≤ cntOf is.g .st then .stall .st 1
      else
        let (uid, s) := fresh is.s
        let rq := reqOf s is.g
        let s := hostRefusals s is.gid rq ls
        .done (pushOut (flushLines s ((ls.filter (lineServed s rq)).filterMap (fun l => lineNo l.tgt)) drop) is.gid (Out.new uid .st 0))

/-- FLUSH (R179). -/
def execFlush (b : BitVec 5) (o : BitVec 7) (s : State) : StepOut :=
  issueWord (encode (.flush b o)) (formLine b o) (fun is => flushEff is b.toNat o.toNat false) s

/-- INVL (R179). -/
def execInvl (b : BitVec 5) (o : BitVec 7) (s : State) : StepOut :=
  issueWord (encode (.invl b o)) (formLine b o) (fun is => flushEff is b.toNat o.toNat true) s

/-- ZERO takes paged lines, scratchpad lines and host lines; lines of other nodes it leaves alone (R179, R425). -/
def admZero (t : Target) : Bool :=
  match t with
  | .window _ _ => false
  | .notify _ _ => false
  | .nbctl _ _ => false
  | _ => true

/-- The lines that ZERO writes, each once: its target at the start of the line. -/
def zeroLanes (ls : List StLane) : List StLane :=
  (ls.filterMap (fun l =>
    match l.tgt with
    | .hbm d o => some { l with tgt := .hbm d (o / 128 * 128), size := 128 }
    | .hdm d o => some { l with tgt := .hdm d (o / 128 * 128), size := 128 }
    | .spad c o => some { l with tgt := .spad c (o / 64 * 64), size := 64 }
    | .host o => some { l with tgt := .host (o / 128 * 128), addr := BitVec.ofNat 64 (l.addr.toNat / 128 * 128), size := 128 }
    | _ => none)).foldl (fun acc l => if acc.any (fun x => decide (x.tgt = l.tgt)) then acc else acc ++ [l]) []

/-- ZERO (R179). -/
def execZero (b : BitVec 5) (o : BitVec 7) (s : State) : StepOut :=
  issueWord (encode (.zero b o)) (formLine b o) (fun is =>
    if is.act = 0 then .done is.s
    else
      match gather is .store 1 true 2 admZero (is.laneAddrs b.toNat o.toNat) none with
      | .trap t => .trap t
      | .s2 d ia => .leave (s2Fault is.s is.gid is.side d ia)
      | .wait => .again is.s
      | .ok ls =>
        if acqPending is.g then .again is.s
        else if 63 ≤ cntOf is.g .st then .stall .st 1
        else
          let (uid, s) := fresh is.s
          .done (pushOut s is.gid { Out.new uid .st 0 with stores := zeroLanes ls, zero := true })) s

/-! ## WAIT and FENCE (R180, R181) -/

/-- The limits of WAIT as the immediate holds them (R42). -/
def waitImm (n p c st l : BitVec 4) : BitVec 23 := 0#3 ++ n ++ p ++ c ++ st ++ l

/-- WAIT (R180): when every counter is at or below its limit it completes under R173, else the slot waits. -/
def execWait (n p c st l : BitVec 4) (s : State) : StepOut :=
  issueWord (encode (.wait n p c st l)) formJ (fun is =>
    let lim := waitImm n p c st l
    if waitMet is.g lim then
      .leave (completeWait is.s is.gid is.side
        (match is.g.ref with
          | some r => waitTests lim r.cls
          | none => false) (n ≠ 15))
    else is.go (beginWait is.sl (.counters lim))) s

/-- Whether FENCE may complete: ld and st are 0, and a release at dev or wider has its posted commands behind it
(R181, R206). -/
def fenceMet (g : Group) (sem : BitVec 4) : Bool := ldStZero g && (decide (sem.toNat < 12) || decide (g.posted = 0))

/-- FENCE (R181). -/
def execFence (sm : BitVec 4) (s : State) : StepOut :=
  issueWord (encode (.fence sm)) { formJ with bad := fun _ => !(semAmo sm) || decide (sm = 0) } (fun is =>
    if fenceMet is.g sm then .leave (completeWait is.s is.gid is.side true true)
    else is.go (beginWait is.sl (.fence sm))) s

/-! ## Events of a group's accesses -/

/-- Returns the first load of a group whose answers are all there (R172). -/
def returnOne (g : Group) : Group :=
  match g.out.find? (fun o => decide (o.cls = .ld)) with
  | some o => if o.pend = 0 then applyLoad { g with out := g.out.filter (fun x => decide (x.uid ≠ o.uid)) } o else g
  | none => g

/-- LOAD_RETURN: the oldest load of a group writes its registers (R172). -/
def execLoadReturn (g : Nat) (s : State) : StepOut := .next { s with groups := tmod s.groups g returnOne }

/-- The first store operation with lanes to perform. -/
def nextStore (g : Group) : Option (Nat × Out) := findIdx? (fun o => !o.stores.isEmpty) g.out 0

/-- STORE_PERFORMED: the next store of a group is performed, and st retires what has ended (R174). -/
def execStorePerformed (g : Nat) (s : State) : StepOut :=
  .next (match tget s.groups g with
    | none => s
    | some x =>
      let s := match nextStore x with
        | some (i, o) => if mayPerform x.posted (x.out.take i) o then performOut s g o else s
        | none => s
      { s with groups := tmod s.groups g retireStores })

/-- Whether an operation class answers to a class code of R173. -/
def clsOf (k : Nat) : OCls := if k = 0 then .ld else if k = 1 then .st else .cp

/-- The requests of a group to which a refusal of a class, address and lanes applies. -/
def refusedReqs (s : State) (g cls : Nat) (addr : DWord) (lanes : Word) : List Nat :=
  (s.reqs.filter (fun r => decide (r.2.addr = addr) && (match r.2.owner with
    | .lane gid uid lane _ _ => decide (gid = g) && lanes.getLsbD lane && (match tget s.groups g with
      | some x => decide (outClass x uid = clsOf cls)
      | none => false)
    | .pair gid uid lane _ => decide (gid = g) && lanes.getLsbD lane && (match tget s.groups g with
      | some x => decide (outClass x uid = clsOf cls)
      | none => false)
    | .scalar gid _ _ => decide (gid = g) && decide (cls = 0)
    | _ => false))).map Prod.fst

/-- REFUSAL_ARRIVAL: a refusal comes back for outstanding accesses of a group: their lanes end refused, and the
group's record takes it (R173). -/
def execRefusalArrival (g cls : Nat) (addr : BitVec 64) (lanes : BitVec 32) (s : State) : StepOut :=
  .next (pumpReqs ((refusedReqs s g cls addr lanes).foldl (fun s id => endReq s id 2 false 0) s))

/-- FENCE_COMPLETE: the counters that a FENCE waits for are zero (R173, R181). -/
def execFenceComplete (g side : Nat) (s : State) : StepOut :=
  .next (match tget s.groups g with
    | none => s
    | some x =>
      match (slotOf x side).wait with
      | .fence sm => if x.st = .resident ∧ fenceMet x sm = true then completeWait s g side true true else s
      | _ => s)

/-- CWAIT_COMPLETE: every child grid of the group has ended (R140). -/
def execCwaitComplete (g side : Nat) (s : State) : StepOut :=
  .next (match tget s.groups g with
    | none => s
    | some x =>
      if x.st = .resident ∧ (slotOf x side).wait = .cwait ∧ x.kids = 0 then
        setGroup s g (setSlot x side (advance (slotOf x side)))
      else s)

end Sys2Proof.Machine
end

