-- ==== Sys2Proof/Machine/Atomics.lean ====
section
/-! DEFINITION. Class 6: atomic instructions (R283 to R289). -/

namespace Sys2Proof.Machine

/-- The element types that the atomics accept (R286). -/
def intSet : List ET := [.i32, .ui32, .i64]
def floatSet : List ET := [.f32, .f16x2, .bf16x2]
def cellSet : List ET := [.a96]

/-- The operation of AMOFADD and REDFADD under a type. -/
def floatOp (t : ET) : Nat :=
  match t with
  | .f16x2 => 12
  | .bf16x2 => 13
  | _ => 9

/-- The form of an atomic: the operand register or registers, twice as many for CAS, a scalar base, and an offset
that a literal replaces (R286). -/
def formAmo (d : BitVec 7) (b : BitVec 5) (o : BitVec 7) (ets : List ET) (cas semOk : Bool) : Form :=
  let data : Operand := { role := .vector, num := d.toNat, span := if cas then .twice else .typed }
  { Form.mk0 [data, opS b.toNat, opV1 o.toNat] (some ets) (.replaces (o = 0)) false with bad := fun _ => !semOk }

/-- Where an atomic of `n` bytes may go (R283). -/
def admAmo (n : Nat) (t : Target) : Bool :=
  match t with
  | .window _ _ => false
  | .nbctl _ _ => false
  | .host _ => decide (n ≤ 8)
  | _ => true

/-- One lane of an atomic on this module, performed as one RMW; poisoned bytes are not changed, the lane receives 0
and is reported refused (R285). The old value is returned. -/
def amoLane (s : State) (gid op n b : Nat) (cls : Nat) (l : StLane) : State × Nat :=
  if poisonedT s l.tgt n then
    ({ s with groups := tmod s.groups gid (fun g => addRefusal g l.addr (laneBit l.lane) cls) }, 0)
  else
    let old := readT s l.tgt n
    (writeT s l.tgt n (rmw op n old l.data.toNat b), old)

/-- The lanes of an atomic on this module, in ascending lane order (R284): the state, and the old values. -/
def amoNear (gid op n cls : Nat) (second : Nat → Nat) : State → List StLane → State × List (Nat × Nat)
  | s, [] => (s, [])
  | s, l :: r =>
    let (s, old) := amoLane s gid op n (second l.lane) cls l
    let (s, rest) := amoNear gid op n cls second s r
    (s, (l.lane, old) :: rest)

/-- Performs an atomic whose checks have passed: the lanes of this module at once, the others as requests
(R284, R285). `ret` says whether the old values come back. -/
def amoStart (s : State) (is : Issue) (op n : Nat) (ret : Bool) (sem : BitVec 4) (d : Nat) (second : Nat → Nat)
    (ls : List StLane) : State :=
  let (uid, s) := fresh s
  let k := if ret then n / 4 else 0
  let near := ls.filter (fun l => !(elsewhere l.tgt))
  let farL := ls.filter (fun l => elsewhere l.tgt)
  let (s, olds) := amoNear is.gid op n (if ret then 0 else 1) second s near
  let o : Out := { Out.new uid (if ret then .ld else .st) sem with
    regs := (List.range k).map (· + d)
    vw := olds.flatMap (fun x => (List.range k).map (fun i => (32 * (d + i) + x.1, BitVec.ofNat 32 (x.2 / 2 ^ (32 * i)))))
    pend := farL.length, rmw := !ret }
  let s := pushOut s is.gid o
  farL.foldl (fun s l =>
    let node := match l.tgt with
      | .remote m _ => m
      | _ => 510
    let rq := reqOf s is.g
    newReq s { src := is.g.core, part := rq.part, ctx := rq.ctx, node := node, addr := l.addr, kind := .amo, op := op, size := n, a := l.data
               b := BitVec.ofNat 128 (second l.lane), port := none, owner := .lane is.gid uid l.lane d k }) s

/-- An atomic with its checks (R287); one that returns nothing needs W alone (R216). The first word of its operand is D, or the expected value of CAS; the
second, if any, the new value. -/
def amoEff2 (is : Issue) (op n : Nat) (ret : Bool) (sem : BitVec 4) (d : Nat) (second : Nat → Nat)
    (reqs : List (Nat × DWord)) : Eff :=
  if reqs.isEmpty then .done is.s
  else
    match gather is (if ret then .amo else .store) n false 6 (admAmo n) reqs none with
    | .trap t => .trap t
    | .s2 die ia => .leave (s2Fault is.s is.gid is.side die ia)
    | .wait => .again is.s
    | .ok ls =>
      let ls := ls.map (fun l => { l with data := BitVec.ofNat 128 (vregs is.g d l.lane (n / 4)) })
      let cls : OCls := if ret then .ld else .st
      if acqPending is.g then .again is.s
      else if 63 ≤ cntOf is.g cls then .stall cls 1
      else
        let s := if decide (8 ≤ sem.toNat) || ownStoreHits is.s is.g ls then performStores is.s is.gid else is.s
        match tget s.groups is.gid with
        | none => .again s
        | some g =>
          if ownStoreHits s g ls || mustWait g sem then .again s
          else .done (amoStart s is op n ret sem d second ls)

/-- An atomic with one operand. -/
def amoEff (is : Issue) (op : ET → Nat) (ret : Bool) (sem : BitVec 4) (d : Nat) (reqs : List (Nat × DWord)) : Eff :=
  amoEff2 is (op is.et) (4 * etRegs is.et) ret sem d (fun _ => 0) reqs

/-- AMOADD (R286 to R288). -/
def execAmoadd (sm : BitVec 4) (d : BitVec 7) (b : BitVec 5) (o : BitVec 7) (s : State) : StepOut :=
  issueWord (encode (.amoadd sm d b o)) (formAmo d b o intSet false (semAmo sm))
    (fun is => amoEff is (fun _ => 0) true sm d.toNat (is.laneAddrs b.toNat o.toNat)) s

/-- AMOMIN (R286 to R288). -/
def execAmomin (sm : BitVec 4) (d : BitVec 7) (b : BitVec 5) (o : BitVec 7) (s : State) : StepOut :=
  issueWord (encode (.amomin sm d b o)) (formAmo d b o intSet false (semAmo sm))
    (fun is => amoEff is (fun _ => 1) true sm d.toNat (is.laneAddrs b.toNat o.toNat)) s

/-- AMOMAX (R286 to R288). -/
def execAmomax (sm : BitVec 4) (d : BitVec 7) (b : BitVec 5) (o : BitVec 7) (s : State) : StepOut :=
  issueWord (encode (.amomax sm d b o)) (formAmo d b o intSet false (semAmo sm))
    (fun is => amoEff is (fun _ => 2) true sm d.toNat (is.laneAddrs b.toNat o.toNat)) s

/-- AMOMINU (R286 to R288). -/
def execAmominu (sm : BitVec 4) (d : BitVec 7) (b : BitVec 5) (o : BitVec 7) (s : State) : StepOut :=
  issueWord (encode (.amominu sm d b o)) (formAmo d b o intSet false (semAmo sm))
    (fun is => amoEff is (fun _ => 3) true sm d.toNat (is.laneAddrs b.toNat o.toNat)) s

/-- AMOMAXU (R286 to R288). -/
def execAmomaxu (sm : BitVec 4) (d : BitVec 7) (b : BitVec 5) (o : BitVec 7) (s : State) : StepOut :=
  issueWord (encode (.amomaxu sm d b o)) (formAmo d b o intSet false (semAmo sm))
    (fun is => amoEff is (fun _ => 4) true sm d.toNat (is.laneAddrs b.toNat o.toNat)) s

/-- AMOAND (R286 to R288). -/
def execAmoand (sm : BitVec 4) (d : BitVec 7) (b : BitVec 5) (o : BitVec 7) (s : State) : StepOut :=
  issueWord (encode (.amoand sm d b o)) (formAmo d b o intSet false (semAmo sm))
    (fun is => amoEff is (fun _ => 5) true sm d.toNat (is.laneAddrs b.toNat o.toNat)) s

/-- AMOOR (R286 to R288). -/
def execAmoor (sm : BitVec 4) (d : BitVec 7) (b : BitVec 5) (o : BitVec 7) (s : State) : StepOut :=
  issueWord (encode (.amoor sm d b o)) (formAmo d b o intSet false (semAmo sm))
    (fun is => amoEff is (fun _ => 6) true sm d.toNat (is.laneAddrs b.toNat o.toNat)) s

/-- AMOXOR (R286 to R288). -/
def execAmoxor (sm : BitVec 4) (d : BitVec 7) (b : BitVec 5) (o : BitVec 7) (s : State) : StepOut :=
  issueWord (encode (.amoxor sm d b o)) (formAmo d b o intSet false (semAmo sm))
    (fun is => amoEff is (fun _ => 7) true sm d.toNat (is.laneAddrs b.toNat o.toNat)) s

/-- AMOSWP (R286 to R288). -/
def execAmoswp (sm : BitVec 4) (d : BitVec 7) (b : BitVec 5) (o : BitVec 7) (s : State) : StepOut :=
  issueWord (encode (.amoswp sm d b o)) (formAmo d b o intSet false (semAmo sm))
    (fun is => amoEff is (fun _ => 8) true sm d.toNat (is.laneAddrs b.toNat o.toNat)) s

/-- AMOFADD (R286 to R288). -/
def execAmofadd (sm : BitVec 4) (d : BitVec 7) (b : BitVec 5) (o : BitVec 7) (s : State) : StepOut :=
  issueWord (encode (.amofadd sm d b o)) (formAmo d b o floatSet false (semAmo sm))
    (fun is => amoEff is (fun t => floatOp t) true sm d.toNat (is.laneAddrs b.toNat o.toNat)) s

/-- AMOAADD (R286 to R288). -/
def execAmoaadd (sm : BitVec 4) (d : BitVec 7) (b : BitVec 5) (o : BitVec 7) (s : State) : StepOut :=
  issueWord (encode (.amoaadd sm d b o)) (formAmo d b o cellSet false (semAmo sm))
    (fun is => amoEff is (fun _ => 10) true sm d.toNat (is.laneAddrs b.toNat o.toNat)) s

/-- REDADD (R286 to R288). -/
def execRedadd (sm : BitVec 4) (d : BitVec 7) (b : BitVec 5) (o : BitVec 7) (s : State) : StepOut :=
  issueWord (encode (.redadd sm d b o)) (formAmo d b o intSet false (semStore sm))
    (fun is => amoEff is (fun _ => 0) false sm d.toNat (is.laneAddrs b.toNat o.toNat)) s

/-- REDMIN (R286 to R288). -/
def execRedmin (sm : BitVec 4) (d : BitVec 7) (b : BitVec 5) (o : BitVec 7) (s : State) : StepOut :=
  issueWord (encode (.redmin sm d b o)) (formAmo d b o intSet false (semStore sm))
    (fun is => amoEff is (fun t => if t = .ui32 then 3 else 1) false sm d.toNat (is.laneAddrs b.toNat o.toNat)) s

/-- REDMAX (R286 to R288). -/
def execRedmax (sm : BitVec 4) (d : BitVec 7) (b : BitVec 5) (o : BitVec 7) (s : State) : StepOut :=
  issueWord (encode (.redmax sm d b o)) (formAmo d b o intSet false (semStore sm))
    (fun is => amoEff is (fun t => if t = .ui32 then 4 else 2) false sm d.toNat (is.laneAddrs b.toNat o.toNat)) s

/-- REDFADD (R286 to R288). -/
def execRedfadd (sm : BitVec 4) (d : BitVec 7) (b : BitVec 5) (o : BitVec 7) (s : State) : StepOut :=
  issueWord (encode (.redfadd sm d b o)) (formAmo d b o floatSet false (semStore sm))
    (fun is => amoEff is (fun t => floatOp t) false sm d.toNat (is.laneAddrs b.toNat o.toNat)) s

/-- REDAADD (R286 to R288). -/
def execRedaadd (sm : BitVec 4) (d : BitVec 7) (b : BitVec 5) (o : BitVec 7) (s : State) : StepOut :=
  issueWord (encode (.redaadd sm d b o)) (formAmo d b o cellSet false (semStore sm))
    (fun is => amoEff is (fun _ => 10) false sm d.toNat (is.laneAddrs b.toNat o.toNat)) s

/-- CAS (R286, R289): the expected value stands in the first register or pair, the new value in the second. -/
def execCas (sm : BitVec 4) (d : BitVec 7) (b : BitVec 5) (o : BitVec 7) (s : State) : StepOut :=
  issueWord (encode (.cas sm d b o)) (formAmo d b o intSet true (semAmo sm)) (fun is =>
    let k := etRegs is.et
    amoEff2 is 11 (4 * k) true sm d.toNat (fun l => vregs is.g (d.toNat + k) l k) (is.laneAddrs b.toNat o.toNat)) s

end Sys2Proof.Machine
end

