-- ==== Sys2Proof/Machine/Inbound.lean ====
section
/-! DEFINITION. Requests of other agents as their owner serves them: the host over port C, other nodes, and the harts
(R420, R421, R427, R431). -/

namespace Sys2Proof.Machine

/-- The runs of set bits of a byte mask: start and length. -/
def maskRuns (m : BitVec 128) : List (Nat × Nat) :=
  let r := (List.range 128).foldl (fun (x : List (Nat × Nat) × Bool) i =>
    if m.getLsbD i then
      (match x.2, x.1 with
        | true, (a, n) :: t => ((a, n + 1) :: t, true)
        | _, l => ((i, 1) :: l, true))
    else (x.1, false)) ([], false)
  r.1.reverse

/-- The same runs in parts of at most 16 bytes. -/
def maskParts (m : BitVec 128) : List (Nat × Nat) :=
  (maskRuns m).flatMap (fun r => (List.range ((r.2 + 15) / 16)).map (fun i => (r.1 + 16 * i, min 16 (r.2 - 16 * i))))

/-- The bytes a request touches: a write those of its mask within the line, another its own from its address. -/
def reqRuns (r : InReq) : List (Nat × Nat) := if r.kind = .wr then maskRuns r.mask else [(0, r.size)]

/-- The address the runs count from. -/
def reqBase (r : InReq) : DWord := if r.kind = .wr then BitVec.ofNat 64 (r.addr.toNat / 128 * 128) else r.addr

/-- What a request needs permission for (R216). A hart's read for register 65 is its fetch. -/
def reqKind (r : InReq) : AKind :=
  match r.kind with
  | .rd =>
    (match r.origin with
      | .hart _ 65 => .fetch
      | _ => .load)
  | .rdc => .load
  | .wr => .store
  | .ntf => .store
  | .amo => .amo

/-- The translation of a request's page at the owning die. Quinmin's service space has no contexts: its offsets are
those of its second stage. -/
def inTranslate (s : State) (r : InReq) (die off : Nat) : TrRes :=
  if r.part = 16 then
    match s2translate s 16 die off with
    | some (pa, e) => if permits (reqKind r) false (BitVec.allOnes 64) e then .ok pa e else .denied
    | none => .s2 off
  else translate s { part := r.part, ctx := r.ctx, user := r.user } (reqKind r) die off

/-- How a request fares at its owner: performed with its data and whether they carry the poison mark; failed; held, for
a bias flip or a second-stage resolution; or handed to an operator's core. -/
inductive InRes where
  | done (s : State) (poison : Bool) (data : Nat)
  | fail (f : InFail)
  | hold (s : State)
  | window (ls : List StLane)

/-- The valid table words that a write of Quinmin's covers: an MTLB may still use them (R217). -/
def oldWords (s : State) (r : InReq) (t : Target) : List (Nat × DWord) :=
  match t with
  | .hbm d o =>
    if r.part = 16 then
      ((List.range 16).filter (fun j => decide (r.mask.toNat / 2 ^ (8 * j) % 256 ≠ 0))).filterMap (fun j =>
        let e := rdPte s.hbm d (o + 8 * j)
        if pteV e then some (hkey d (o + 8 * j), e) else none)
    else []
  | _ => []

/-- Performs a request on bytes of memory or scratchpad from `t` on. An RMW of poisoned bytes is not performed
(R453). -/
def performIn (s : State) (r : InReq) (t : Target) : InRes :=
  match r.kind with
  | .rd => .done (touch s none t r.size false) (poisonedT s t r.size) (readT s t r.size)
  | .rdc => .done (touch s none t r.size false) (poisonedT s t r.size) (readT s t r.size)
  | .wr =>
    .done ((maskRuns r.mask).foldl (fun s x => writeT s (t.plus x.1) x.2 (r.data.toNat / 2 ^ (8 * x.1)))
      { s with s2old := s.s2old ++ oldWords s r t }) false 0
  | .ntf => .fail .notMapped
  | .amo =>
    if poisonedT s t r.size then .fail .refused
    else
      let old := readT s t r.size
      .done (writeT s t r.size (rmw r.op r.size old r.a.toNat r.b.toNat)) false old

/-- Whether a range lock stops a request; none stops the host (R188). -/
def inLocked (s : State) (r : InReq) : Bool :=
  (match r.origin with
    | .host _ => false
    | _ => true)
  && (reqRuns r).any (fun x => rlockHit s { part := r.part, ctx := r.ctx, user := r.user } (reqKind r) ((reqBase r).toNat + x.1) x.2)

/-- Whether the requester waits when a second-stage entry is missing: a hart does, the host and another node do not
(R218, R431). -/
def InReq.waitsS2 (r : InReq) : Bool :=
  match r.origin with
  | .hart _ _ => true
  | _ => false

/-- Where a request for a page goes: the host's own and Quinmin's to its home, another node's as an access of the device does
(R224). -/
def InReq.place (r : InReq) (pte : DWord) (die pa : Nat) : Target :=
  match r.origin with
  | .host _ => .hbm die pa
  | _ => if r.part = 16 then .hbm die pa else biased pte die pa

/-- How a request to a window fails where R295 has neither a store nor a load for it: the host's as one that R295 refuses (R421),
another agent's as unresolvable (R427). -/
def InReq.noWindow (r : InReq) : InFail :=
  match r.origin with
  | .host _ => .refused
  | _ => .unresolvable

/-- A part of a request as one lane. -/
def inLane (addr : DWord) (tgt : Target) (size data : Nat) : StLane :=
  { lane := 0, addr := addr, tgt := tgt, size := size, data := BitVec.ofNat 128 data }

/-- Serves a request at its owner: the checks in the order of R427, then the access itself. -/
def serveIn (s : State) (r : InReq) : InRes :=
  if r.kind ≠ .wr ∧ r.addr.toNat % r.size ≠ 0 then .fail .unresolvable
  else if r.waitsS2 && decide (r.part < 16) && !(capOn s r.part capService) then .fail .permission
  else
    match route s r.part (reqBase r) with
    | .hole => .fail .unresolvable
    | .to (.notify p i) =>
      let word := mget s.notify (p * 4096 + i)
      (match r.origin, r.kind with
        | .host _, .rd => if r.size = 8 then .done s false word.toNat else .fail .refused
        | .host _, .wr =>
          (match maskRuns r.mask with
            | [(x, 8)] =>
              if x % 8 = 0 then .done (writeT s (.notify p (i + x / 8)) 8 (r.data.toNat / 2 ^ (8 * x))) false 0 else .fail .refused
            | _ => .fail .refused)
        | .node _, .ntf =>
          .done (writeT s (.notify p i) 8 (if r.op = 0 then (word + BitVec.ofNat 64 r.a.toNat).toNat else r.a.toNat)) false word.toNat
        | .node _, _ => .fail .notMapped
        | _, _ => .fail .unresolvable)
    | .to (.window c o) =>
      (match r.kind with
        | .wr =>
          let ls := (maskParts r.mask).map (fun x => inLane (reqBase r + BitVec.ofNat 64 x.1) (.window c (o + x.1)) x.2
            (r.data.toNat / 2 ^ (8 * x.1)))
          if ls.all (fun l => match winOwner s c (match l.tgt with
              | .window _ x => x
              | _ => 0) with
            | some (_, _, a) => a.input
            | none => false) then .window ls else .fail r.noWindow
        | .amo => .fail r.noWindow
        | .ntf => .fail r.noWindow
        | _ =>
          let ls := (List.range ((r.size + 15) / 16)).map (fun k => inLane (r.addr + BitVec.ofNat 64 (16 * k)) (.window c (o + 16 * k)) (min 16 r.size) 0)
          if ls.all (fun l => match winOwner s c (match l.tgt with
              | .window _ x => x
              | _ => 0) with
            | some (_, _, a) => !a.input
            | none => false) then .window ls else .fail r.noWindow)
    | .to _ => .fail .unresolvable
    | .spad v c o =>
      if (reqRuns r).any (fun x => (List.range x.2).any (fun k => !(allocHeld s r.part r.ctx v (o + x.1 + k)))) then .fail .unresolvable
      else if inLocked s r || (reqRuns r).any (fun x => deckHit s (reqKind r) c (o + x.1) x.2) then .fail .refused
      else performIn s r (.spad c o)
    | .paged d o =>
      match inTranslate s r d o with
      | .absent => .fail .notMapped
      | .denied => .fail .permission
      | .s2 ia =>
        if r.waitsS2 && !(s.s2refused.contains (r.part, d, ia / 8192)) then .hold (signalS2 s r.part d ia) else .fail .secondStage
      | .flip _ => .hold s
      | .ok pa e =>
        if !r.wcok && pteWC e then .fail .permission
        else if inLocked s r then .fail .refused
        else if awaitsPortC s (r.place e d pa) then .hold s
        else performIn s r (r.place e d pa)

/-- The source of a request toward an operator (R305). -/
def InReq.who (r : InReq) : Who := { part := r.part, ctx := r.ctx, blk := none, die := 0, cls := r.cls, node := r.node, gid := none }

/-- Hands a request to the core that owns a window; a write in parts of at most 16 bytes. -/
def windowIn (s : State) (id : Nat) (r : InReq) (ls : List StLane) : State :=
  match ls with
  | [] => answerIn s id none false 0
  | l :: _ =>
    let core := match l.tgt with
      | .window c _ => c
      | _ => 0
    if r.kind = .wr then
      let n := ls.length
      let one (l : StLane) (more : Bool) : HeldAcc := arrival s core false false r.who 0 [l] (some id) more
      { s with heldAcc := s.heldAcc ++ (ls.zip (List.range n)).map (fun x => one x.1 (decide (x.2 + 1 < n))) }
    else
      let one : HeldAcc := arrival s core true (decide (r.kind = .rdc)) r.who 0 ls (some id) false
      { s with heldAcc := s.heldAcc ++ [one] }

/-- Whether a request waits behind an earlier one: whatever the host sends over port C behind its earlier writes (R210, R422), a
request of another node behind that node's earlier requests to the same line (R424). -/
def inBehind (s : State) (id : Nat) (r : InReq) : Bool :=
  s.inreqs.any (fun e => decide (e.1 < id) && (match r.origin, e.2.origin with
    | .host _, .host _ => decide (e.2.kind = .wr)
    | .node a, .node b => decide (a = b) && decide (e.2.addr.toNat / 128 = r.addr.toNat / 128)
    | _, _ => false))

/-- Serves or holds the request `id` of the table. -/
def tryIn (s : State) (id : Nat) : State :=
  match tget s.inreqs id with
  | none => s
  | some r =>
    if s.heldAcc.any (fun h => decide (h.req = some id)) || inBehind s id r then s
    else
      match serveIn s r with
      | .done s p x => answerIn s id none p x
      | .fail f => answerIn s id (some f) false 0
      | .hold s => s
      | .window ls => windowIn s id r ls

/-- A request of another agent arrives. -/
def acceptIn (s : State) (r : InReq) : State :=
  let (id, s) := fresh s
  tryIn { s with inreqs := tset s.inreqs id r } id

/-- Tries every held request again, oldest first. -/
def pumpIn (s : State) : State := (s.inreqs.map Prod.fst).foldl tryIn s

/-- Ends held requests that `f` picks, as revoked; what waited behind them goes on. -/
def revokeIn (s : State) (f : InReq → Bool) : State :=
  let ids := (s.inreqs.filter (fun r => f r.2)).map Prod.fst
  pumpIn (ids.foldl (fun s id => answerIn { s with heldAcc := s.heldAcc.filter (fun h => decide (h.req ≠ some id)) } id (some .revoked) false 0) s)

/-! ## The steps of window owners -/

/-- OPERATOR_INPUT_STORE: the owner checks and applies the next store that has arrived (R303). -/
def execOperatorInputStore (core : Nat) (s : State) : StepOut :=
  .next (match firstHeld s core (fun i h => !h.load && !h.held && !(heldBehind s i h)) with
    | some i => pumpIn (applyStore s i)
    | none => s)

/-- HELD_STORE_APPLY: a place has freed, and the oldest held store of the core is checked again and applied (R303, R308). -/
def execHeldStoreApply (core : Nat) (s : State) : StepOut :=
  .next (match firstHeld s core (fun i h => waitsPlace core h && !(heldBehind s i h)
      && !(opHolds (match h.lanes with
        | l :: _ => heldOwner s h l
        | [] => none))) with
    | some i => pumpIn (applyStore s i)
    | none => s)

/-- OPERATOR_RESULT_LOAD: the owner serves the next load that need not wait (R304). -/
def execOperatorResultLoad (core : Nat) (s : State) : StepOut :=
  .next (match firstHeld s core (fun i h => h.load && !(heldBehind s i h)
      && !(h.lanes.any (fun l => decide (ownerLoad (heldOwner s h l) l h.who = .wait)))) with
    | some i => pumpIn (serveLoad s i)
    | none => s)

end Sys2Proof.Machine
end

