-- ==== Sys2Proof/Machine/Paging.lean ====
section
/-! DEFINITION. Pages and frames: context records in memory, the frame pools (R220, R372), PMAP, PUNMAP, TLBI and
POOLGET (R222, R223, R229 to R233), and the end of a bias flip (R226). -/

namespace Sys2Proof.Machine

/-! ## Context records (R369, R370) -/

/-- The place of `n` consecutive words of a context record at an intermediate offset of die 0 (log 26). -/
def recTarget (s : State) (p addr i : Nat) (write : Bool) : DevRes Target :=
  match s2translate s p 0 (addr + 8 * i) with
  | none => .s2 0 (addr + 8 * i)
  | some (pa, e2) => if write && !(pteW e2) then .failed 0 else .done (.hbm 0 pa)

/-- Reads `n` words of a record from word `i` on. -/
def recRead (s : State) (p addr i n : Nat) : DevRes (List DWord) :=
  match recTarget s p addr i false with
  | .done t => .done ((List.range n).map (fun k => BitVec.ofNat 64 (readT s (match t with
      | .hbm d o => .hbm d (o + 8 * k)
      | t => t) 8)))
  | .failed a => .failed a
  | .s2 d ia => .s2 d ia
  | .wait => .wait

/-- Writes words of a record from word `i` on; a write that fails is dropped (R370). -/
def recWrite (s : State) (p addr i : Nat) (ws : List DWord) : State :=
  match recTarget s p addr i true with
  | .done (.hbm d o) => (ws.zip (List.range ws.length)).foldl (fun s x => writeT s (.hbm d (o + 8 * x.2)) 8 x.1.toNat) s
  | _ => s

/-! ## Frames (R220, R233, R372) -/

/-- The 8 KiB frames of a size code (R233). -/
def sizeFrames (size : Nat) : Nat :=
  match size with
  | 0 => 1
  | 1 => 8
  | 2 => 1024
  | _ => 1048576

/-- A frame value (R233). -/
def frameValue (die num : Nat) : DWord := BitVec.ofNat 64 (die * 2 ^ 53 + num * 2 ^ 13)

/-- The frame number of a value. -/
def frameNum (v : DWord) : Nat := v.toNat / 2 ^ 13 % 2 ^ 40

/-- Whether two ranges of frames of one die meet. -/
def framesMeet (d n k d' n' k' : Nat) : Bool := decide (d = d') && decide (n < n' + k') && decide (n' < n + k)

/-- Whether some context of a partition holds a frame of a range. -/
def frameHeld (s : State) (p die num k : Nat) : Bool :=
  s.ctxs.any (fun c => decide (c.1 / 1024 = p) && c.2.frames.any (fun f => framesMeet die num k f.die f.num (sizeFrames f.size)))

/-- Whether a feed entry names a free frame of the partition, aligned, on the pool's die, and of the pool's kind:
a bank-resident frame keeps its place under the second stage (R328, R372; log 27); any other frame nobody holds will do (log 123). -/
def feedOk (s : State) (p die : Nat) (br : Bool) (e : DWord) : Bool :=
  let k := sizeFrames (e.toNat % 4)
  let n := frameNum e
  decide (pteDie e = die) && decide (n % k = 0) && decide (e.toNat / 2 ^ 2 % 2 ^ 11 = 0) && decide (e.toNat / 2 ^ 55 = 0)
    && !(br && decide (e.toNat % 4 = 3)) && !(frameHeld s p die n k)
    && (List.range k).all (fun i =>
      match s2translate s p die ((n + i) * 8192) with
      | none => false
      | some (pa, _) => !br || decide (pa / 8192 % 2 ^ 15 = (n + i) % 2 ^ 15))

/-- Zeroes the 8 KiB of an intermediate frame; no cache keeps a copy of it (R220). -/
def zeroFrame (s : State) (p die num : Nat) : State :=
  match s2translate s p die (num * 8192) with
  | none => s
  | some (pa, _) =>
    let s := agentWrites s (linesFrom (hkey die pa) 8192)
    { s with
      hbm := mclear s.hbm (hkey die pa) (hkey die pa + 8192)
      poison := mclear s.poison (hkey die pa / 16) (hkey die pa / 16 + 512)
      ctag := mclear s.ctag (hkey die pa / 16) (hkey die pa / 16 + 512) }

/-- The pool descriptor `k` as its record holds it (R372). -/
structure Pool where
  feed : DWord
  flog : Nat
  fin : Nat
  fout : Nat
  reta : DWord
  rlog : Nat
  rin : Nat
  rout : Nat
deriving DecidableEq, Repr

def readPool (w : List DWord) : Pool :=
  let a := w.getD 0 0
  let b := w.getD 1 0
  let c := w.getD 2 0
  let d := w.getD 3 0
  { feed := BitVec.ofNat 64 (a.toNat / 4096 * 4096), flog := a.toNat % 16, fin := b.toNat / 2 ^ 32, fout := b.toNat % 2 ^ 32,
    reta := BitVec.ofNat 64 (c.toNat / 4096 * 4096), rlog := c.toNat % 16, rin := d.toNat / 2 ^ 32, rout := d.toNat % 2 ^ 32 }

/-- Whether a return ring has room (R372). -/
def Pool.room (q : Pool) : Bool := decide ((q.rin + 2 ^ 32 - q.rout) % 2 ^ 32 < 2 ^ q.rlog)

/-- Writes an entry to a pool's return ring; one that the tables refuse is lost (R370). -/
def poolReturn (s : State) (rq : Req) (q : Pool) (v : DWord) : DevRes (State × Pool) :=
  let q' := { q with rin := (q.rin + 1) % 2 ^ 32 }
  match devWrite s rq (q.reta + BitVec.ofNat 64 (q.rin % 2 ^ q.rlog * 8)) [v] with
  | .done s => .done (s, q')
  | .failed _ => .done (s, q')
  | .s2 d ia => if s2Refused s rq.part d ia then .done (s, q') else .s2 d ia
  | .wait => .wait

/-- Takes feed entries in ring order until one has the size asked for or none is left (R372). A rejected entry goes
to the return ring with bit 2 set; without room there it stays where it is. The answer says whether a ring's page holds it up
(R218, R225). -/
def feedLoop (p c die : Nat) (br : Bool) (size : Nat) : Nat → State → Pool → State × Pool × DevRes Unit
  | 0, s, q => (s, q, .done ())
  | fuel + 1, s, q =>
    let rq : Req := { part := p, ctx := c, user := false }
    match devRead s rq (q.feed + BitVec.ofNat 64 (q.fout % 2 ^ q.flog * 8)) 1 with
    | .done (e :: _) =>
      let q' := { q with fout := (q.fout + 1) % 2 ^ 32 }
      if feedOk s p die br e then
        let f : Frame := { die := die, num := frameNum e, size := e.toNat % 4, br := br, free := true, maps := 0, table := false }
        let s := { s with ctxs := tmod s.ctxs (p * 1024 + c) (fun x => { x with frames := x.frames ++ [f] }) }
        if f.size = size then (s, q', .done ()) else feedLoop p c die br size fuel s q'
      else if q.room then
        (match poolReturn s rq q' (e ||| 4) with
          | .done (s, q') => feedLoop p c die br size fuel s q'
          | .failed _ => (s, q, .done ())
          | .s2 d ia => (s, q, .s2 d ia)
          | .wait => (s, q, .wait))
      else (s, q, .done ())
    | .done [] => (s, q, .done ())
    | .failed _ => (s, q, .done ())
    | .s2 d ia => (s, q, if s2Refused s p d ia then .done () else .s2 d ia)
    | .wait => (s, q, .wait)

/-- The index of a free frame of a size, die and kind. -/
def freeFrame (cx : Ctx) (die : Nat) (br : Bool) (size : Nat) : Option (Nat × Frame) :=
  findIdx? (fun f => f.free && decide (f.die = die) && decide (f.br = br) && decide (f.size = size)) cx.frames 0

/-- Draws on the feed ring of a pool of a context when no free frame fits. -/
def feedPool (s : State) (p c die : Nat) (br : Bool) (size : Nat) : State × DevRes Unit :=
  match tget s.ctxs (p * 1024 + c) with
  | none => (s, .done ())
  | some cx =>
    if (freeFrame cx die br size).isSome then (s, .done ())
    else
      let k := 2 * die + (if br then 1 else 0)
      match recRead s p cx.addr (20 + 4 * k) 4 with
      | .done w =>
        let q := readPool w
        let (s, q', r) := feedLoop p c die br size ((q.fin + 2 ^ 32 - q.fout) % 2 ^ 32) s q
        let s := recWrite s p cx.addr (20 + 4 * k + 1) [BitVec.ofNat 64 (q.fin * 2 ^ 32 + q'.fout)]
        (recWrite s p cx.addr (20 + 4 * k + 3) [BitVec.ofNat 64 (q'.rin * 2 ^ 32 + q.rout)], r)
      | .failed _ => (s, .done ())
      | .s2 d ia => (s, .s2 d ia)
      | .wait => (s, .wait)

/-- How taking a frame ends: a frame; none there; or what it waits for (R218, R225). -/
inductive Took where
  | frame (num : Nat)
  | empty
  | s2 (die ia : Nat)
  | wait
deriving DecidableEq, Repr

/-- Takes a frame from a context's pool and zeroes it, once every page of it has its second stage (R218, R220, R233). Without one
that fits, what the pool has drawn from its feed ring stays drawn (R372). -/
def takeFrame (s : State) (p c die : Nat) (br : Bool) (size : Nat) : State × Took :=
  let (s, r) := feedPool s p c die br size
  match tget s.ctxs (p * 1024 + c) with
  | none => (s, .empty)
  | some cx =>
    match freeFrame cx die br size with
    | none => (s, match r with
      | .s2 d ia => .s2 d ia
      | .wait => .wait
      | _ => .empty)
    | some (i, f) =>
      match (List.range (sizeFrames size)).find? (fun k => (s2translate s p die ((f.num + k) * 8192)).isNone) with
      | some k => (s, .s2 die ((f.num + k) * 8192))
      | none =>
        let s := { s with ctxs := tset s.ctxs (p * 1024 + c) { cx with frames := cx.frames.set i { f with free := false, maps := 0, table := false } } }
        ((List.range (sizeFrames size)).foldl (fun s k => zeroFrame s p die (f.num + k)) s, .frame f.num)

/-- Gives frames just taken for tables back to the ordinary pool of a die. -/
def untakeFrames (s : State) (p c die : Nat) (fs : List Nat) : State :=
  { s with ctxs := tmod s.ctxs (p * 1024 + c) (fun x => { x with frames := x.frames.map (fun f =>
      if !f.free && decide (f.die = die) && !f.br && decide (f.size = 0) && fs.contains f.num then { f with free := true, table := false } else f) }) }

/-- Changes the map counts of the frames of a context that a range of frames touches. -/
def countMaps (s : State) (p c die num k : Nat) (f : Nat → Nat) : State :=
  { s with ctxs := tmod s.ctxs (p * 1024 + c) (fun x =>
    { x with frames := x.frames.map (fun r =>
      if framesMeet die num k r.die r.num (sizeFrames r.size) then { r with maps := f r.maps } else r) }) }

/-- Whether a context holds every frame of a range, outside its pools and its tables, and of a kind. -/
def framesOwned (cx : Ctx) (die num k : Nat) (br : Bool) : Bool :=
  let parts := cx.frames.filter (fun r => framesMeet die num k r.die r.num (sizeFrames r.size))
  parts.all (fun r => !r.free && !r.table && decide (r.br = br))
    && decide (parts.foldl (fun a r => a + (min (num + k) (r.num + sizeFrames r.size) - max num r.num)) 0 = k)

/-! ## Walking to a level -/

/-- Where the walk to the entry of a leaf with `k` levels below it ends: at its entry, at an invalid entry with `j`
levels below it, at a larger leaf, or at a second-stage failure. -/
inductive SlotAt where
  | slot (phys : Nat)
  | missing (j phys : Nat)
  | covered
  | s2 (ia : Nat)
deriving DecidableEq, Repr

def slotWalk (s : State) (p die off k : Nat) : Nat → Nat → SlotAt
  | 0, tbl => .s2 tbl
  | j + 1, tbl =>
    let ia := tbl + 8 * tblIdx off j
    match s2translate s p die ia with
    | none => .s2 ia
    | some (pa, _) =>
      if j ≤ k then .slot pa
      else
        let e := rdPte s.hbm die pa
        if !pteV e then .missing j pa
        else if pteT e then slotWalk s p die off k j (pteOff e)
        else .covered

/-- The walk from a context's root. -/
def slotOfLeaf (s : State) (p c die off k : Nat) : SlotAt :=
  match tget s.ctxs (p * 1024 + c) with
  | none => .s2 0
  | some cx => slotWalk s p die off k 4 (pteOff (cx.roots.getD die 0))

/-- Creates the tables between an invalid entry with `j` levels below it and the table of level `k`, from frames
already taken, and gives the place of the leaf's entry. -/
def makeTables (s : State) (p die off k : Nat) : Nat → Nat → List Nat → Option (State × Nat)
  | 0, pa, _ => some (s, pa)
  | j + 1, pa, frames =>
    if j + 1 ≤ k then some (s, pa)
    else
      match frames with
      | [] => none
      | f :: r =>
        let s := writeT s (.hbm die pa) 8 (frameValue die f ||| 3).toNat
        match s2translate s p die (f * 8192 + 8 * tblIdx off j) with
        | none => none
        | some (pa, _) => makeTables s p die off k j pa r

/-- A frame that has been taken becomes a table's (R220). -/
def tableFrame (s : State) (p c die num : Nat) : State :=
  { s with ctxs := tmod s.ctxs (p * 1024 + c) (fun x => { x with frames := x.frames.map (fun f =>
      if !f.free && decide (f.die = die) && !f.br && decide (f.size = 0) && decide (f.num = num) then { f with table := true } else f) }) }

/-- Takes `n` table frames from the ordinary pool of a die; else none, with what stands in the way. -/
def takeTables (p c die : Nat) : Nat → State → List Nat → State × Except Took (List Nat)
  | 0, s, fs => (s, .ok fs)
  | n + 1, s, fs =>
    match takeFrame s p c die false 0 with
    | (s, .frame f) => takeTables p c die n (tableFrame s p c die f) (fs ++ [f])
    | (s, t) => (untakeFrames s p c die fs, .error t)

/-! ## PMAP (R230) -/

/-- The number of levels below a leaf of `lvl` (R229). -/
def lvlBelow (lvl : Nat) : Nat := lvl

/-- The entries of a leaf or run, and the bytes one covers. -/
def leafCount (run : Bool) : Nat := if run then 8 else 1

/-- Whether an address is a paged address of this module (R229). -/
def pagedVa (s : State) (va : DWord) : Bool :=
  (decide (vaNode va = 509) || decide (vaNode va = s.mnode)) && decide (vaOff va < DA)

/-- A PTE value without its reserved bits, which are ignored (R8, R213). -/
def pteClean (e : DWord) : DWord := e &&& 0x7FFFFFFFFFFF3F#64

/-- Whether a PTE value satisfies R214 for a leaf of `lvl`, but for its alignment. RUN comes with the run form only
(R215), and T with no leaf that PMAP writes (log 60). -/
def pteOk (lvl : Nat) (run : Bool) (e : DWord) : Bool :=
  pteV e && !pteT e && (!pteW e || pteR e) && (!pteRun e || (decide (lvl = 0) && run))

/-- The entry as it is written: RUN as the form says. -/
def leafPte (run : Bool) (e : DWord) (i : Nat) : DWord :=
  (if run then e ||| 0x400 else e) + BitVec.ofNat 64 (i * 2 ^ 13)

/-- The code of a PMAP's first checks (R230), 0 for none; host bias needs capability 0x0061 (R21). -/
def pmapCheck (s : State) (p c : Nat) (va e : DWord) (lvl : Nat) (run : Bool) : Nat :=
  let k := if run then 8 else leafSize lvl / 8192
  if !(pagedVa s va) then 8
  else if !(pteOk lvl run e) || (pteBias e && !(capOn s p capPortC)) then 4
  else if frameNum e % k ≠ 0 then 5
  else
    match tget s.ctxs (p * 1024 + c) with
    | none => 6
    | some cx => if pteDie e = vaDie va ∧ framesOwned cx (vaDie va) (frameNum e) k (pteBR e) = true then 0 else 6

/-- Writes the leaf or the leaves of a run from an entry's place on, and counts the maps. -/
def writeLeaves (s : State) (p c die pa lvl : Nat) (run : Bool) (e : DWord) : State :=
  (List.range (leafCount run)).foldl (fun s i =>
    let x := leafPte run e i
    countMaps (writeT s (.hbm die (pa + 8 * i)) 8 x.toNat) p c die (frameNum x) (leafSize lvl / 8192) (· + 1)) s

/-- The leaves that stand from an entry's place on become RETIRING, and their maps are no longer counted (R217,
R223). -/
def retireLeaves (s : State) (p c die off pa lvl : Nat) (run : Bool) : State :=
  (List.range (leafCount run)).foldl (fun s i =>
    let e := rdPte s.hbm die (pa + 8 * i)
    let t : Stale := { part := p, ctx := c, die := die, off := off + 8192 * i, lvl := 3 - lvl, pte := e, used := true }
    countMaps { s with stale := s.stale ++ [t] } p c die (frameNum e) (leafSize lvl / 8192) (· - 1)) s

/-- The start of the range a leaf or run covers. -/
def leafStart (lvl : Nat) (run : Bool) (va : DWord) : DWord :=
  let n := if run then 65536 else leafSize lvl
  BitVec.ofNat 64 (va.toNat / n * n)

/-- Whether two leaves differ in BIAS alone, and whether they differ in it at all. -/
def biasOnly (a b : DWord) : Bool := decide ((a ^^^ b) = 0x800)
def biasDiffers (a b : DWord) : Bool := pteBias a != pteBias b

/-- How PMAP ends: a code; a flip to wait for; a wait; or a second-stage failure. -/
inductive MapRes where
  | code (s : State) (n : Nat)
  | flip (s : State) (id : Nat)
  | again (s : State)
  | s2 (s : State) (die ia : Nat)

/-- PMAP without replace (R230); for a fresh table frame without a second-stage entry it waits (log 61). -/
def pmapNew (s : State) (p c : Nat) (va e : DWord) (lvl : Nat) (run : Bool) : MapRes :=
  let die := vaDie va
  let off := vaOff va
  if (flipAt s p c die off).isSome then .again s
  else
  match slotOfLeaf s p c die off lvl with
  | .s2 ia => .s2 s die ia
  | .covered => .code s 1
  | .slot pa =>
    if (List.range (leafCount run)).any (fun i => pteV (rdPte s.hbm die (pa + 8 * i))) then .code s 1
    else .code (writeLeaves s p c die pa lvl run e) 0
  | .missing j pa =>
    match takeTables p c die (j - lvl) s [] with
    | (s, .error (.s2 d ia)) => .s2 s d ia
    | (s, .error .wait) => .again s
    | (s, .error _) => .code s 3
    | (s', .ok fs) =>
      match makeTables s' p die off lvl j pa fs with
      | none => .again (untakeFrames s' p c die fs)
      | some (s', pa) => .code (writeLeaves s' p c die pa lvl run e) 0

/-- PMAP with replace (R223, R225, R230). -/
def pmapReplace (s : State) (p c : Nat) (va e : DWord) (lvl : Nat) (run : Bool) : MapRes :=
  let die := vaDie va
  let off := vaOff va
  match slotOfLeaf s p c die off lvl with
  | .s2 ia => .s2 s die ia
  | .covered => .code s 2
  | .missing _ _ => .code s 2
  | .slot pa =>
    let old := rdPte s.hbm die pa
    if !(pteV old) || pteT old || (run && !(pteRun old)) then .code s 2
    else if pteRun old && !run then .code s 7
    else if (flipAt s p c die off).isSome then .again s
    else if biasOnly old (leafPte run e 0) then
      let (id, s) := fresh s
      .flip { s with flips := tset s.flips id { part := p, ctx := c, die := die, off := off, lvl := 3 - lvl, run := run, pte := old,
                                                toHost := pteBias e, host := none, snoop := 0 } } id
    else if biasDiffers old (leafPte run e 0) then .code s 4
    else .code (writeLeaves (retireLeaves s p c die off pa lvl run) p c die pa lvl run e) 0

/-- The form of the paging instructions (R229). -/
def formPage (ops : List Operand) (bad : Bool) : Form := { Form.mk0 ops none .refused true with bad := fun _ => bad }

/-- PMAP (R230). -/
def execPmap (d a : BitVec 7) (p : BitVec 1) (r : BitVec 1) (l : BitVec 2) (s : State) : StepOut :=
  issueWord (encode (.pmap d a p r l)) (formPage [opS d.toNat, opS a.toNat] (l = 3 || (r = 1 && l ≠ 0))) (fun is =>
    let rq := reqOf is.s is.g
    let run := decide (r = 1)
    let va := leafStart l.toNat run (sreg is.g a.toNat)
    let e := pteClean (sreg is.g d.toNat)
    match pmapCheck is.s rq.part rq.ctx va e l.toNat run with
    | 0 =>
      (match if p = 1 then pmapReplace is.s rq.part rq.ctx va e l.toNat run else pmapNew is.s rq.part rq.ctx va e l.toNat run with
      | .code s n => .done { s with groups := tmod s.groups is.gid (fun g => setSreg g d.toNat (BitVec.ofNat 64 n)) }
      | .flip s id => .leave { s with groups := tmod s.groups is.gid (fun g => setSlot g is.side (beginWait is.sl (.flip d.toNat id))) }
      | .again s => .again s
      | .s2 s die ia => .leave (s2Fault s is.gid is.side die ia))
    | n => is.putS d.toNat (BitVec.ofNat 64 n)) s

/-- PUNMAP (R231). -/
def execPunmap (d a : BitVec 7) (r : BitVec 1) (l : BitVec 2) (s : State) : StepOut :=
  issueWord (encode (.punmap d a r l)) (formPage [opS d.toNat, opS a.toNat] (l = 3 || (r = 1 && l ≠ 0))) (fun is =>
    let rq := reqOf is.s is.g
    let run := decide (r = 1)
    let va := leafStart l.toNat run (sreg is.g a.toNat)
    let die := vaDie va
    let code (s : State) (n : Nat) : Eff :=
      .done { s with groups := tmod s.groups is.gid (fun g => setSreg g d.toNat (BitVec.ofNat 64 n)) }
    if !(pagedVa is.s va) then code is.s 8
    else
      match slotOfLeaf is.s rq.part rq.ctx die (vaOff va) l.toNat with
      | .s2 ia => .leave (s2Fault is.s is.gid is.side die ia)
      | .covered => code is.s 2
      | .missing _ _ => code is.s 2
      | .slot pa =>
        let old := rdPte is.s.hbm die pa
        if !(pteV old) || pteT old || (run && !(pteRun old)) then code is.s 2
        else if pteRun old && !run then code is.s 7
        else if (flipAt is.s rq.part rq.ctx die (vaOff va)).isSome then .again is.s
        else
          let s := retireLeaves is.s rq.part rq.ctx die (vaOff va) pa l.toNat run
          code ((List.range (leafCount run)).foldl (fun s i => writeT s (.hbm die (pa + 8 * i)) 8 0) s) 0) s

/-! ## TLBI (R232) -/

/-- Whether an old leaf overlaps a range of a die: TLBI ends the retiring of each such leaf (R232; log 122). -/
def staleIn (t : Stale) (die off n : Nat) : Bool :=
  decide (t.die = die) && decide (t.off / leafSize (3 - t.lvl) * leafSize (3 - t.lvl) < off + n)
    && decide (off < t.off / leafSize (3 - t.lvl) * leafSize (3 - t.lvl) + leafSize (3 - t.lvl))

/-- The bytes of the page that an old leaf belongs to: the leaf, or its whole run (R222). -/
def stalePage (t : Stale) : Nat := if pteRun t.pte then 65536 else leafSize (3 - t.lvl)

/-- Whether the page of an old leaf lies within a range of a die. -/
def staleWithin (t : Stale) (die off n : Nat) : Bool :=
  let k := stalePage t
  decide (t.die = die) && decide (off ≤ t.off / k * k) && decide (t.off / k * k + k ≤ off + n)

/-- The old leaves after an invalidation of a context's range: those that overlap it are used no more (R217), and a page within it
leaves RETIRING (R222, R232). -/
def retireStale (p c : Nat) (hit within : Stale → Bool) (l : List Stale) : List Stale :=
  let mine (t : Stale) : Bool := decide (t.part = p) && decide (t.ctx = c)
  (l.filter (fun t => !(mine t && within t))).map (fun t => if mine t && hit t then { t with used := false } else t)

/-- The groups of a context. -/
def ctxGroups (s : State) (p c : Nat) : List Nat :=
  (s.groups.filter (fun g => match tget s.blocks g.2.blk with
    | some b => decide (b.part = p) && decide (b.ctx = c)
    | none => false)).map Prod.fst

/-- Whether a near-bank command of the context still makes row accesses with translations it took (R232, R343). -/
def nbHolds (s : State) (p c : Nat) : Bool :=
  s.nbcmds.any (fun k => decide (k.2.part = p) && decide (k.2.ctx = c) && k.2.units.any (fun u =>
    (decide (u.st = .preparing) || decide (u.st = .running)) && !(u.src.isEmpty && u.dst.isEmpty)))

/-- TLBI: the accesses of the context that used an old entry are performed, and the entries are gone (R232). While
a store that a release holds back is left, or a near-bank command has translations, the slot waits. -/
def execTlbi (a : BitVec 7) (l : BitVec 1) (z : BitVec 6) (s : State) : StepOut :=
  issueWord (encode (.tlbi a l z)) (formPage [opS a.toNat] (40 < z.toNat || (l = 1 && z ≠ 0))) (fun is =>
    let rq := reqOf is.s is.g
    let va := sreg is.g a.toNat
    if l = 0 ∧ pagedVa is.s va = false then .done is.s
    else
      let n := 8192 * 2 ^ z.toNat
      let hit (t : Stale) : Bool := decide (l = 1) || staleIn t (vaDie va) (vaOff va / n * n) n
      let within (t : Stale) : Bool := decide (l = 1) || staleWithin t (vaDie va) (vaOff va / n * n) n
      let gs := ctxGroups is.s rq.part rq.ctx
      let s := gs.foldl performStores is.s
      if nbHolds s rq.part rq.ctx then .again s
      else if gs.any (fun k => match tget s.groups k with
          | some g => g.out.any (fun o => !o.stores.isEmpty)
          | none => false) then .again s
      else .done { s with stale := retireStale rq.part rq.ctx hit within s.stale }) s

/-! ## POOLGET (R233) -/

/-- Whether some old leaf of the context still names a frame of a range. -/
def frameRetiring (s : State) (p c die num k : Nat) : Bool :=
  s.stale.any (fun t => decide (t.part = p) && decide (t.ctx = c)
    && framesMeet die num k t.die (frameNum t.pte) (leafSize (3 - t.lvl) / 8192))

/-- POOLGET (R221, R233). -/
def execPoolget (d a : BitVec 7) (r : BitVec 1) (p : BitVec 1) (e : BitVec 1) (z : BitVec 2) (s : State) : StepOut :=
  issueWord (encode (.poolget d a r p e z)) (formPage [opS d.toNat, opS a.toNat] ((r = 1 && z = 3) || (e = 1 && p = 1))) (fun is =>
    let rq := reqOf is.s is.g
    let v := sreg is.g a.toNat
    let br := decide (r = 1)
    if p = 0 then
      match takeFrame is.s rq.part rq.ctx (vaDie v) br z.toNat with
      | (s, .frame f) => .done { s with groups := tmod s.groups is.gid (fun g => setSreg g d.toNat (frameValue (vaDie v) f)) }
      | (s, .s2 die ia) => .leave (s2Fault s is.gid is.side die ia)
      | (s, .wait) => .again s
      | (s, .empty) =>
        if e = 1 then .leave (escalate s is.gid is.sl.pc is.sl.exec z.toNat (vaDie v) r.toNat [d.toNat, is.side])
        else .done { s with groups := tmod s.groups is.gid (fun g => setSreg g d.toNat 1) }
    else
      match tget is.s.ctxs (rq.part * 1024 + rq.ctx) with
      | none => is.putS d.toNat 1
      | some cx =>
        match findIdx? (fun f => !f.free && !f.table && decide (f.die = pteDie v) && decide (f.num = frameNum v) && decide (f.size = z.toNat)
            && decide (f.br = br) && decide (f.maps = 0)) cx.frames 0 with
        | some (i, f) =>
          if frameRetiring is.s rq.part rq.ctx f.die f.num (sizeFrames f.size)
              || decide (v.toNat % 8192 ≠ 0 ∨ v.toNat / 2 ^ 55 ≠ 0) then is.putS d.toNat 1
          else
            let s := { is.s with ctxs := tset is.s.ctxs (rq.part * 1024 + rq.ctx) { cx with frames := cx.frames.set i { f with free := true } } }
            .done { s with groups := tmod s.groups is.gid (fun g => setSreg g d.toNat 0) }
        | none => is.putS d.toNat 1) s

/-! ## The end of a flip (R226) -/

/-- The 128-byte lines of a range of HBM. -/
def rangeLines (die pa n : Nat) : List Nat := (List.range (n / 128)).map (fun i => hkey die pa / 128 + i)

/-- Whether an engine operation holds range locks on the page of a flip (R226 step 2). -/
def flipLocked (s : State) (f : Flip) (n : Nat) : Bool :=
  let lo := (va509 f.die f.off).toNat
  s.locks.any (fun l => decide (l.part = f.part) && decide (l.ctx = f.ctx) && decide (l.lo < lo + n) && decide (lo ≤ l.hi))

/-- The status of BIASREQ of a function (R417). -/
def setBiasSt (s : State) (fn st : Nat) : State :=
  { s with biasreq := mset s.biasreq fn (BitVec.ofNat 64 ((mget s.biasreq fn).toNat / 4 * 4 + st)) }

/-- The entry of a partition in the port C window table (R419). -/
def winV (e : BitVec 128) : Bool := e.getLsbD 0
def winT (e : BitVec 128) : Bool := e.getLsbD 1
def winBase (e : BitVec 128) : Nat := e.toNat / 2 ^ 46 % 2 ^ 18 * 2 ^ 46
def winCtx (e : BitVec 128) : Nat := e.toNat / 2 ^ 64 % 2 ^ 10

/-- Starts the flip that BIASREQ of a VF asks for, or ends the request at once; while another flip is on the leaf the
request waits (R223, R417). Host bias needs capability 0x0061 (R21). -/
def startBias (s : State) (fn : Nat) : State :=
  let w := (mget s.biasreq fn).toNat
  let e := mget s.windows fn
  let toHost := decide (w / 4 % 2 = 1)
  let off := w / 2 ^ 13 * 2 ^ 13 % 2 ^ 43
  let die := w / 2 ^ 44 % 4
  if w / 2 ^ 43 % 2 = 1 ∨ winV e = false ∨ (toHost && !(capOn s fn capPortC)) then setBiasSt s fn 3
  else
    match s1of s fn (winCtx e) die off with
    | .leaf pte k _ =>
      if (flipAt s fn (winCtx e) die off).isSome then s
      else if pteBias pte = toHost then setBiasSt s fn 2
      else
        let n := if pteRun pte then 65536 else leafSize k
        let (id, s) := fresh s
        { s with flips := tset s.flips id { part := fn, ctx := winCtx e, die := die, off := off / n * n, lvl := 3 - k,
                                            run := pteRun pte, pte := pte, toHost := toHost, host := some fn, snoop := 0 } }
    | .s2 ia => setBiasSt (signalS2 s fn die ia) fn 3
    | .absent _ _ => setBiasSt s fn 3

/-- Starts the requests of BIASREQ that waited for another flip. -/
def pumpBias (s : State) : State :=
  (List.range 16).foldl (fun s fn =>
    if (mget s.biasreq fn).toNat % 4 = 1 ∧ s.flips.all (fun f => decide (f.2.host ≠ some fn)) then startBias s fn else s) s

/-- The physical place of a leaf of a flip. -/
def flipPlace (s : State) (f : Flip) (e : DWord) : Option Nat := (s2translate s f.part f.die (pteOff e)).map Prod.fst

/-- The leaves of a flip's page, from their entries at `pa` on. -/
def flipLeaves (s : State) (f : Flip) (pa : Nat) : List DWord :=
  (List.range (leafCount f.run)).map (fun i => rdPte s.hbm f.die (pa + 8 * i))

/-- The back-invalidation snoops of a flip to device bias go out over port C; the host answers when it holds no line of the page
(R226, R247). -/
def snoopPage (s : State) (id : Nat) (f : Flip) (pa : Nat) : State :=
  let s := { s with flips := tset s.flips id { f with snoop := 1 } }
  let s := (flipLeaves s f pa).foldl (fun s e =>
    match flipPlace s f e with
    | some ph => { s with co := coTell s.co (.biSnpInv f.die ph (leafSize (3 - f.lvl))) }
    | none => s) s
  newReq s { src := 512 + f.part, part := f.part, ctx := f.ctx, node := 510, addr := va509 f.die f.off, kind := .rd, op := 0, size := 0,
             a := 0, b := 0, port := none, owner := .flip id }

/-- The last steps of a flip: its lines are home, BIAS changes, no MTLB holds the page (R226). -/
def turnPage (s : State) (id : Nat) (f : Flip) (pa : Nat) : State :=
  let k := 3 - f.lvl
  let n := if f.run then 65536 else leafSize k
  let bit : DWord := 0x800
  let s := (List.range (leafCount f.run)).foldl (fun s i =>
    let e := rdPte s.hbm f.die (pa + 8 * i)
    let s := match flipPlace s f e with
      | some ph => flushLines s (rangeLines f.die ph (leafSize k)) true
      | none => s
    writeT s (.hbm f.die (pa + 8 * i)) 8 (if f.toHost then e ||| bit else e &&& ~~~bit).toNat) s
  { s with
    flips := tdel s.flips id
    stale := retireStale f.part f.ctx (fun t => staleIn t f.die f.off n) (fun _ => false) s.stale }

/-- The groups whose PMAP asked for a flip go on (R226). -/
def flipOver (s : State) (id : Nat) : State :=
  let go (sl : Slot) : Slot := match sl.wait with
    | .flip _ i => if i = id then advance sl else sl
    | _ => sl
  let dest (sl : Slot) : Nat := match sl.wait with
    | .flip d i => if i = id then d else 24
    | _ => 24
  { s with groups := s.groups.map (fun g =>
      if g.2.st = .resident then
        let x := setSreg (setSreg g.2 (dest g.2.a) 0) (dest g.2.b) 0
        (g.1, { x with a := go x.a, b := go x.b })
      else g) }

/-- BIAS_FLIP_END: no engine holds the page, for device bias the host has dropped its lines, and BIAS changes; the PMAP or the host
that asked is answered, and what waited for the page goes on (R223, R225, R226, R417). -/
def execBiasFlipEnd (id : Nat) (s : State) : StepOut :=
  .next (match tget s.flips id with
    | none => s
    | some f =>
      let k := 3 - f.lvl
      if flipLocked s f (if f.run then 65536 else leafSize k) then s
      else
        match slotOfLeaf s f.part f.ctx f.die f.off k with
        | .slot pa =>
          if !f.toHost && decide (f.snoop ≠ 2) then (if f.snoop = 0 then snoopPage s id f pa else s)
          else
            let s := turnPage s id f pa
            let s := match f.host with
              | some fn => setBiasSt s fn 2
              | none => s
            pumpIn (pumpPosts (pumpBias (flipOver s id)))
        | _ => s)

end Sys2Proof.Machine
end

