-- ==== Sys2Proof/Machine/Barriers.lean ====
section
/-! DEFINITION. Named barriers (R270 to R274) and WATCH with its monitors (R275 to R281). -/

namespace Sys2Proof.Machine

/-! ## Barriers -/

/-- Barrier `k` of a block. -/
def barOf (b : Block) (k : Nat) : Bar := b.bars.getD k { phase := 0, arrived := [], expect := none, gathering := false }

/-- An arrival of block-group `g` with count `c` (R272, R274): the first of a phase fixes its mode. -/
def arriveBar (x : Bar) (g c total : Nat) : Bar :=
  if x.gathering then { x with arrived := if x.arrived.contains g then x.arrived else x.arrived ++ [g] }
  else { x with arrived := [g], expect := if c = 0 then none else some (min c total), gathering := true }

/-- The groups of the current variant (R274). -/
def variantGroups (b : Block) : Nat := (variantOf b).wgs * (variantOf b).groups

/-- A group arrives at a barrier of its block; a phase that is met completes at once (R272). -/
def arriveAt (s : State) (gid k c : Nat) : State :=
  match tget s.groups gid with
  | none => s
  | some g =>
    let live := liveGroups s g.blk
    { s with blocks := tmod s.blocks g.blk (fun b =>
        { b with bars := b.bars.set k (barStep live (arriveBar (barOf b k) g.idx c (variantGroups b))) }) }

/-- Whether a group is in the arrived set of a barrier, and the barrier's phase. -/
def arrivedAt (s : State) (gid k : Nat) : Bool × Word :=
  match tget s.groups gid with
  | none => (false, 0)
  | some g =>
    match tget s.blocks g.blk with
    | none => (false, 0)
    | some b => ((barOf b k).arrived.contains g.idx, (barOf b k).phase)

/-- The slot's next wait at a barrier, or its end, after an arrival (`wait` says whether it waits as well). -/
def afterArrive (s : State) (gid side k : Nat) (wait : Bool) : State :=
  let (inA, phase) := arrivedAt s gid k
  { s with groups := tmod s.groups gid (fun g =>
      setSlot g side (if wait && inA then beginWait (slotOf g side) (.barWait k phase) else advance (slotOf g side))) }

/-- The common part of the three instructions: the identifier is checked after SCALARDIV; an arrival is a release,
so the group's earlier accesses are performed first (R273, R274). -/
def barEff (is : Issue) (k : Nat) (rel : Bool) (f : State → Bool → Word → Eff) : Eff :=
  match is.blk with
  | none => .fatal
  | some b =>
    if b.desc.barriers ≤ k then .trap (emuTrap is.sl is.word 1)
    else
      let s := if rel then performStores is.s is.gid else is.s
      match tget s.groups is.gid with
      | none => .again s
      | some g =>
        if rel && !(releaseFree g) then .again s
        else
          let (inA, phase) := arrivedAt s is.gid k
          f s inA phase

/-- The count of an arrival (R274). -/
def barCount (g : Group) (d : Nat) : Nat := (sreg g d).toNat % 65536

/-- BARA: arrives (R274). -/
def execBara (d : BitVec 7) (i : BitVec 4) (s : State) : StepOut :=
  issueWord (encode (.bara d i)) (Form.mk0 [opS d.toNat] none .refused true) (fun is =>
    barEff is i.toNat true (fun s inA phase =>
      let c := barCount is.g d.toNat
      if inA then is.waitIn s (.barArrive i.toNat phase c false)
      else .leave (afterArrive (arriveAt s is.gid i.toNat c) is.gid is.side i.toNat false))) s

/-- BARW: waits while its group has arrived and the phase is not met (R274). -/
def execBarw (i : BitVec 4) (s : State) : StepOut :=
  issueWord (encode (.barw i)) (Form.mk0 [] none .refused true) (fun is =>
    barEff is i.toNat false (fun s inA phase =>
      if inA then is.waitIn s (.barWait i.toNat phase) else .done s)) s

/-- BARS: arrives and waits (R274); one that a record says was waiting has arrived (R255). -/
def execBars (d : BitVec 7) (i : BitVec 4) (s : State) : StepOut :=
  issueWord (encode (.bars d i)) (Form.mk0 [opS d.toNat] none .refused true) (fun is =>
    barEff is i.toNat true (fun s inA phase =>
      let c := barCount is.g d.toNat
      if is.sl.wait = .resume then (if inA then is.waitIn s (.barWait i.toNat phase) else .done s)
      else if inA then is.waitIn s (.barArrive i.toNat phase c true)
      else .leave (afterArrive (arriveAt s is.gid i.toNat c) is.gid is.side i.toNat true))) s

/-- BARRIER_WAIT_END: the phase that a slot waited for is over (R272, R274). -/
def execBarrierWaitEnd (g side : Nat) (s : State) : StepOut :=
  .next (match tget s.groups g with
    | none => s
    | some x =>
      if x.st ≠ .resident then s
      else
        match (slotOf x side).wait with
        | .barWait k phase =>
          if (arrivedAt s g k).2 = phase then s
          else setGroup s g (setSlot x side (advance (slotOf x side)))
        | .barArrive k phase c aw =>
          if (arrivedAt s g k).2 = phase then s else afterArrive (arriveAt s g k c) g side k aw
        | _ => s)

/-! ## WATCH -/

/-- How the read of a WATCH ends: the value with its place and whether a monitor may watch it; a trap; a
second-stage failure; a wait in a state in which the word has been asked for; or a wait that must end before the word is read at
all: for a flip (R225), or for a store of the group to it that a release holds back (R199). -/
inductive WRes where
  | value (s : State) (x : DWord) (t : Target) (mon : Bool)
  | trap (cause : Nat)
  | s2 (die ia : Nat)
  | wait (s : State)
  | later

/-- The word of a WATCH on another node or in host memory: what came back, or a request for it. A refusal is recorded and the read is
made again (R280). -/
def watchRemote (s : State) (gid : Nat) (lanes : Word) (node n : Nat) (va : DWord) : WRes :=
  match tget s.groups gid with
  | none => .wait s
  | some g =>
    match g.recs.find? (fun x => decide (x.1 = va)) with
    | some (_, some w) => .value (setGroup s gid { g with recs := g.recs.filter (fun x => decide (x.1 ≠ va)) }) w (.remote node va) false
    | some (_, none) => .wait s
    | none =>
      let rq := reqOf s g
      let s := setGroup s gid { g with recs := [(va, none)] }
      .wait (newReq s { src := g.core, part := rq.part, ctx := rq.ctx, node := node, addr := va, kind := .rd, op := 0, size := n, a := 0, b := 0,
                        port := none, owner := .watch gid lanes })

/-- The read of a WATCH at the word's owner: the checks of R168 but for range locks (R275, R280, R453). -/
def watchRead (s : State) (gid : Nat) (lanes : Word) (va : DWord) (n : Nat) : WRes :=
  match tget s.groups gid with
  | none => .wait s
  | some g =>
    let rq := reqOf s g
    match checkAcc { s with locks := [], ops := [] } rq .load va n va.toNat n with
    | .bad _ c => .trap c
    | .s2 d ia => .s2 d ia
    | .flip _ => .later
    | .ok (.window _ _) _ => .trap 18
    | .ok (.nbctl _ _) _ => .trap 18
    | .ok t _ =>
      if ownWordHits s gid t then .later
      else
        match t with
        | .remote node _ => watchRemote s gid lanes node n va
        | .host _ => watchRemote s gid lanes 510 n va
        | t =>
          if poisonedT s t n then .trap 15
          else .value (touch s none t n false) (BitVec.ofNat 64 (readT s t n)) t (match t with
            | .hbm _ _ => true
            | .notify _ _ => true
            | _ => false)

/-- The die whose table watches a word (R275, R282). -/
def monDie (s : State) (p : Nat) (t : Target) : Nat :=
  match t with
  | .hbm d _ => d
  | _ => match tget s.parts p with
    | some pt => pt.ndie
    | none => 0

/-- Whether the block has a FREE monitor in a die's table: it reserved them when it was placed (R268, R269, R275). -/
def monFree (b : Block) (die : Nat) : Bool :=
  b.mdies.contains die && decide ((b.mons.filter (fun m => decide (m.2.die = die))).length < b.monitors)

/-- A WATCH that finds its comparison false waits: with a monitor if it may have one (R275, R277, R279). -/
def watchWait (is : Issue) (s : State) (b : Block) (d : Nat) (va : DWord) (n cond : Nat) (v : DWord) (t : Target) (mon : Bool) : Eff :=
  let die := monDie s b.part t
  if mon && monFree b die then
    let (id, s) := fresh s
    let m : Mon := { die := die, gid := is.gid, tgt := t, size := n, cond := cond, val := v, cap := none }
    is.waitIn { s with blocks := tmod s.blocks is.g.blk (fun b => { b with mons := tset b.mons id m }) } (.watchMon d id)
  else is.waitIn s (.watchPoll d va n cond v)

/-- WATCH (R280). The group's own earlier stores to the word are performed first. -/
def execWatch (d : BitVec 7) (a : BitVec 7) (q : BitVec 3) (z : BitVec 1) (c : BitVec 3) (s : State) : StepOut :=
  issueWord (encode (.watch d a q z c))
    { Form.mk0 [opS d.toNat, opS a.toNat] none .refused true with bad := fun _ => decide (6 ≤ c.toNat) || decide (q = 7) } (fun is =>
    let va := sreg is.g a.toNat
    let n := if z = 1 then 8 else 4
    let v := sreg is.g d.toNat
    match is.blk with
    | none => .fatal
    | some b =>
      if acqPending is.g then .again is.s
      else
        match watchRead (performStores is.s is.gid) is.gid is.sl.exec va n with
        | .trap cause => .trap (.plain cause is.sl.exec va)
        | .s2 die ia => .leave (s2Fault is.s is.gid is.side die ia)
        | .wait s => is.waitIn s (.watchPoll d.toNat va n c.toNat v)
        | .later => .again (performStores is.s is.gid)
        | .value s x t mon =>
          if watchHolds c.toNat n x v then .done { s with groups := tmod s.groups is.gid (fun g => setSreg g d.toNat x) }
          else watchWait is s b d.toNat va n c.toNat v t mon) s

/-- The slot of a group that waits in WATCH. -/
def watchSide (g : Group) : Nat :=
  match g.a.wait with
  | .watchMon _ _ => 0
  | .watchPoll _ _ _ _ _ => 0
  | _ => 1

/-- MONITOR_RESUME: a group whose monitor FIRED takes the captured value; the monitor is FREE again (R277). -/
def execMonitorResume (g : Nat) (s : State) : StepOut :=
  .next (match tget s.groups g with
    | none => s
    | some x =>
      let side := watchSide x
      match (slotOf x side).wait, tget s.blocks x.blk with
      | .watchMon d id, some b =>
        if x.st ≠ .resident then s
        else
          match tget b.mons id with
          | some m =>
            (match m.cap with
              | some v =>
                setBlock (setGroup s g (setSlot (setSreg x d v) side (advance (slotOf x side)))) x.blk { b with mons := tdel b.mons id }
              | none => s)
          | none => s
      | _, _ => s)

/-- WATCH_REREAD: a wait without a monitor reads its word again, and ends at the first read that satisfies the
comparison (R279). -/
def execWatchReread (g : Nat) (s : State) : StepOut :=
  .next (match tget s.groups g with
    | none => s
    | some x =>
      let side := watchSide x
      match (slotOf x side).wait with
      | .watchPoll d va n cond v =>
        if x.st ≠ .resident then s
        else
          (match watchRead s g (slotOf x side).exec va n with
            | .trap cause => takeTrap s g side (.plain cause (slotOf x side).exec va)
            | .s2 die ia => s2Fault s g side die ia
            | .wait s => s
            | .later => s
            | .value s y _ _ =>
              if watchHolds cond n y v then
                { s with groups := tmod s.groups g (fun z => setSlot (setSreg z d y) side (advance (slotOf z side))) }
              else s)
      | _ => s)

end Sys2Proof.Machine
end

