-- ==== Sys2Proof/Machine/Launcher.lean ====
section
/-! DEFINITION. What the dispatcher reads and checks before it admits a grid or places a block: launch records,
descriptors, joint tables, required capabilities and format slots (R80, R119 to R126). -/

namespace Sys2Proof.Machine

/-! ## Reads of the dispatcher -/

/-- How a read ends: the words; an address that cannot be read; or a wait, for the second stage or another node. -/
inductive DRd where
  | words (w : List DWord)
  | bad (addr : DWord)
  | wait (s : State)

/-- Asks for a word of another node or of the host, or gives what has come for it. -/
def dispAsk (s : State) (rq : Req) (node : Nat) (va : DWord) : DRd :=
  match tget s.disps rq.part with
  | none => .bad va
  | some d =>
    match d.recs.find? (fun x => decide (x.1 = va)) with
    | some (_, some (some w)) => .words [w]
    | some (_, some none) => .bad va
    | some (_, none) => .wait s
    | none =>
      .wait (newReq { s with disps := tset s.disps rq.part { d with recs := d.recs ++ [(va, none)] } }
        { src := 512 + rq.part, part := rq.part, ctx := rq.ctx, node := node, addr := va, kind := .rd, op := 0, size := 8, a := 0, b := 0,
          port := none, owner := .disp rq.part })

/-- One word. Words on another node or of the host are asked for and kept until the structure is whole. -/
def dispWord (s : State) (rq : Req) (va : DWord) : DRd :=
  match route s rq.part va with
  | .to (.host _) => dispAsk s rq 510 va
  | .to (.remote node _) => dispAsk s rq node va
  | _ =>
    match devRead s rq va 1 with
    | .done w => .words w
    | .failed a => .bad a
    | .s2 d ia => if s2Refused s rq.part d ia then .bad va else .wait (signalS2 s rq.part d ia)
    | .wait => .wait s

/-- Reads `n` words at `va`; every word that is missing is asked for. -/
def dispRead (s : State) (rq : Req) (va : DWord) (n : Nat) : DRd :=
  (List.range n).foldl (fun acc i =>
    match acc with
    | .words w =>
      (match dispWord s rq (va + BitVec.ofNat 64 (8 * i)) with
        | .words x => .words (w ++ x)
        | e => e)
    | .wait s =>
      (match dispWord s rq (va + BitVec.ofNat 64 (8 * i)) with
        | .wait s => .wait s
        | _ => .wait s)
    | e => e) (.words [])

/-- Forgets the words of other nodes that a partition's dispatcher has used. -/
def clearDisp (s : State) (p : Nat) : State := { s with disps := tmod s.disps p (fun d => { d with recs := [] }) }

/-! ## The launch record (R123) -/

def lrecGX (w : List DWord) : Nat := (w.getD 1 0).toNat % 2 ^ 32
def lrecGY (w : List DWord) : Nat := (w.getD 1 0).toNat / 2 ^ 32 % 2 ^ 16
def lrecGZ (w : List DWord) : Nat := (w.getD 1 0).toNat / 2 ^ 48
def lrecBlocks (w : List DWord) : Nat := lrecGX w * lrecGY w * lrecGZ w
def lrecPrio (w : List DWord) : Nat := (w.getD 2 0).toNat % 8
def lrecResident (w : List DWord) : Bool := (w.getD 2 0).getLsbD 3
def lrecNosw (w : List DWord) : Bool := (w.getD 2 0).getLsbD 8

/-- The first word of a launch record that fails R123; reserved fields are ignored (R8). A save or restore grid must have
no dependence and no increment, and its device-written words are not checked (R383). -/
def badRecord (notify service : Bool) (w : List DWord) : Option Nat :=
  let x (i : Nat) : Nat := (w.getD i 0).toNat
  let bad (i : Nat) : Bool :=
    match i with
    | 0 => decide (x 0 % 256 ≠ 0)
    | 1 => decide (lrecBlocks w = 0) || decide (2 ^ 32 - 1 < lrecBlocks w)
    | 3 => (w.getD 3 0).getLsbD 63 && (service || !notify)
    | 4 => (w.getD 4 0).getLsbD 63 && (service || !notify)
    | 5 => (w.getD 5 0).getLsbD 63 && (service || !notify)
    | 6 => decide (x 6 % 64 ≠ 0)
    | 8 => decide (64 < x 8 / 2 ^ 24 % 256) || decide (16 < x 8 / 2 ^ 16 % 256) || decide (256 < x 8 % 2 ^ 16)
    | 9 => !service && decide (x 9 ≠ 0)
    | 10 => !service && decide (x 10 ≠ 0)
    | 11 => !service && decide (x 11 ≠ 0)
    | _ => false
  (List.range 16).find? bad

/-- Whether a dependence word is met (R124). -/
def depMet (s : State) (p : Nat) (w : DWord) : Bool :=
  !w.getLsbD 63 || decide (w.toNat % 2 ^ 48 ≤ (mget s.notify (p * 4096 + w.toNat / 2 ^ 48 % 4096)).toNat)

/-- Whether both dependences of a record are met; without capability 0x0072 none is evaluated (R124). -/
def depsMet (s : State) (p : Nat) (w : List DWord) : Bool :=
  !(capOn s p capNotify) || (depMet s p (w.getD 3 0) && depMet s p (w.getD 4 0))

/-! ## The descriptor (R119 to R121) -/

def readVariant (w : List DWord) (v : Nat) : Variant :=
  let x := (w.getD (8 + 4 * v) 0).toNat
  { wgs := x / 2 ^ 48 % 16, groups := x / 2 ^ 40 % 256, xblk := x / 2 ^ 36 % 16, rank := x / 2 ^ 32 % 16, spad := x % 2 ^ 32,
    entry := w.getD (9 + 4 * v) 0 }

def descNvar (w : List DWord) : Nat := (w.getD 0 0).toNat / 2 ^ 48 % 16
def descNjoint (w : List DWord) : Nat := (w.getD 0 0).toNat / 2 ^ 56
def descNreq (w : List DWord) : Nat := (w.getD 0 0).toNat / 2 ^ 16 % 2 ^ 16

/-- The first word of a descriptor that fails R119 or R120. -/
def badDescriptor (w : List DWord) : Option Nat :=
  let x (i : Nat) : Nat := (w.getD i 0).toNat
  let thr := x 0 / 2 ^ 32 % 2 ^ 16
  let nv := descNvar w
  let bad (i : Nat) : Bool :=
    if i = 0 then
      decide (64 < descNjoint w) || decide (nv < 1) || decide (4 < nv) || decide (thr % 32 ≠ 0) || decide (thr < 32)
        || decide (16384 < thr) || decide (64 < descNreq w)
    else if i = 1 then decide (64 < x 1 / 2 ^ 56) || decide (16 < x 1 / 2 ^ 48 % 256) || decide (256 < x 1 % 2 ^ 16)
    else if i = 2 then decide (x 2 % 4 ≠ 0)
    else if i = 3 then decide (descNjoint w ≠ 0) && decide (x 3 % 64 ≠ 0)
    else if i < 8 ∨ 24 ≤ i then false
    else
      let v := (i - 8) / 4
      if nv ≤ v then decide (x i ≠ 0)
      else if i % 4 = 0 then
        let a := readVariant w v
        decide (a.wgs < 1) || decide (12 < a.wgs) || decide (a.groups < 1) || decide (96 < a.groups) || decide (3 < a.xblk)
          || decide (3 < a.rank) || decide (a.spad % 64 ≠ 0) || decide (0x200000 < a.spad)
          || (List.range v).any (fun u => decide ((readVariant w u).rank = a.rank))
      else if i % 4 = 1 then decide (x i % 4 ≠ 0)
      else false
  (List.range 32).find? bad

def readJoint (w : List DWord) (j : Nat) : Joint :=
  let x (i : Nat) : Nat := (w.getD (8 * j + i) 0).toNat
  { carry := x 0 / 2 ^ 32, id := x 0 % 2 ^ 16, vswpc := (List.range 4).map (fun v => w.getD (8 * j + 1 + v) 0),
    ats := [x 5 % 2 ^ 32, x 5 / 2 ^ 32, x 6 % 2 ^ 32, x 6 / 2 ^ 32] }

/-- The first entry of a joint table that fails R121. -/
def badJoints (vs : List Variant) (w : List DWord) (n : Nat) : Option Nat :=
  (List.range n).find? (fun j =>
    let e := readJoint w j
    decide (63 < e.id) || decide (e.carry % 64 ≠ 0)
      || (decide (0 < j) && decide (e.id ≤ (readJoint w (j - 1)).id))
      || (List.range 4).any (fun v =>
        let a := e.ats.getD v 0
        if v < vs.length then decide (a % 64 ≠ 0) || decide ((vs.getD v noVariant).spad < a + e.carry)
        else decide (e.vswpc.getD v 0 ≠ 0) || decide (a ≠ 0)))

/-! ## Required capabilities and format slots (R23, R66, R80) -/

/-- The place of a capability id in the list of R19. -/
def capIndex (id : Nat) : Option Nat :=
  [0x0001, 0x0002, 0x0010, 0x0011, 0x0012, 0x0013, 0x0020, 0x0021, 0x0030, 0x0031, 0x0040, 0x0041, 0x0050, 0x0060, 0x0061,
    0x0070, 0x0071, 0x0072].findIdx? (fun x => decide (x = id))

/-- Entry `i` of a list of required capabilities, from its words. -/
def reqEntry (w : List DWord) (i : Nat) : Nat := (w.getD (i / 2) 0).toNat / 2 ^ (32 * (i % 2)) % 2 ^ 32

/-- Whether an entry passes R23: present, enabled, and of a version the module has (every record is of version 1). -/
def reqOk (s : State) (p e : Nat) : Bool :=
  match capIndex (e % 2 ^ 16) with
  | some k => capOn s p k && decide (e / 2 ^ 16 % 256 ≤ 1)
  | none => false

/-- The first required capability that fails: its index and id; a kernel with more than one variant or with a joint needs 0x0040
in its list (R21, R125, R126). -/
def badReqs (s : State) (p : Nat) (w : List DWord) (n : Nat) (shape : Bool) : Option (Nat × Nat) :=
  match (List.range n).find? (fun i =>
      let e := reqEntry w i
      decide (e / 2 ^ 24 ≠ 0) || (decide (0 < i) && decide (e % 2 ^ 16 ≤ reqEntry w (i - 1) % 2 ^ 16)) || !(reqOk s p e)) with
  | some i => some (i, reqEntry w i % 2 ^ 16)
  | none =>
    if shape && !((List.range n).any (fun i => decide (reqEntry w i % 2 ^ 16 = 0x40))) then some (n, 0x40)
    else none

/-- Whether a format slot passes R80: no reserved bit, and format codes that R78 accepts for their fields. -/
def slotOk (w : List DWord) : Bool :=
  let x := w.getD 0 0
  decide (x.toNat / 2 ^ 40 = 0) && decide (x.toNat / 2 ^ 17 % 2 ^ 7 = 0) && decide (w.getD 6 0 = 0) && decide (w.getD 7 0 = 0)
    && [0, 1, 2, 3, 4].contains (fsWFMT x) && [0, 1, 2, 3, 5].contains (fsAFMT x) && [0, 2, 3, 5, 6, 7, 8].contains (fsDFMT x)

/-! ## All checks (R126) -/

/-- How the reading and checking of a launch's structures ends: a refusal with its code, DETAIL and FINFO; a wait; or the
block's copies. -/
inductive Checked where
  | refuse (code detail : Nat) (finfo : DWord)
  | wait (s : State)
  | ok (d : KDesc) (slots : List DWord)

/-- The block's copy of a descriptor (R122). -/
def descOf (w jw : List DWord) : KDesc :=
  let x := (w.getD 1 0).toNat
  { threads := (w.getD 0 0).toNat / 2 ^ 32 % 2 ^ 16, ophnd := x / 2 ^ 56, barriers := x / 2 ^ 48 % 256, monitors := x / 2 ^ 32 % 2 ^ 16,
    itemq := x / 2 ^ 16 % 2 ^ 16, rlocks := x % 2 ^ 16, emupc := w.getD 2 0,
    variants := (List.range (descNvar w)).map (readVariant w), joints := (List.range (descNjoint w)).map (readJoint jw) }

/-- Step 5 of R126. -/
def checkSlots (s : State) (rq : Req) (addr : DWord) (d : KDesc) : Checked :=
  match dispRead s rq addr 64 with
  | .wait s => .wait s
  | .bad a => .refuse 7 1 a
  | .words w =>
    match (List.range 8).find? (fun k => !(slotOk ((w.drop (8 * k)).take 8))) with
    | some k => .refuse 3 k (addr + BitVec.ofNat 64 (64 * k))
    | none => .ok d w

/-- Steps 2 to 5 of R126 for a grid, at its admission and again at each placement. The low two bits of the REQS address are not looked
at (R119; log 118). -/
def checkLaunch (s : State) (g : Grid) : Checked :=
  let rq : Req := { part := g.part, ctx := g.ctx, user := false }
  let service := match g.src with
    | .device _ => true
    | _ => false
  let kd := g.lrec.getD 0 0
  match dispRead s rq kd 32 with
  | .wait s => .wait s
  | .bad a => .refuse 7 0 a
  | .words w =>
    match badDescriptor w with
    | some i => .refuse 4 i kd
    | none =>
      let nj := descNjoint w
      let nr := descNreq w
      let vs := (List.range (descNvar w)).map (readVariant w)
      let v0 := vs.headD noVariant
      let jt := if nj = 0 then DRd.words [] else dispRead s rq (w.getD 3 0) (8 * nj)
      match jt with
      | .wait s => .wait s
      | .bad a => .refuse 7 2 a
      | .words jw =>
        match badJoints vs jw nj with
        | some j => .refuse 4 (0x40 + j) (w.getD 3 0 + BitVec.ofNat 64 (64 * j))
        | none =>
          if (permitted vs.length g.lrec).isEmpty then .refuse 5 2 g.addr
          else if service && decide (vs.length ≠ 1) then .refuse 5 0 g.addr
          else if service && decide (2 ^ 32 < lrecBlocks g.lrec * v0.wgs * v0.groups) then .refuse 5 1 g.addr
          else
            let ra := w.getD 4 0
            let base := BitVec.ofNat 64 (ra.toNat / 8 * 8)
            let odd := ra.toNat % 8 / 4
            let rt := if nr = 0 then DRd.words [] else dispRead s rq base ((nr + odd + 1) / 2)
            match rt with
            | .wait s => .wait s
            | .bad a => .refuse 7 3 a
            | .words r =>
              let r := if odd = 1 then (List.range ((nr + 1) / 2)).map (fun i =>
                  BitVec.ofNat 64 (reqEntry r (2 * i + 1) + reqEntry r (2 * i + 2) * 2 ^ 32)) else r
              match badReqs s g.part r nr (decide (1 < vs.length) || decide (nj ≠ 0)) with
              | some (i, id) => .refuse 2 i (BitVec.ofNat 64 id)
              | none => checkSlots s rq (g.lrec.getD 6 0) (descOf w jw)

end Sys2Proof.Machine
end

