-- ==== Sys2Proof/Machine/Queues.lean ====
section
/-! DEFINITION. The queue object (R354 to R359): enabling, tails, reading records, and dependences that are met
(R124, R132). -/

namespace Sys2Proof.Machine

/-- The request with which a partition's dispatcher reaches its queue table (R354, R393). -/
def qtabReq (p : Nat) : Req := { part := p, ctx := 0, user := false }

/-- The words of a queue record. -/
def queueRecord (s : State) (p q : Nat) : Option (List DWord) :=
  match tget s.parts p with
  | none => none
  | some pt =>
    if 256 ≤ q then none
    else match devRead s (qtabReq p) (pt.qtab + BitVec.ofNat 64 (64 * q)) 8 with
      | .done w => some w
      | _ => none

/-- The fields of a queue record (R354). -/
def qrEN (w : List DWord) : Bool := (w.getD 1 0).getLsbD 0
def qrLOGN (w : List DWord) : Nat := (w.getD 1 0).toNat / 2 ^ 4 % 16
def qrSERIAL (w : List DWord) : Bool := (w.getD 1 0).getLsbD 8
def qrCTXID (w : List DWord) : Nat := (w.getD 1 0).toNat / 2 ^ 32 % 2 ^ 10
/-- The reserved bits of word 1. -/
def qrReserved (w : List DWord) : DWord := w.getD 1 0 &&& 0xFFFFFC00FFFFFE0E#64

/-- Whether a context is live (R373). -/
def ctxLive (s : State) (p c : Nat) : Bool :=
  match tget s.ctxs (p * 1024 + c) with
  | some cx => decide (cx.st ≠ .destroyed)
  | none => false

/-- Whether a context's queues and grids are served (R373, R376). -/
def ctxServed (s : State) (p c : Nat) : Bool :=
  match tget s.ctxs (p * 1024 + c) with
  | some cx => decide (cx.st = .running) && !cx.stopped
  | none => false

/-- A queue is HALTED (R358). -/
def haltQueue (s : State) (p q cause : Nat) (addr : DWord) : State :=
  setQueue s p q (fun x => { x with st := .halted, cause := cause, haddr := addr })

/-- QUEUE_ENABLE: EN := 1 is seen; the queue is ACTIVE, or HALTED when its record fails R354 (R357, R358). The grid of its previous
record stays the one that SERIAL waits for (R356). -/
def execQueueEnable (p q : Nat) (s : State) : StepOut :=
  let k := p * 256 + q
  let off : Bool := match tget s.queues k with
    | none => true
    | some x => decide (x.st = .off) && !x.en
  .next (match queueRecord s p q with
    | some w =>
      if off && qrEN w then
        let x : Queue :=
          { st := .active, tail := w.getD 3 0, head := w.getD 3 0, cause := 0, haddr := 0, ring := w.getD 0 0, ctx := qrCTXID w,
            logn := qrLOGN w, serial := qrSERIAL w, grid := none, prev := (tget s.queues k).bind (fun x => x.prev), en := true }
        let s := queuePut { s with queues := tset s.queues k x } p q
        if 12 < qrLOGN w ∨ qrReserved w ≠ 0 then haltQueue s p q 1 0
        else if ctxLive s p (qrCTXID w) then s
        else haltQueue s p q 2 0
      else s
    | none => s)

/-- Drops a queue's QUEUED or ELIGIBLE head grid without status (R132, R358). -/
def dropHead (s : State) (p q : Nat) : State :=
  match tget s.queues (p * 256 + q) with
  | none => s
  | some x =>
    match x.grid with
    | none => s
    | some n => { s with grids := tdel s.grids n, queues := tset s.queues (p * 256 + q) { x with grid := none } }

/-- Takes a queue to OFF (R358). -/
def queueOff (s : State) (p q : Nat) : State := setQueue (dropHead s p q) p q (fun x => { x with st := .off })

/-- QUEUE_DISABLE: EN := 0 is seen (R358). -/
def execQueueDisable (p q : Nat) (s : State) : StepOut :=
  .next (match tget s.queues (p * 256 + q), queueRecord s p q with
    | some x, some w =>
      if qrEN w || !x.en then s
      else
        let s := if x.st = .off then s else queueOff s p q
        { s with queues := tmod s.queues (p * 256 + q) (fun x => { x with en := false }) }
    | _, _ => s)

/-- QUEUE_TAIL_RAISE: the dispatcher reads TAIL; a TAIL that falls, or passes HEAD by more than the ring, halts the
queue (R354, R355). -/
def execQueueTailRaise (p q : Nat) (s : State) : StepOut :=
  .next (match tget s.queues (p * 256 + q), queueRecord s p q with
    | some x, some w =>
      let t := w.getD 2 0
      if x.st ≠ .active ∨ x.grid.isSome ∨ t = x.tail then s
      else if t.toNat < x.tail.toNat ∨ 2 ^ x.logn < t.toNat - x.head.toNat then haltQueue s p q 3 0
      else { s with queues := tset s.queues (p * 256 + q) { x with tail := t } }
    | _, _ => s)

/-- The address of a queue's head record (R355). -/
def headAddr (x : Queue) : DWord := x.ring + BitVec.ofNat 64 (x.head.toNat % 2 ^ x.logn * 128)

/-- A grid whose dependences are met is ELIGIBLE, and its queue goes on (R132, R358). -/
def makeEligible (s : State) (n : Nat) (g : Grid) : State :=
  let s := setGrid s n { g with st := .eligible }
  match g.src with
  | .queue q => setQueue s g.part q (fun x => { x with st := .active })
  | _ => s

/-- QUEUE_RECORD_READ: the head record is read whole and its grid is QUEUED, then ELIGIBLE when its dependences are
met already (R356, R358). -/
def execQueueRecordRead (p q : Nat) (s : State) : StepOut :=
  .next (match tget s.queues (p * 256 + q) with
    | none => s
    | some x =>
      let waits := x.serial && (match x.prev with
        | some n => (tget s.grids n).isSome
        | none => false)
      if x.st ≠ .active ∨ x.grid.isSome ∨ x.tail = x.head ∨ !(ctxServed s p x.ctx) then s
      else if waits then setQueue s p q (fun x => { x with st := .blocked })
      else
        match dispRead s { part := p, ctx := x.ctx, user := false } (headAddr x) 16 with
        | .wait s => s
        | .bad a => haltQueue (clearDisp s p) p q 4 a
        | .words w =>
          let (n, s) := newGrid (clearDisp s p) p x.ctx (.queue q) (headAddr x) w 1
          let s := { s with queues := tset s.queues (p * 256 + q) { x with grid := some n } }
          match tget s.grids n with
          | none => s
          | some g =>
            if depsMet s p w then makeEligible s n g
            else setQueue s p q (fun x => { x with st := .blocked }))

/-- NOTIFY_DEPENDENCE_MET: the dispatcher reads the registers that a QUEUED grid waits for (R124, R132, R353). -/
def execNotifyDependenceMet (n : Nat) (s : State) : StepOut :=
  .next (match tget s.grids n with
    | none => s
    | some g => if g.st = .queued && depsMet s g.part g.lrec then makeEligible s n g else s)

end Sys2Proof.Machine
end

