-- ==== Sys2Proof/Machine/Decide.lean ====
section
/-! DEFINITION. Dispatch decisions: candidates and their order (R360, R361), admission (R126, R130 to R132), placing a
block (R127 to R129, R362, R383), returning one (R366), reservations (R363, R364) and making room (R133, R365, R367). -/

namespace Sys2Proof.Machine

/-! ## Candidates (R360, R361) -/

/-- What a candidate asks for: the admission of a grid, its next block, or the return of a block. -/
inductive Ask where
  | enter (n : Nat)
  | place (n : Nat)
  | ret (b : Nat)
deriving DecidableEq, Repr

structure Cand where
  src : Src
  prio : Nat
  ask : Ask
deriving DecidableEq, Repr

/-- Whether a grid is a save or restore grid (R383). -/
def isService (g : Grid) : Bool :=
  match g.src with
  | .device _ => true
  | _ => false

/-- The source of a grid (R361). -/
def srcOf (g : Grid) : Src :=
  match g.src with
  | .queue q => .queue q
  | .child _ b _ => .block b
  | .device _ => .device g.ctx

/-- What a grid asks for, if it is a candidate (R360). -/
def askOf (s : State) (n : Nat) (g : Grid) : Option Ask :=
  if !(isService g) && !(ctxServed s g.part g.ctx) then none
  else
    match g.st with
    | .eligible => some (.enter n)
    | .placing => some (.place n)
    | _ => none

/-- The candidates of one PRIO, of each source the oldest grid. -/
def srcCands (s : State) (p prio : Nat) : List Cand :=
  s.grids.foldl (fun l g =>
    if g.2.part = p && lrecPrio g.2.lrec = prio && !(l.any (fun c => decide (c.src = srcOf g.2))) then
      match askOf s g.1 g.2 with
      | some a => l ++ [{ src := srcOf g.2, prio := prio, ask := a }]
      | none => l
    else l) []

/-- The cycle of child sources of every PRIO, as of now (R361). -/
def cycleNow (s : State) (p : Nat) (old : List (Nat × Nat)) : List (Nat × Nat) :=
  let now := (List.range 8).flatMap (fun prio => (srcCands s p prio).filterMap (fun c =>
    match c.src with
    | .block b => some (prio, b)
    | _ => none))
  old.filter (fun x => now.contains x) ++ now.filter (fun x => !(old.contains x))

/-- The place of a source in the cycle of a PRIO (R361): queues, child sources, the device (log 36). -/
def cyclePos (cycle : List (Nat × Nat)) (prio : Nat) (x : Src) : Option Nat :=
  match x with
  | .queue q => some q
  | .block b => (cycle.findIdx? (fun y => decide (y = (prio, b)))).map (· + 256)
  | .device c => some (2 ^ 32 + c)
  | .ret _ => none

/-- The source served last at each PRIO; a child source that has left the cycle is replaced by the one that stood before it, or by
the last queue (R361). -/
def lastNow (old now : List (Nat × Nat)) (last : List (Nat × Src)) : List (Nat × Src) :=
  last.map (fun x =>
    match x.2 with
    | .block b =>
      if now.contains (x.1, b) then x
      else
        match ((old.takeWhile (fun y => decide (y ≠ (x.1, b)))).filter (fun y => decide (y.1 = x.1) && now.contains y)).getLast? with
        | some y => (x.1, .block y.2)
        | none => (x.1, .queue 255)
    | _ => x)

/-- The candidates of one PRIO in round-robin order. -/
def roundRobin (s : State) (p : Nat) (d : Disp) (prio : Nat) : List Cand :=
  let cs : Tbl Cand := (srcCands s p prio).foldl (fun t c =>
    match cyclePos d.cycle prio c.src with
    | some k => tset t k c
    | none => t) []
  match (d.last.find? (fun x => decide (x.1 = prio))).bind (fun x => cyclePos d.cycle prio x.2) with
  | none => tvals cs
  | some k => tvals (cs.filter (fun c => decide (k < c.1))) ++ tvals (cs.filter (fun c => decide (c.1 ≤ k)))

/-- The blocks of one PRIO that are marked for return, in the order they were marked. -/
def markedCands (s : State) (p prio : Nat) : List Cand :=
  tvals (s.blocks.foldl (fun (t : Tbl Cand) b =>
    match b.2.marked with
    | some m =>
      if b.2.part = p && b.2.prio = prio && b.2.swapped && ctxServed s p b.2.ctx then
        tset t m { src := .ret b.1, prio := prio, ask := .ret b.1 }
      else t
    | none => t) [])

/-- Every candidate of a partition in the order of R361. -/
def candidates (s : State) (p : Nat) (d : Disp) : List Cand :=
  [7, 6, 5, 4, 3, 2, 1, 0].flatMap (fun prio => markedCands s p prio ++ roundRobin s p d prio)

/-! ## Fitting -/

/-- The park indices a context supplies: the first and how many (R369, R383). -/
def parkSupply (s : State) (p c : Nat) (service : Bool) : Nat × Nat :=
  match tget s.ctxs (p * 1024 + c) with
  | some cx => if service then (cx.npark, cx.spark) else (0, cx.npark)
  | none => (0, 0)

/-- The lowest `n` free park indices of a context (R251). -/
def parkFree (s : State) (p c : Nat) (service : Bool) (n : Nat) : Option (List Nat) :=
  let used := s.groups.filterMap (fun g =>
    match tget s.blocks g.2.blk with
    | some b => if b.part = p && b.ctx = c then some g.2.pidx else none
    | none => none)
  let (lo, k) := parkSupply s p c service
  let free := (((List.range (min k (used.length + n))).map (· + lo)).filter (fun i => !(used.contains i))).take n
  if free.length = n then some free else none

/-- A place for a block: variant, run and park indices. -/
structure Spot where
  variant : Nat
  run : List Nat
  parks : List Nat
deriving DecidableEq, Repr

/-- What a variant of a grid asks of a run. -/
def wantOf (g : Grid) (d : KDesc) (v : Nat) (held : List Nat) : Want :=
  { part := g.part, var := d.variants.getD v noVariant, decl := declOf d g.lrec, ex := none, held := held }

/-- The place of one variant, on the runs that `ok` accepts. -/
def spotFor (s : State) (g : Grid) (d : KDesc) (held : List Nat) (ok : List Nat → Bool) (v : Nat) : Option Spot :=
  let w := wantOf g d v held
  match ((runsOf (placeCores s g.part) w.var.wgs).filter ok).find? (runFits s w),
        parkFree s g.part g.ctx (isService g) (w.var.wgs * w.var.groups) with
  | some r, some ps => some { variant := v, run := r, parks := ps }
  | _, _ => none

/-- The place of a grid's next block (R128, R362); a reserving block is tried on its run first (R364). -/
def spotOf (s : State) (g : Grid) (d : KDesc) (prio : Nat) : Option Spot :=
  let held := heldCores s g.part prio (some (srcOf g))
  let own : Option Resv := match tget s.disps g.part with
    | some x => x.reserving.filter (fun r => decide (r.src = srcOf g) && decide (r.prio = prio))
    | none => none
  let any := (byRank d g.lrec).findSome? (spotFor s g d held (fun _ => true))
  match own with
  | none => any
  | some r =>
    let on : List Nat → Bool := fun run => run.all r.cores.contains
    match (((byRank d g.lrec).take 1) ++ [r.variant]).findSome? (spotFor s g d held on) with
    | some x => some x
    | none => any

/-- A partition without its blocks, and the tables of its dies without what other partitions hold there (R126, R268). -/
def emptied (s : State) (p : Nat) : State :=
  let mine (b : Nat) : Bool := match tget s.blocks b with
    | some x => decide (x.part = p)
    | none => false
  { s with groups := s.groups.filter (fun g => !(mine g.2.blk)), blocks := (s.blocks.filter (fun b => decide (b.2.part ≠ p))).map (fun b => (b.1, { b.2 with monitors := 0, rlocks := 0 })) }

/-! ## Placing (R127, R129, R383) -/

/-- The session of a group of a save or restore grid (R383). -/
def sessionOf (s : State) (g : Grid) (v : Variant) (lin idx : Nat) : Option Seal :=
  match g.src with
  | .device restore =>
    match tget s.keys (g.part * 1024 + g.ctx) with
    | some k => some { save := !restore, key := k.key, ctr := k.ctr, ctx := g.ctx, part := g.part,
                       seg := lin * v.wgs * v.groups + idx, cts := [], issued := 0, ended := false, code := 0 }
    | none => none
  | _ => none

/-- A group of a newly placed block (R129). -/
def newGroup (blk idx : Nat) (v : Variant) (core gslot age pidx : Nat) (service : Bool) (s0 s1 : DWord) (sess : Option Seal) : Group :=
  { blk := blk, idx := idx, wgid := idx / v.groups, grpid := idx % v.groups, core := core, gslot := gslot, age := age,
    st := .resident, a := { Slot.free with live := true, pc := v.entry, exec := BitVec.allOnes 32, mr := 7 }, b := Slot.free,
    v := [], s := mset (mset [] 0 s0) 1 s1, p := [], held := 0, stack := [], out := [], posted := 0, ref := none,
    hlev := if service then 2 else 0, tcause := 0, tpc := 0, tmask := 0, taddr := 0, emuword := 0, emuop := 0, emud := 0,
    emua := 0, emub := 0, emuimm := 0, opst := 0, nbwin := 0, tslot1 := 0, tslot2 := 0, plev2 := 0, pidx := pidx, reason := 0,
    seq := 0, xreq := none, susp := [], kids := 0, sess := sess, recs := [], s2at := none }

/-- A block placed by the dispatcher, before its groups (R127). -/
def newBlock (mdies : List Nat) (n : Nat) (g : Grid) (d : KDesc) (slots : List DWord) (v : Nat) (places : List (Nat × Nat × Nat)) (order : Nat) : Block :=
  let x := declOf d g.lrec
  let gx := lrecGX g.lrec
  let gy := lrecGY g.lrec
  { grid := n, part := g.part, ctx := g.ctx, lin := g.next, bx := g.next % gx, by_ := g.next / gx % gy, bz := g.next / (gx * gy),
    variant := v, desc := d, slots := slots, vcores := places.map (fun y => y.2.1), spadOff := places.map (fun y => y.2.2),
    bars := List.replicate x.barriers { phase := 0, arrived := [], expect := none, gathering := false },
    items := places.map (fun _ => []), mons := [], ophnd := x.ophnd, rlocks := x.rlocks, itemq := x.itemq, monitors := x.monitors,
    mdies := mdies, joint := false, swapped := false, marked := none, passed := 0, kids := 0, order := order, prio := lrecPrio g.lrec,
    resident := lrecResident g.lrec, nosw := lrecNosw g.lrec, service := isService g, stop := false, released := false,
    claimed := false }

/-- Places the next block of a grid: its allocations read as zero, and every group starts in slot A (R127, R129), the
lowest group with the lowest age (log 121). The segments of a save or restore grid are noted with code 16 (R385, R386). -/
def placeBlock (s : State) (n : Nat) (g : Grid) (d : KDesc) (slots : List DWord) (x : Spot) : State :=
  let v := d.variants.getD x.variant noVariant
  let places := runPlaces s g.part v none x.run
  let s := places.foldl (fun s y => zeroSpad s y.1 y.2.2 v.spad) s
  let (bid, s) := fresh s
  let s := setBlock s bid (newBlock (monDies s g.part) n g d slots x.variant places bid)
  let s := (List.range (v.wgs * v.groups)).foldl (fun s i =>
    let (gid, s) := fresh s
    let pl := places.getD (i / v.groups) (0, 0, 0)
    setGroup s gid (newGroup bid i v pl.1 (freeSlot s pl.1) gid (x.parks.getD i 0) (isService g) (g.lrec.getD 7 0)
      (spadAddr pl.2.1 pl.2.2) (sessionOf s g v g.next i))) s
  let s := if isService g then { s with ctxs := tmod s.ctxs (g.part * 1024 + g.ctx) (fun c =>
      { c with checks := c.checks ++ (List.range (v.wgs * v.groups)).map (fun i => (g.next * v.wgs * v.groups + i, 16)) }) } else s
  setGrid s n { g with
    next := g.next + 1, live := g.live + 1, passed := 0
    st := if g.next + 1 = lrecBlocks g.lrec then .running else .placing }

/-- Places every block of a RESIDENT grid, or none: each takes its variant in turn (R130; log 120). -/
def placeAll : Nat → State → Nat → KDesc → List DWord → Option State
  | 0, s, _, _, _ => some s
  | fuel + 1, s, n, d, slots =>
    match tget s.grids n with
    | none => none
    | some g =>
      match spotOf s g d (lrecPrio g.lrec) with
      | none => none
      | some x => placeAll fuel (placeBlock s n g d slots x) n d slots

/-- Whether a grid fits its partition even when that is empty (R126 step 6, R130). -/
def fitsEmpty (s : State) (n : Nat) (g : Grid) (d : KDesc) (slots : List DWord) : Bool :=
  let s := { emptied s g.part with disps := tmod s.disps g.part (fun x => { x with reserving := none }) }
  if lrecResident g.lrec then
    decide (lrecBlocks g.lrec ≤ 512 * slotSupply) && (placeAll (lrecBlocks g.lrec) s n d slots).isSome
  else (byRank d g.lrec).any (fun v => (spotFor s g d [] (fun _ => true) v).isSome)

/-! ## Serving a candidate -/

/-- How a candidate is served: not at all; a structure is still being read; a grid is admitted or refused; a block is
placed; the placement of a grid is stopped; or a block returns. -/
inductive Serve where
  | no
  | wait (s : State)
  | enter (s : State)
  | place (s : State)
  | stop (s : State)
  | ret (s : State)

/-- The queue of an admitted or refused grid goes on to its next record (R356). -/
def passHead (s : State) (n : Nat) (g : Grid) : State :=
  match g.src with
  | .queue q => setQueue s g.part q (fun x => { x with head := x.head + 1, grid := none, prev := some n })
  | _ => s

/-- ELIGIBLE to REFUSED (R132). -/
def refuseGrid (s : State) (n : Nat) (g : Grid) (code detail : Nat) (finfo : DWord) : State :=
  endGrid gridFuel (passHead (clearDisp s g.part) n g) n .refused code detail finfo

/-- ELIGIBLE to PLACING: GRIDID and DEPTH are written (R123, R132). -/
def admitGrid (s : State) (n : Nat) (g : Grid) : State :=
  let s := setGrid (passHead (clearDisp s g.part) n g) n { g with st := .placing, passed := 0 }
  devPost s { part := g.part, ctx := g.ctx, user := false } (g.addr + 72)
    [BitVec.ofNat 64 (g.gridid.toNat * 2 ^ 32 + g.depth)] none

/-- An admission (R126, R130). -/
def serveAdmit (s : State) (n : Nat) (g : Grid) : Serve :=
  match badRecord (capOn s g.part capNotify) (isService g) g.lrec with
  | some i => .enter (refuseGrid s n g 5 i g.addr)
  | none =>
    match checkLaunch s g with
    | .wait s => .wait s
    | .refuse c d f => .enter (refuseGrid s n g c d f)
    | .ok d slots =>
      if !(fitsEmpty s n g d slots) then .enter (refuseGrid s n g 6 0 0)
      else if lrecResident g.lrec then
        match placeAll (lrecBlocks g.lrec) (admitGrid s n g) n d slots with
        | some s => .enter s
        | none => .no
      else .enter (admitGrid s n g)

/-- Ends a source's reservation (R364). -/
def endResv (s : State) (p : Nat) (x : Src) : State :=
  { s with disps := tmod s.disps p (fun d =>
      { d with reserving := d.reserving.filter (fun r => decide (r.src ≠ x)), waiters := d.waiters.filter (fun y => decide (y ≠ x)) }) }

/-- Whether a source holds the reservation. -/
def isReserving (s : State) (p : Nat) (x : Src) : Bool :=
  match tget s.disps p with
  | some d => match d.reserving with
    | some r => decide (r.src = x)
    | none => false
  | none => false

/-- The next block of a grid. A check that fails now stops the placement (R126, R132). A successor inherits the count of a
block that was placed after reserving (R363). -/
def servePlace (s : State) (n : Nat) (g : Grid) : Serve :=
  match checkLaunch s g with
  | .wait s => .wait s
  | .refuse c _ f =>
    .stop (gridBlocksDone (setGrid (endResv (clearDisp s g.part) g.part (srcOf g)) n { g with st := .running, later := some (c, f) }) n)
  | .ok d slots =>
    match spotOf s g d (lrecPrio g.lrec) with
    | none => .no
    | some x =>
      let reserved := isReserving s g.part (srcOf g)
      let s := endResv (placeBlock (clearDisp s g.part) n g d slots x) g.part (srcOf g)
      if reserved && decide (g.next + 1 < lrecBlocks g.lrec) then
        .place { s with
          grids := tmod s.grids n (fun y => { y with passed := g.passed })
          disps := tmod s.disps g.part (fun y => { y with waiters := y.waiters ++ [srcOf g] }) }
      else .place s

/-- What a block holds of R127. -/
def declOfBlock (b : Block) : Decl :=
  { ophnd := b.ophnd, rlocks := b.rlocks, itemq := b.itemq, barriers := b.bars.length, monitors := b.monitors }

/-- The return of a block (R366). -/
def serveReturn (s : State) (bid : Nat) (b : Block) : Serve :=
  let held := heldCores s b.part b.prio (some (.ret bid))
  let back (s : State) (b : Block) : Serve :=
    let s := returnBlock s bid b
    match tget s.blocks bid with
    | some x => if x.swapped then .wait s else .ret (endResv s b.part (.ret bid))
    | none => .ret (endResv s b.part (.ret bid))
  if lostCore s b then
    match chooseRun s { part := b.part, var := variantOf b, decl := declOfBlock b, ex := some bid, held := held } with
    | none => .no
    | some run =>
      let s := rebase s bid b run
      match tget s.blocks bid with
      | some b => back s b
      | none => .ret s
  else if returnFits s bid b held then back s b
  else .no

def serve (s : State) (c : Cand) : Serve :=
  match c.ask with
  | .enter n => match tget s.grids n with
    | some g => serveAdmit s n g
    | none => .no
  | .place n => match tget s.grids n with
    | some g => servePlace s n g
    | none => .no
  | .ret b => match tget s.blocks b with
    | some x => serveReturn s b x
    | none => .no

/-! ## Counting (R360, R363) -/

/-- How often a candidate has been passed over. -/
def passedOf (s : State) (c : Cand) : Nat :=
  match c.ask with
  | .ret b => match tget s.blocks b with
    | some x => x.passed
    | none => 0
  | .enter n => match tget s.grids n with
    | some g => g.passed
    | none => 0
  | .place n => match tget s.grids n with
    | some g => g.passed
    | none => 0

/-- A candidate for a place is passed over once more; at 64 it waits to reserve (R363). -/
def passOver (s : State) (p : Nat) (c : Cand) : State :=
  let counts := match c.ask with
    | .enter n => match tget s.grids n with
      | some g => lrecResident g.lrec
      | none => false
    | _ => true
  if !counts then s
  else
    let k := passedOf s c + 1
    let s := match c.ask with
      | .ret b => { s with blocks := tmod s.blocks b (fun x => { x with passed := k }) }
      | .enter n => { s with grids := tmod s.grids n (fun x => { x with passed := k }) }
      | .place n => { s with grids := tmod s.grids n (fun x => { x with passed := k }) }
    if k = 64 then { s with disps := tmod s.disps p (fun d => { d with waiters := d.waiters ++ [c.src] }) } else s

/-- A decision is made for candidate `c` among `cs`. -/
def decided (s : State) (p : Nat) (c : Cand) (cs : List Cand) (places : Bool) : State :=
  let s := { s with disps := tmod s.disps p (fun d => { d with
    decisions := d.decisions + 1
    last := match c.ask with
      | .ret _ => d.last
      | _ => d.last.filter (fun x => decide (x.1 ≠ c.prio)) ++ [(c.prio, c.src)] }) }
  if places then (cs.filter (fun x => decide (x ≠ c))).foldl (fun s x => passOver s p x) s else s

/-! ## Making room (R133, R365, R367) -/

/-- The blocks that have a workgroup on a run. -/
def occupants (s : State) (run : List Nat) : List (Nat × Block) :=
  s.blocks.filter (fun b => !b.2.swapped && (List.range b.2.vcores.length).any (fun i => run.contains (wgCore s b.2 i)))

/-- Posts a switch request to a block of a grid with NOSW = 0 (R133); none is posted without capability 0x0040 (R21). -/
def postSwitch (s : State) (bid : Nat) : State :=
  { s with blocks := tmod s.blocks bid (fun b => if b.nosw || !(capOn s b.part capVariants) then b else { b with joint := true }) }

/-- Whether a block may be taken for a candidate of PRIO `prio`: it waits as R141 lists (R365), or its PRIO is lower
(R367). -/
def removable (s : State) (prio : Nat) (x : Nat × Block) : Bool :=
  mayLeave s x.1 x.2 && (decide (x.2.prio < prio) || (decide (x.2.prio ≤ prio) && blockWaits s x.1))

/-- The state in which a block has left its cores, for a test of what then fits. -/
def asIfLeft (s : State) (bid : Nat) : State :=
  { s with
    blocks := tmod s.blocks bid (fun b => { b with swapped := true, claimed := false })
    groups := s.groups.map (fun g => if g.2.blk = bid then (g.1, { g.2 with st := .parked, reason := 3 }) else g) }

/-- Victims in the order of R367: lowest PRIO first, then youngest placement first. -/
def victimOrder (l : List (Nat × Block)) : List (Nat × Block) :=
  tvals (l.foldl (fun (t : Tbl (Nat × Block)) x => tset t (x.2.prio * 2 ^ 64 + (2 ^ 64 - 1 - x.2.order)) x) [])

/-- The victims whose leaving lets `fits` hold, only as many as it needs. -/
def victims (fits : State → Bool) : List (Nat × Block) → State → List Nat → Option (List Nat)
  | [], _, _ => none
  | x :: r, s, acc =>
    let s := asIfLeft s x.1
    if fits s then some (acc ++ [x.1]) else victims fits r s (acc ++ [x.1])

/-- The highest PRIO among the occupants of a run, and the victims that free it; `none` for a run that cannot be freed. -/
def roomOn (s : State) (prio : Nat) (fits : State → Bool) (run : List Nat) : Option (Nat × List Nat) :=
  let occ := occupants s run
  if occ.any (fun x => x.2.resident || holdsOp s x.1) then none
  else (victims fits (victimOrder (occ.filter (removable s prio))) s []).map (fun v => (occ.foldl (fun a x => max a x.2.prio) 0, v))

/-- Frees a run: switch requests to its occupants, and the victims leave (R367). -/
def freeRun (s : State) (run : List Nat) (vs : List Nat) : State :=
  let s := (occupants s run).foldl (fun s x => postSwitch s x.1) s
  vs.foldl (fun s b => swapOut s b (!(blockWaits s b))) s

/-- The run with the lowest first number, the first such. -/
def bestRun (l : List (List Nat × Nat × List Nat)) : Option (List Nat × List Nat) :=
  match l with
  | [] => none
  | x :: r => let y := r.foldl (fun b y => if y.2.1 < b.2.1 then y else b) x
              some (y.1, y.2.2)

/-- Makes room for a candidate that fits nowhere (R365, R367); a RESIDENT grid fits as a whole (R130, R361; log 30). -/
def makeRoom (s : State) (c : Cand) : State :=
  let free (l : List (List Nat × Nat × List Nat)) : Option State := (bestRun l).map (fun x => freeRun s x.1 x.2)
  match c.ask with
  | .enter n =>
    (match tget s.grids n with
      | none => s
      | some g =>
        if !(lrecResident g.lrec) then s
        else
          match checkLaunch s g with
          | .ok d slots =>
            ((byRank d g.lrec).findSome? (fun v =>
              free ((runsOf (placeCores s g.part) (d.variants.getD v noVariant).wgs).filterMap (fun run =>
                (roomOn s c.prio (fun s => (placeAll (lrecBlocks g.lrec) s n d slots).isSome) run).map (fun y => (run, y)))))).getD s
          | _ => s)
  | .ret b =>
    (match tget s.blocks b with
      | none => s
      | some x =>
        if lostCore s x then
          let w : Want := { part := x.part, var := variantOf x, decl := declOfBlock x, ex := some b,
                            held := heldCores s x.part x.prio (some (.ret b)) }
          (free ((runsOf (placeCores s x.part) w.var.wgs).filterMap (fun run =>
            (roomOn s c.prio (fun s => runFits s w run) run).map (fun y => (run, y))))).getD s
        else
          let run := (List.range x.vcores.length).map (wgCore s x)
          let held := heldCores s x.part x.prio (some (.ret b))
          (free (((roomOn s c.prio (fun s => returnFits s b x held) run).map (fun y => (run, y))).toList)).getD s)
  | .place n =>
    match tget s.grids n with
    | none => s
    | some g =>
      match checkLaunch s g with
      | .ok d _ =>
        let held := heldCores s g.part c.prio (some c.src)
        ((byRank d g.lrec).findSome? (fun v =>
          let w := wantOf g d v held
          free ((runsOf (placeCores s g.part) w.var.wgs).filterMap (fun run =>
            (roomOn s c.prio (fun s => runFits s w run) run).map (fun y => (run, y)))))).getD s
      | _ => s

/-- Posts an upgrade request to the first block for which a permitted variant of higher RANK now fits (R133). -/
def upgrade (s : State) (p : Nat) : State :=
  match s.blocks.find? (fun x =>
      decide (x.2.part = p) && !x.2.swapped && !x.2.nosw && !x.2.joint && !x.2.stop && ctxServed s p x.2.ctx
        && (let lrec := (tget s.grids x.2.grid).elim [] Grid.lrec
            (chooseVariant s p x.2.desc lrec (some x.1) (heldCores s p x.2.prio none)
              ((byRank x.2.desc lrec).filter (fun v =>
                decide ((variantOf x.2).rank < (x.2.desc.variants.getD v noVariant).rank)))).isSome)) with
  | some x => postSwitch s x.1
  | none => s

/-! ## The decisions -/

/-- The dispatcher of a partition that may decide now: no block waits to make the reservation (R363), and the cycle of its
sources is as of now. -/
def decider (s : State) (p : Nat) : Option (Disp × State) :=
  match tget s.disps p, tget s.parts p with
  | some d, some pt =>
    if pt.st = .destroying then none
    else
      let now := cycleNow s p d.cycle
      let d := { d with cycle := now, last := lastNow d.cycle now d.last }
      some (d, { s with disps := tset s.disps p d })
  | _, _ => none

/-- The first candidate that can be served, what serving it gives, and the candidates tried before it. -/
def firstServed (s : State) : List Cand → List Cand → List Cand × Option (Cand × Serve)
  | [], passed => (passed, none)
  | c :: r, passed =>
    match serve s c with
    | .no => firstServed s r (passed ++ [c])
    | x => (passed, some (c, x))

/-- DISPATCH_ADMIT: the decision admits or refuses one grid (R126, R360, R361). -/
def execDispatchAdmit (p : Nat) (s : State) : StepOut :=
  .next (match decider s p with
    | none => s
    | some (d, s') =>
      if d.reserving.isNone && !d.waiters.isEmpty then s
      else
        let cs := candidates s' p d
        match (firstServed s' cs []).2 with
        | some (c, .enter t) => decided t p c cs ((tget t.blocks s'.uid).isSome)
        | some (_, .wait t) => t
        | _ => s)

/-- DISPATCH_PLACE_BLOCK: the decision places one block (R362), or stops a placement that fails its checks (R126); before
it, candidates passed over get room (R365, R367) and forced swap-outs that have drained are completed. -/
def execDispatchPlaceBlock (p : Nat) (s : State) : StepOut :=
  .next (match decider s p with
    | none => s
    | some (d, s') =>
      if d.reserving.isNone && !d.waiters.isEmpty then s
      else
        let still := match tget s.parts p with
          | some pt => pt.moving.isNone
          | none => false
        let t := (s'.blocks.filter (fun b => decide (b.2.part = p) && b.2.stop && still && ctxServed s p b.2.ctx)).foldl
          (fun s b => swapOut s b.1 true) s'
        if t ≠ s' then t
        else
          let cs := candidates s' p d
          let (passed, found) := firstServed s' cs []
          let t := passed.foldl (fun t c => if t = s' then makeRoom t c else t) s'
          if t ≠ s' then t
          else
            match found with
            | some (c, .place t) => decided t p c cs true
            | some (_, .stop t) => t
            | some (_, .wait t) => t
            | none => upgrade s' p
            | _ => s)

/-- DISPATCH_RETURN_BLOCK: the decision returns one swapped-out block (R366). -/
def execDispatchReturnBlock (p : Nat) (s : State) : StepOut :=
  .next (match decider s p with
    | none => s
    | some (d, s') =>
      if d.reserving.isNone && !d.waiters.isEmpty then s
      else
        let cs := candidates s' p d
        match (firstServed s' cs []).2 with
        | some (c, .ret t) => decided t p c cs true
        | some (_, .wait t) => t
        | _ => s)

/-! ## Reservations (R363, R364) -/

/-- The run with the most free group slots in total, ties to R362's order (R364). -/
def freestRun (s : State) (p n : Nat) : Option (List Nat) :=
  let free (r : List Nat) : Nat := r.foldl (fun a c => a + (slotSupply - slotsUsed s c none)) 0
  match runsOf (placeCores s p) n with
  | [] => none
  | x :: r => some (r.foldl (fun b y => if free b < free y then y else b) x)

/-- The permitted variant of smallest WGS, and of those the one of highest RANK (R364). -/
def reservedVariant (d : KDesc) (lrec : List DWord) : Option Nat :=
  match byRank d lrec with
  | [] => none
  | x :: r => some (r.foldl (fun b v => if (d.variants.getD v noVariant).wgs < (d.variants.getD b noVariant).wgs then v else b) x)

/-- What a candidate reserves: a variant and cores; or nothing, and whether its structures are still being read. -/
def reserveFor (s : State) (p : Nat) (c : Cand) : Except State (Option (Nat × List Nat)) :=
  let grid (n : Nat) : Except State (Option (Nat × List Nat)) :=
    match tget s.grids n with
    | none => .ok none
    | some g =>
      match checkLaunch s g with
      | .wait t => .error t
      | .refuse _ _ _ => .ok none
      | .ok d _ =>
        match reservedVariant d g.lrec with
        | none => .ok none
        | some v => .ok ((freestRun s p (d.variants.getD v noVariant).wgs).map (fun r => (v, r)))
  match c.ask with
  | .enter n => grid n
  | .place n => grid n
  | .ret b =>
    match tget s.blocks b with
    | none => .ok none
    | some x =>
      if lostCore s x then .ok ((freestRun s p (variantOf x).wgs).map (fun r => (x.variant, r)))
      else .ok (some (x.variant, (List.range x.vcores.length).map (wgCore s x)))

/-- Swaps out every block on a reserved run that waits as R141 lists, whatever its PRIO (R364, R365, R368; log 30). -/
def clearRun (s : State) (r : Resv) : State := (occupants s r.cores).foldl (fun s x => swapOut s x.1 false) s

/-- GANG_RESERVE: the block that waited longest reserves a run and reclaims it; while a reservation stands, blocks on it that
come to wait are swapped out (R363 to R365). -/
def execGangReserve (p : Nat) (s : State) : StepOut :=
  .next (match decider s p with
    | none => s
    | some (d, s') =>
      let cs := candidates s' p d
      let cand (x : Src) : Option Cand := cs.find? (fun c => decide (c.src = x) && decide (64 ≤ passedOf s' c))
      match d.reserving with
      | some r => if (cand r.src).isSome then clearRun s r else endResv s p r.src
      | none =>
        match d.waiters with
        | [] => s
        | w :: rest =>
          let drop (s : State) : State := { s with disps := tmod s.disps p (fun d => { d with waiters := rest }) }
          match cand w with
          | none => drop s
          | some c =>
            match reserveFor s' p c with
            | .error t => t
            | .ok none => drop s
            | .ok (some (v, run)) =>
              let r : Resv := { src := w, prio := c.prio, variant := v, cores := run }
              let s := { drop s with disps := tmod s.disps p (fun d => { d with waiters := rest, reserving := some r }) }
              clearRun ((occupants s run).foldl (fun s x => postSwitch s x.1) s) r)

end Sys2Proof.Machine
end

