-- ==== Sys2Proof/Machine/Operators.lean ====
section
/-! DEFINITION. Binding, granting and reading operators: OPBIND, OPUNB, OPGNT, OPREV, OPSTAT, OPDISC (R310 to R315)
and OPGANG (R319, R320, R324). -/

namespace Sys2Proof.Machine

/-- The form of the operator instructions (R310). -/
def formOp (d a : BitVec 7) (bad : Bool) : Form := { Form.mk0 [opS d.toNat, opS a.toNat] none .refused true with bad := fun _ => bad }

/-- The virtual core of the issuing group. -/
def Issue.vcore (is : Issue) : Nat := (virtCore is.s (reqOf is.s is.g).part is.g.core).getD 512

/-- The operator a handle names, when it is valid for the group (R291, R310, R319). -/
def opOfHandle (is : Issue) (h : DWord) : Option (Nat × Oper) :=
  match physCore is.s (reqOf is.s is.g).part (is.vcore / 128 * 128 + h.toNat / 2 ^ 9 % 128) with
  | none => none
  | some c =>
    let key := c * 64 + h.toNat / 8 % 64
    match tget is.s.ops key with
    | none => none
    | some o =>
      if h.toNat < 2 ^ 16 ∧ o.root = none ∧ o.reuse.toNat = h.toNat % 8 ∧ o.blk = is.g.blk then some (key, o) else none

/-! ## Descriptors (R292, R311) -/

/-- The fields of a descriptor. -/
structure ODesc where
  deck : DWord
  k : Nat
  n : Nat
  w : Nat
  s : Nat
  prio : Nat
  scale : Bool
  zeroabs : Bool
  overwrite : Bool
  raw : Bool
  readable : Bool
  trans : Bool
  scales : DWord
deriving DecidableEq, Repr

def readODesc (x : List DWord) : ODesc :=
  let a := x.getD 1 0
  let b := x.getD 2 0
  { deck := x.getD 0 0, k := a.toNat % 2 ^ 16, n := a.toNat / 2 ^ 16 % 2 ^ 16, w := a.toNat / 2 ^ 32 % 16 + 1,
    s := a.toNat / 2 ^ 36 % 64 + 1, prio := b.toNat / 2 ^ 6 % 4, scale := b.getLsbD 5, zeroabs := b.getLsbD 4,
    overwrite := b.getLsbD 3, raw := b.getLsbD 2, readable := b.getLsbD 1, trans := b.getLsbD 0, scales := x.getD 3 0 }

/-- BADDESC (R310). -/
def badDesc (x : List DWord) : Bool :=
  let d := readODesc x
  decide ((x.getD 1 0).toNat / 2 ^ 42 ≠ 0) || decide ((x.getD 2 0).toNat / 2 ^ 8 ≠ 0) || (x.drop 4).any (fun w => decide (w ≠ 0))
    || decide (d.k = 0) || decide (16384 < d.k) || decide (d.n = 0) || decide (16384 < d.n) || (d.scale && d.raw)

/-- BADFMT (R311). -/
def badFmt (s : State) (p : Nat) (slot : DWord) (d : ODesc) : Bool :=
  !([0, 1, 2, 3, 4].contains (fsWFMT slot)) || (decide (fsWFMT slot = 4) && !(capOn s p capCb4))
    || !([0, 1, 2, 3, 5].contains (fsAFMT slot))
    || (!d.raw && !([0, 2, 3, 5, 6, 7, 8].contains (fsDFMT slot)))
    || (fsROT slot && (!(capOn s p capRotation) || decide (fsAFMT slot ≠ 5) || d.trans || decide (d.k % 64 ≠ 0)))

/-- The bytes of a share of `k` rows and `n` columns. -/
def shareBytes (slot : DWord) (k n : Nat) : Nat := (k + 127) / 128 * ((n + 63) / 64) * tileBytes (fsWFMT slot)

/-- Where an address lies in the allocation of workgroup `wg` of a block: its offset there, if `n` bytes from it fit
(R293). -/
def inAlloc (is : Issue) (b : Block) (wg : Nat) (va : DWord) (n : Nat) : Option Nat :=
  match route is.s b.part va with
  | .spad v _ o =>
    let base := b.spadOff.getD wg 0
    if v = b.vcores.getD wg 512 ∧ base ≤ o ∧ o + n ≤ base + (variantOf b).spad then some o else none
  | _ => none

/-- The offset of the scales in the allocation: none when they do not suit, and `some none` without SCALE. -/
def scalesAt (is : Issue) (b : Block) (d : ODesc) : Option (Option Nat) :=
  if !d.scale then some none
  else if d.scales.toNat % 64 ≠ 0 then none
  else (inAlloc is b is.g.wgid d.scales (2 * (if d.trans then d.k else d.n))).map some

/-- The first line of a scratchpad interval whose tag is not `swz`, as an offset. -/
def tagBad (s : State) (core off n swz : Nat) : Option Nat :=
  ((List.range ((off + n + 63) / 64 - off / 64)).map (fun i => off / 64 + i)).findSome? (fun l =>
    if (mget s.swz (core * 2 ^ 15 + l)).toNat = swz then none else some (64 * l))

/-- Whether an engine holds a range lock on bytes of a virtual core's scratchpad. -/
def engineOn (s : State) (p c v off n : Nat) : Bool :=
  let lo := (spadAddr v off).toNat
  s.locks.any (fun l => decide (l.part = p) && decide (l.ctx = c) && decide (l.lo < lo + n) && decide (lo ≤ l.hi))

/-- The operators that a workgroup of a block holds or has claimed (R291, R323). -/
def heldBy (s : State) (blk wg : Nat) : Nat :=
  ((s.ops ++ s.binds.flatMap (fun b => b.2.ops)).filter (fun o => decide (o.2.blk = blk) && decide (o.2.wg = wg))).length

/-- Whether an index is not FREE, or claimed. -/
def indexTaken (s : State) (key : Nat) : Bool := (tget s.ops key).isSome || s.binds.any (fun b => b.2.ops.any (fun o => decide (o.1 = key)))

/-- The lowest FREE index of a core. -/
def freeIndex (s : State) (core : Nat) : Nat := ((List.range 64).find? (fun i => !(indexTaken s (core * 64 + i)))).getD 0

/-- The default grant (R306). -/
def defaultGrant (ctx : Nat) : DWord := BitVec.ofNat 64 (2 ^ 63 + 2 ^ 32 + ctx)

/-- A bound operator, or one member of a truss, with its share (R297, R306, R320). -/
def newOper (s : State) (is : Issue) (b : Block) (d : ODesc) (fslot key wg deck : Nat) (scale : Option Nat)
    (root : Option Nat) (members : List Nat) (split : Bool) (sk sn k0 n0 : Nat) : Oper :=
  { st := .bound, blk := is.g.blk, wg := wg, ctx := b.ctx, part := b.part, reuse := mget s.opReuse key, deck := deck,
    k := d.k, n := d.n, w := d.w, s := d.s, prio := d.prio, scale := scale, zeroabs := d.zeroabs, overwrite := d.overwrite,
    raw := d.raw, readable := d.readable, trans := d.trans, fslot := fslot, slot := (b.slots.drop (8 * fslot)).take 8,
    entries := [], grants := List.replicate d.w (defaultGrant b.ctx), root := root, members := members, split := split,
    sk := sk, sn := sn, k0 := k0, n0 := n0 }

/-- NOSPACE (R294). -/
def noSpace (o : Oper) : Bool := decide (0x80000 < o.w * o.s * opIES o) || decide (0x80000 < o.w * o.s * opRES o)

/-- A failure word of OPBIND and OPGANG (R311). -/
def bindFail (code : Nat) : DWord := BitVec.ofNat 64 (2 ^ 63 + code)

/-- The common start of OPBIND and OPGANG: alignment, the wait for the counters, the descriptor (R311). -/
def bindStart (is : Issue) (va : DWord) (f : Issue → Block → List DWord → Eff) : Eff :=
  if va.toNat % 64 ≠ 0 then .trap (.plain 4 is.sl.exec va)
  else
    let s := drainLdSt is.s is.gid
    match tget s.groups is.gid with
    | none => .again s
    | some g =>
      if !(ldStZero g) then .again s
      else
        match tget s.blocks g.blk with
        | none => .fatal
        | some b =>
          match readRecord s is.gid is.sl.exec (reqOf s g) va 8 with
          | .trap c x => .trap (.plain c is.sl.exec x)
          | .s2 die ia => .leave (s2Fault s is.gid is.side die ia)
          | .wait s => .again s
          | .words x => f { is with s := clearRecs s is.gid, g := { g with recs := [] } } b x

/-- The value of a handle (R291). -/
def handleOf (v i : Nat) (reuse : BitVec 3) : DWord := BitVec.ofNat 64 (v % 128 * 512 + i * 8 + reuse.toNat)

/-- Writes a scalar register of the issuing group in a state. -/
def Issue.putIn (is : Issue) (s : State) (d : Nat) (x : DWord) : Eff :=
  .done { s with groups := tmod s.groups is.gid (fun g => setSreg g d x) }

/-- Whether an engine lock overlaps the deck or the scales of an operator that is to be bound (R311). -/
def opBusy (s : State) (o : Oper) : Bool :=
  let v := ((tget s.blocks o.blk).map (fun b => b.vcores.getD o.wg 0)).getD 0
  engineOn s o.part o.ctx v o.deck (shareBytes (o.slot.getD 0 0) o.sk o.sn) || (match o.scale with
    | some a => engineOn s o.part o.ctx v a (2 * opN o)
    | none => false)

/-- Binds operators whose checks have passed (R297). -/
def bindOps (s : State) (ops : List (Nat × Oper)) : State := { s with ops := ops.foldl (fun t o => tset t o.1 o.2) s.ops }

/-- The last step of OPBIND and OPGANG: their indices claimed, they wait until no engine lock overlaps deck or scales, then bind and
write the handle (R311, R323, R324). -/
def bindEff (is : Issue) (d : Nat) (handle : DWord) (ops : List (Nat × Oper)) : Eff :=
  if ops.any (fun o => opBusy is.s o.2) then
    let (id, s) := fresh is.s
    is.waitIn { s with binds := tset s.binds id { gid := is.gid, side := is.side, d := d, handle := handle, ops := ops } } (.engine id)
  else is.putIn (bindOps is.s ops) d handle

/-- A bind goes on once the engine locks are gone (R311). -/
def bindGoesOn (s : State) (id : Nat) (b : Bind) : State :=
  if b.ops.any (fun o => opBusy s o.2) then s
  else
    { bindOps s b.ops with
      binds := tdel s.binds id
      groups := tmod s.groups b.gid (fun g => setSlot (setSreg g b.d b.handle) b.side (advance (slotOf g b.side))) }

/-- OPBIND (R311). -/
def execOpbind (d : BitVec 7) (a : BitVec 7) (sl : BitVec 3) (s : State) : StepOut :=
  issueWord (encode (.opbind d a sl)) (formOp d a false) (fun is =>
    bindStart is (sreg is.g a.toNat) (fun is b x =>
      let o := readODesc x
      let slot := b.slots.getD (8 * sl.toNat) 0
      let n := shareBytes slot o.k o.n
      let fail (c : Nat) : Eff := is.putIn is.s d.toNat (bindFail c)
      let core := is.g.core
      if badDesc x then fail 3
      else if badFmt is.s b.part slot o then fail 4
      else
        match inAlloc is b is.g.wgid o.deck n, scalesAt is b o with
        | some deck, some scale =>
          if deck % tileBytes (fsWFMT slot) ≠ 0 then fail 5
          else
            let i := freeIndex is.s core
            let key := core * 64 + i
            let op := newOper is.s is b o sl.toNat key is.g.wgid deck scale none [key] false o.k o.n 0 0
            if noSpace op then fail 6
            else if b.ophnd ≤ heldBy is.s is.g.blk is.g.wgid then fail 2
            else
              let np := 2 * opN op
              let v := b.vcores.getD is.g.wgid 0
              let tag := match tagBad is.s core deck n (fsSWZ slot), scale with
                | some l, _ => some l
                | none, some a => tagBad is.s core a np (fsSWZ slot)
                | none, none => none
              match tag with
              | some l => .trap (.plain 10 is.sl.exec (spadAddr v l))
              | none => bindEff is d.toNat (handleOf v i op.reuse) [(key, op)]
        | _, _ => fail 5)) s

/-! ## Trusses (R319, R320, R324) -/

/-- The tiles of member `j` along the split dimension and the first of them (R320). -/
def dealt (t nm j : Nat) : Nat × Nat := (t / nm + (if j < t % nm then 1 else 0), j * (t / nm) + min j (t % nm))

/-- Rows, columns, first row and first column of the share of member `j`. -/
def shareOf (d : ODesc) (split : Bool) (nm j : Nat) : Nat × Nat × Nat × Nat :=
  if split then
    let (tj, t0) := dealt ((d.k + 127) / 128) nm j
    (min d.k (128 * (t0 + tj)) - 128 * t0, d.n, 128 * t0, 0)
  else
    let (tj, t0) := dealt ((d.n + 63) / 64) nm j
    (d.k, min d.n (64 * (t0 + tj)) - 64 * t0, 0, 64 * t0)

/-- Claims the lowest FREE index on every member's core, in member order: workgroup and key. -/
def claimIndices (s : State) (b : Block) (wg : Nat) : Nat → List (Nat × Nat)
  | 0 => []
  | n + 1 =>
    let before := claimIndices s b wg n
    let w := wg + n
    let core := wgCore s b w
    let i := ((List.range 64).find? (fun i =>
      !(indexTaken s (core * 64 + i)) && !(before.any (fun x => decide (x.2 = core * 64 + i))))).getD 0
    before ++ [(w, core * 64 + i)]

/-- OPGANG (R324). -/
def execOpgang (d : BitVec 7) (a : BitVec 7) (n : BitVec 4) (p : BitVec 1) (sl : BitVec 3) (s : State) : StepOut :=
  issueWord (encode (.opgang d a n p sl)) (formOp d a (n.toNat < 2 || 12 < n.toNat)) (fun is =>
    bindStart is (sreg is.g a.toNat) (fun is b x =>
      let o := readODesc x
      let nm := n.toNat
      let split := decide (p = 1)
      let wg := is.g.wgid
      let slot := b.slots.getD (8 * sl.toNat) 0
      let spad := (variantOf b).spad
      let off := (ownVa is.s o.deck - spadAddr (b.vcores.getD wg 0) (b.spadOff.getD wg 0)).toNat
      let tiles := if split then (o.k + 127) / 128 else (o.n + 63) / 64
      let share (j : Nat) := shareOf o split nm j
      let bytes (j : Nat) : Nat := shareBytes slot (share j).1 (share j).2.1
      let at_ (j : Nat) : Nat := b.spadOff.getD (wg + j) 0 + off
      let shareBad (j : Nat) : Bool := decide (at_ j % tileBytes (fsWFMT slot) ≠ 0) || decide (spad < off + bytes j)
      let fail (c : Nat) : Eff := is.putIn is.s d.toNat (bindFail c)
      let js := List.range nm
      if badDesc x then fail 3
      else if badFmt is.s b.part slot o then fail 4
      else if (variantOf b).wgs < wg + nm ∨ tiles < nm ∨ o.trans = true ∨ (js.any (fun j => decide (j ≠ 0) && shareBad j)) = true then fail 9
      else
        match inAlloc is b wg o.deck (bytes 0), scalesAt is b o with
        | some deck, some scale =>
          if deck % tileBytes (fsWFMT slot) ≠ 0 then fail 5
          else
            let keys := claimIndices is.s b wg nm
            let root := (keys.headD (wg, 0)).2
            let mk (j : Nat) (key : Nat × Nat) : Oper :=
              let (sk, sn, k0, n0) := share j
              newOper is.s is b o sl.toNat key.2 key.1 (at_ j) (if j = 0 then scale else none) (if j = 0 then none else some root)
                (if j = 0 then keys.map Prod.snd else []) split sk sn k0 n0
            let op := mk 0 (wg, root)
            if noSpace op then fail 6
            else if js.any (fun j => decide (b.ophnd ≤ heldBy is.s is.g.blk (wg + j))) then fail 2
            else
              let v (j : Nat) : Nat := b.vcores.getD (wg + j) 0
              let tag : Option DWord :=
                match js.findSome? (fun j => (tagBad is.s (wgCore is.s b (wg + j)) (at_ j) (bytes j) (fsSWZ slot)).map (fun l => spadAddr (v j) l)), scale with
                | some l, _ => some l
                | none, some a => (tagBad is.s is.g.core a (2 * o.n) (fsSWZ slot)).map (fun l => spadAddr (v 0) l)
                | none, none => none
              match tag with
              | some l => .trap (.plain 10 is.sl.exec l)
              | none => bindEff is d.toNat (handleOf (v 0) (root % 64) op.reuse) ((js.zip keys).map (fun y => (y.2.2, mk y.1 y.2)))
        | _, _ => fail 5)) s

/-! ## Unbinding, grants, state -/

/-- Whether an OPUNB that waits for an operator may end: it is FREE, or bound anew (R312). -/
def opGone (s : State) (key : Nat) : Bool :=
  match tget s.ops key with
  | none => true
  | some o => decide (o.st ≠ .unbinding)

/-- OPUNB (R312). -/
def execOpunb (d : BitVec 7) (a : BitVec 7) (s : State) : StepOut :=
  issueWord (encode (.opunb d a)) (formOp d a false) (fun is =>
    match opOfHandle is (sreg is.g a.toNat) with
    | none => is.putS d.toNat 1
    | some (key, _) =>
      let s := opUnbind is.s key
      if opGone s key then is.putIn s d.toNat 0
      else is.waitIn s (.opFree (key / 64) (key % 64) d.toNat)) s

/-- BADGRANT (R310). -/
def badGrant (x : DWord) : Bool :=
  decide (x.toNat / 2 ^ 51 % 2 ^ 12 ≠ 0) || decide (x.toNat / 2 ^ 38 % 16 ≠ 0) || decide (x.toNat / 2 ^ 11 % 2 ^ 21 ≠ 0)
    || (decide (383 < x.toNat / 2 ^ 42 % 512) && decide (x.toNat / 2 ^ 42 % 512 ≠ 0x1FF))

/-- Replaces a grant, and waits for the stores that came under the old one (R313). -/
def grantEff (is : Issue) (d key w : Nat) (x : DWord) : Eff :=
  let s := setGrant is.s key w x
  if grantSettled s key w then is.putIn s d 0 else is.waitIn s (.opGrant (key / 64) (key % 64) w d)

/-- OPGNT (R313). -/
def execOpgnt (d : BitVec 7) (a : BitVec 7) (w : BitVec 4) (s : State) : StepOut :=
  issueWord (encode (.opgnt d a w)) (formOp d a false) (fun is =>
    match opOfHandle is (sreg is.g a.toNat) with
    | none => is.putS d.toNat 1
    | some (key, o) =>
      if o.w ≤ w.toNat then is.putS d.toNat 7
      else if badGrant (sreg is.g d.toNat) then is.putS d.toNat 8
      else grantEff is d.toNat key w.toNat (sreg is.g d.toNat)) s

/-- OPREV (R313). -/
def execOprev (d : BitVec 7) (a : BitVec 7) (w : BitVec 4) (s : State) : StepOut :=
  issueWord (encode (.oprev d a w)) (formOp d a false) (fun is =>
    match opOfHandle is (sreg is.g a.toNat) with
    | none => is.putS d.toNat 1
    | some (key, o) =>
      if o.w ≤ w.toNat then is.putS d.toNat 7
      else grantEff is d.toNat key w.toNat 0) s

/-- The state code of an entry (R301, R314). -/
def entryCode (e : Entry) : Nat := if e.q ≠ 0 then 2 else if e.r then 3 else if e.fill.isEmpty then 0 else 1

/-- The operator word of OPSTAT (R314). -/
def opWord (is : Issue) (key : Nat) (o : Oper) (h : DWord) : DWord :=
  let q := (is.s.passes.filter (fun p => decide (p.2.op = key))).length
  let st : Nat := match o.st with
    | .bound => 1
    | .suspended => 2
    | .moving => 3
    | .unbinding => 4
  let bit (b : Bool) (k : Nat) : Nat := if b then 2 ^ k else 0
  BitVec.ofNat 64 (h.toNat % 2 ^ 16 * 2 ^ 32 + q * 2 ^ 18 + (o.s - 1) * 2 ^ 12 + (o.w - 1) * 2 ^ 8 + bit o.zeroabs 7
    + bit o.overwrite 6 + bit o.raw 5 + bit o.readable 4 + bit o.trans 3 + st)

/-- OPSTAT (R314). -/
def execOpstat (d : BitVec 7) (a : BitVec 7) (e : BitVec 2) (f : BitVec 1) (w : BitVec 4) (s : State) : StepOut :=
  issueWord (encode (.opstat d a e f w)) (formOp d a (e = 3)) (fun is =>
    let h := sreg is.g a.toNat
    match opOfHandle is h with
    | none => is.putS d.toNat 0
    | some (key, o) =>
      if e = 0 then is.putS d.toNat (opWord is key o h)
      else if e = 1 then
        if o.w ≤ w.toNat then is.putS d.toNat 0
        else is.putS d.toNat (BitVec.ofNat 64 ((List.range 32).foldl (fun x i =>
          let k := 32 * f.toNat + i
          x + (if k < o.s then entryCode (entryOf o (w.toNat * o.s + k)) * 4 ^ i else 0)) 0))
      else
        let v := is.vcore / 128 * 128 + h.toNat / 2 ^ 9 % 128
        is.putS d.toNat (va509 (v / 128) (DA + 0x100000000 + v % 128 * 0x4000000 + key % 64 * 0x100000))) s

/-! ## OPDISC (R302, R315) -/

/-- The entries that an OPDISC names. -/
def discEntries (o : Oper) (w : Option Nat) : List Nat :=
  match w with
  | some k => (List.range o.s).map (· + k * o.s)
  | none => List.range (o.w * o.s)

/-- Clears the entries when none has a queued pass; `none` while one has. -/
def discard (s : State) (key : Nat) (w : Option Nat) : Option State :=
  match tget s.ops key with
  | none => some s
  | some o =>
    if (discEntries o w).all (fun i => decide ((entryOf o i).q = 0)) then
      some ((discEntries o w).foldl (fun s i => setEntry s key i Entry.empty) s)
    else none

/-- OPDISC (R315). -/
def execOpdisc (d : BitVec 7) (a : BitVec 7) (l : BitVec 1) (w : BitVec 4) (s : State) : StepOut :=
  issueWord (encode (.opdisc d a l w)) (formOp d a false) (fun is =>
    match opOfHandle is (sreg is.g a.toNat) with
    | none => is.putS d.toNat 1
    | some (key, o) =>
      if l = 0 ∧ o.w ≤ w.toNat then is.putS d.toNat 7
      else
        let k := if l = 1 then none else some w.toNat
        match discard is.s key k with
        | some s => is.putIn s d.toNat 0
        | none => is.waitIn is.s (.opDisc (key / 64) (key % 64) k d.toNat)) s

end Sys2Proof.Machine
end

