-- ==== Sys2Proof/Machine/Ports.lean ====
section
/-! DEFINITION. The ports: links (R410 to R413, R428), accesses of the host over ports C and H (R352, R359, R416 to R421),
answers of the host and of other nodes (R227, R425), and requests of other nodes (R423 to R427). -/

namespace Sys2Proof.Machine

/-! ## Links -/

/-- Port H and port C (R410). -/
def portH : Nat := 18
def portC : Nat := 19

/-- Changes a link. -/
def setLink (s : State) (port : Nat) (l : Link) : State := { s with links := s.links.set port l }

/-- Whether a port carries flits. -/
def portUp (s : State) (port : Nat) : Bool := linkUp (s.links.getD port Link.reset)

/-- The requests outstanding on a link end REVOKED when it leaves service (R428), and the requests that wait at their
source are tried again, with the device writes that they belong to. -/
def revokePort (s : State) (port : Nat) : State :=
  let ids := (s.reqs.filter (fun r => decide (r.2.port = some port) || (decide (port = portC) && decide (r.2.node = 510)))).map Prod.fst
  pumpPosts (pumpReqs (ids.foldl (fun s id => endReq s id 3 false 0) s))

/-- EN := 1; a DOWN link begins training (R412, R413). -/
def enableLink (s : State) (port : Nat) : State :=
  match s.links[port]? with
  | none => s
  | some l =>
    if l.st = .down then setLink s port { l with st := .training, en := true, att := 0 }
    else setLink s port { l with en := true }

/-- Whether an agent is a hart at M level, or at M or HS level. -/
def atM (s : State) (h : Nat) : Bool := match tget s.harts h with
  | some x => decide (x.lvl = .m)
  | none => false
def atHS (s : State) (h : Nat) : Bool := match tget s.harts h with
  | some x => decide (x.lvl = .m) || decide (x.lvl = .hs)
  | none => false

/-- LINK_ENABLE: hart `h` writes EN = 1; only M level can (R412, R413). -/
def execLinkEnable (h port : Nat) (s : State) : StepOut := .next (if atM s h then enableLink s port else s)

/-- LINK_DISABLE: EN := 0; a link in use goes DOWN (R412, R413, R428). -/
def execLinkDisable (h port : Nat) (s : State) : StepOut :=
  .next (match s.links[port]? with
    | none => s
    | some l =>
      if !(atM s h) then s else
      match l.st with
      | .down => setLink s port { l with en := false }
      | .failed => setLink s port { l with en := false }
      | _ => revokePort (setLink s port { l with st := .down, en := false, width := 0 }) port)

/-- LINK_CLEAR: CLR takes a FAILED link to DOWN (R412, R413). -/
def execLinkClear (h port : Nat) (s : State) : StepOut :=
  .next (match s.links[port]? with
    | none => s
    | some l => if atM s h = true ∧ l.st = .failed then setLink s port { l with st := .down } else s)

/-- The widths a port trains at: the full one, or a smaller one (R411). -/
def widthOk (port width : Nat) : Bool :=
  if port < 18 then [1, 2, 4].contains width else [1, 2, 4, 8, 16].contains width
def fullWidth (port : Nat) : Nat := if port < 18 then 4 else 16

/-- LINK_TRAINED: training ends at full or reduced width, and what waited for the port goes on (R412). -/
def execLinkTrained (port width : Nat) (s : State) : StepOut :=
  .next (match s.links[port]? with
    | none => s
    | some l =>
      if l.st = .training ∧ widthOk port width = true then
        pumpIn (pumpPosts (pumpReqs (setLink s port { l with st := if width = fullWidth port then .up else .degraded, width := width })))
      else s)

/-- TRAINING_ATTEMPT_FAIL: one of the first seven attempts of a run fails (R412). -/
def execTrainingAttemptFail (port : Nat) (s : State) : StepOut :=
  .next (match s.links[port]? with
    | none => s
    | some l => if l.st = .training ∧ l.att < 7 then setLink s port { l with att := l.att + 1 } else s)

/-- LINK_TRAINING_FAILED: the eighth attempt fails (R412, R428). -/
def execLinkTrainingFailed (port : Nat) (s : State) : StepOut :=
  .next (match s.links[port]? with
    | none => s
    | some l => if l.st = .training ∧ l.att = 7 then revokePort (setLink s port { l with st := .failed, att := 8, width := 0 }) port else s)

/-- LINK_LOCK_LOST: the link trains again and holds what is not acknowledged; a run of attempts begins (R412). -/
def execLinkLockLost (port : Nat) (s : State) : StepOut :=
  .next (match s.links[port]? with
    | none => s
    | some l => if linkUp l then setLink s port { l with st := .training, att := 0, width := 0 } else s)

/-- FLIT_RETRY: RETRY counts, saturating; nothing else changes (R412, R413). -/
def execFlitRetry (port : Nat) (s : State) : StepOut :=
  .next (match s.links[port]? with
    | none => s
    | some l => if linkUp l then setLink s port { l with retry := min (l.retry + 1) (2 ^ 32 - 1) } else s)

/-! ## Answers to this module's requests -/

/-- What a request to the host does to copies of its line in the device: the L1 of a core keeps the line where its partition has
capability 0x0061 (R21, R246); an RMW and every other agent keep none. -/
def touchHost (s : State) (r : RReq) (off : Nat) : State :=
  let ls := [hostLineAt off]
  if r.kind = .amo then agentWrites s ls
  else if r.src < 512 ∧ capOn s r.part capPortC = true then (if r.kind = .wr then cacheWrites s r.src ls else cacheReads s r.src ls)
  else if r.kind = .wr then agentWrites s ls else agentReads s ls

/-- The host performs a request and completes it, or refuses it (R227, R285, R288). -/
def hostPerform (s : State) (id : Nat) (r : RReq) : State :=
  let o := vaOff r.addr
  let bad := poisonedT s (.host o) r.size
  let old := readT s (.host o) r.size
  match r.owner with
  | .flip _ => endReq s id 0 false 0
  | _ =>
    if !(hostServes s r.part r.ctx o) then endReq s id 3 false 0
    else
      let s := touchHost s r o
      match r.kind with
      | .rd => endReq s id 0 bad old
      | .rdc => endReq s id 0 bad old
      | .wr => endReq (writeT s (.host o) r.size r.a.toNat) id 0 false 0
      | .amo =>
        if bad then endReq s id 2 false 0
        else endReq (writeT s (.host o) r.size (rmw r.op r.size old r.a.toNat r.b.toNat)) id 0 false old
      | .ntf => endReq s id 1 false 0

/-- HOST_CACHE_COMPLETION: the host performs a request to node 510 and returns its completion, or the request ends
REVOKED (R227, R246, R422). Requests of one source to one line keep their order. From 2^60 on the identifier is that of a host line,
2^60 + its number, for which port C has asked the host on behalf of a cache (R246). -/
def execHostCacheCompletion (id : Nat) (s : State) : StepOut :=
  .next (if portUp s portC = false then s
    else if 2 ^ 60 ≤ id then { s with co := hostGrant (victim s) s.co (id - 2 ^ 60) }
    else
      match tget s.reqs id with
      | none => s
      | some r =>
        let earlier := s.reqs.any (fun e => decide (e.1 < id) && decide (e.2.src = r.src) && decide (e.2.node = 510)
          && decide (e.2.addr.toNat / 128 = r.addr.toNat / 128))
        if r.node ≠ 510 ∨ earlier then s else pumpPosts (pumpReqs (hostPerform s id r)))

/-- URRAD_ANSWER: another node answers a request (R425). -/
def execUrradAnswer (id status : Nat) (poison : Bool) (data : BitVec 1024) (s : State) : StepOut :=
  .next (match tget s.reqs id with
    | none => s
    | some r => match r.port with
      | some k => if portUp s k && decide (status < 4) then pumpPosts (pumpReqs (endReq s id status (poison && decide (status = 0)) data.toNat)) else s
      | none => s)

/-! ## The host over port C (R419 to R421) -/

/-- The valid window that holds a host physical address (R419). -/
def windowAt (s : State) (hpa : Nat) : Option Nat :=
  (List.range 16).find? (fun p => winV (mget s.windows p) && decide (winBase (mget s.windows p) = hpa / 2 ^ 46 * 2 ^ 46))

/-- The device address of a window offset (R420). -/
def windowAddr (w : Nat) : Option DWord :=
  if w / 2 ^ 43 % 2 = 0 then some (va509 (w / 2 ^ 44 % 4) (w % 2 ^ 43))
  else if w / 2 ^ 40 % 8 = 0 then some (va509 (w / 2 ^ 44 % 4) (DA + w % 2 ^ 40))
  else none

/-- A host access of `size` bytes within one 64-byte line; anything else is no access. -/
def hostSizeOk (addr : DWord) (size : Nat) : Bool :=
  [1, 2, 4, 8, 16, 32, 64].contains size && decide (addr.toNat % size = 0)

/-- Serves a host access through the window table (R416, R419 to R421). -/
def hostAccess (s : State) (addr : DWord) (size : Nat) (write : Bool) (data : Nat) : State :=
  match windowAt s addr.toNat with
  | none => answerHost s 16 addr (!write) (some .unresolvable) false 0
  | some p =>
    let e := mget s.windows p
    if winT e && decide (mget s.tdi p ≠ 2) then answerHost s p addr (!write) (some .tdi) false 0
    else
      match windowAddr (addr.toNat % 2 ^ 46) with
      | none => answerHost s p addr (!write) (some .unresolvable) false 0
      | some va =>
        let k := va.toNat % 128
        acceptIn s { origin := .host p, part := p, ctx := winCtx e, cls := 4, node := 0, addr := va, kind := if write then .wr else .rd,
                     op := 0, size := size, mask := BitVec.ofNat 128 ((2 ^ size - 1) * 2 ^ k),
                     data := BitVec.ofNat 1024 (data % 2 ^ (8 * size) * 2 ^ (8 * k)), a := addr.setWidth 128, b := 0, user := false,
                     wcok := true, peer := 0 }

/-- HOST_MEM_READ (R420, R421). -/
def execHostMemRead (addr : BitVec 64) (size : Nat) (s : State) : StepOut :=
  .next (if hostSizeOk addr size && portUp s portC then hostAccess s addr size false 0 else s)

/-- HOST_MEM_WRITE (R420, R421). -/
def execHostMemWrite (addr : BitVec 64) (size : Nat) (data : BitVec 512) (s : State) : StepOut :=
  .next (if hostSizeOk addr size && portUp s portC then hostAccess s addr size true data.toNat else s)

/-! ## The host over port H (R352, R359, R416, R417, R421) -/

/-- Whether BAR0 of a VF is served: the partition exists, and the TDI lets the access through (R415, R416). -/
def barServed (s : State) (p : Nat) : Bool :=
  portUp s portH && decide (p < 16) && (tget s.parts p).isSome
    && (match (mget s.tdi p).toNat with
        | 0 => true
        | 3 => false
        | _ => decide (tget s.ide p = some .secure))

/-- NOTIFY_PAGE_WRITE: an 8-byte write of a notify register (R352). -/
def execNotifyPageWrite (p i : Nat) (v : BitVec 64) (s : State) : StepOut :=
  .next (if barServed s p && capOn s p capNotify && decide (i < 4096) then writeT s (.notify p i) 8 v.toNat else s)

/-- NOTIFY_PAGE_ADD: an 8-byte write in the add half of the page (R352). -/
def execNotifyPageAdd (p i : Nat) (v : BitVec 64) (s : State) : StepOut :=
  .next (if barServed s p && capOn s p capNotify && decide (i < 4096) then addNotify s p i v else s)

/-- QUEUE0_TAIL_WRITE: TAIL of queue 0 (R359). -/
def execQueue0TailWrite (p : Nat) (v : BitVec 64) (s : State) : StepOut :=
  .next (match tget s.parts p with
    | none => s
    | some pt => if barServed s p then devPost s (qtabReq p) (pt.qtab + 16) [v] none else s)

/-- BIASREQ: a write while no request is in progress starts a flip, or is refused with a reserved bit set; reserved bits are not
kept (R8, R417). -/
def execBiasreq (p : Nat) (v : BitVec 64) (s : State) : StepOut :=
  .next (if barServed s p && decide ((mget s.biasreq p).toNat % 4 ≠ 1) then
      (let t := { s with biasreq := mset s.biasreq p ((v &&& 0x3FFFFFFFE004#64) ||| 1) }
       if v &&& 0xFFFFC00000001FF8#64 = 0 then startBias t p else setBiasSt t p 3)
    else s)

/-- PCERR_CLR: a write with CLR = 1 clears both words (R421). -/
def execPcerrClr (p : Nat) (v : BitVec 64) (s : State) : StepOut :=
  .next (if (barServed s p || (decide (p = 16) && portUp s portH)) && v.getLsbD 63 then
      { s with pcerr := mset s.pcerr p 0, pcerrAddr := mset s.pcerrAddr p 0 }
    else s)

/-- LSTAT of a port (R413). -/
def linkStat (l : Link) : DWord :=
  let st : Nat := match l.st with
    | .down => 0
    | .training => 1
    | .up => 2
    | .degraded => 3
    | .failed => 4
  BitVec.ofNat 64 (l.retry * 2 ^ 32 + l.att % 16 * 2 ^ 20 + l.width % 16 * 2 ^ 16 + (if l.en then 2 ^ 8 else 0) + st)

/-- TAIL of queue 0 as a read over port H finds it (R359); a table that cannot be read gives all ones. -/
def tailWord (s : State) (p : Nat) : DWord :=
  match tget s.parts p with
  | none => BitVec.allOnes 64
  | some pt =>
    (match devRead s (qtabReq p) (pt.qtab + 16) 1 with
      | .done [w] => w
      | _ => BitVec.allOnes 64)

/-- The MSI-X table of a function, 16 bytes for each vector, and its pending bits (R414, log 117). -/
def msixWord (s : State) (fn o : Nat) : DWord :=
  if o < 0x1000 then
    let e := mget s.msix (fn * 256 + o / 16)
    if o / 8 % 2 = 0 then e.extractLsb' 32 64
    else BitVec.ofNat 64 (e.toNat % 2 ^ 32 + (if mget s.msixOn (fn * 256 + o / 16) = 1 then 0 else 2 ^ 32))
  else if o < 0x1020 then
    (List.range 64).foldl (fun a k => if mget s.msixPend (fn * 256 + 8 * (o - 0x1000) + k) = 1 then a ||| BitVec.ofNat 64 (2 ^ k) else a) 0
  else 0

/-- The 8-byte word at an offset of a function's BAR0: PF0 is function 16, VF p function p (R20, R352, R359, R413, R414, R417, R421).
The VF of a partition in NONE shows its capability list alone (R415). -/
def barWord (s : State) (fn off : Nat) : DWord :=
  if off < 0x1000 then capWord s (if fn = 16 then fun _ => true else capOn s fn) off
  else if fn = 16 then
    if 0x40000 ≤ off ∧ off < 0x40000 + 64 * 20 ∧ off % 64 = 0 then linkStat (s.links.getD ((off - 0x40000) / 64) Link.reset)
    else if 0x80000 ≤ off then msixWord s fn (off - 0x80000)
    else 0
  else if (tget s.parts fn).isNone then 0
  else if 0x10000 ≤ off ∧ off < 0x18000 ∧ capOn s fn capNotify = true then mget s.notify (fn * 4096 + (off - 0x10000) / 8)
  else if off = 0x20000 then tailWord s fn
  else if off = 0x20100 then mget s.biasreq fn
  else if off = 0x20200 then mget s.pcerr fn
  else if off = 0x20208 then mget s.pcerrAddr fn
  else if 0x80000 ≤ off then msixWord s fn (off - 0x80000)
  else 0

/-- Whether BAR0 of a function answers a read: PF0's does, a VF's as the TDISP state of its interface says (R416). -/
def barReads (s : State) (fn : Nat) : Bool :=
  decide (fn = 16) || (match (mget s.tdi fn).toNat with
    | 0 => true
    | 3 => false
    | _ => decide (tget s.ide fn = some .secure))

/-- A read of `size` bytes of a function's BAR0 over port H. Within the notify page and at its registers a read has 8 bytes; another
reads 0 there (R352, log 117). -/
def barRead (s : State) (fn off size : Nat) : State :=
  if !(portUp s portH) || decide (16 < fn) || decide (0x100000 < off + size) || !([1, 2, 4, 8].contains size) || decide (off % size ≠ 0) then s
  else
    let w := barWord s fn (off / 8 * 8)
    let x : DWord := if size = 8 then w
      else if 0x10000 ≤ off ∧ off < 0x30000 then 0
      else BitVec.ofNat 64 (w.toNat / 2 ^ (8 * (off % 8)) % 2 ^ (8 * size))
    sendMsg s (.bar fn off (if barReads s fn then x else BitVec.ofNat 64 (2 ^ (8 * size) - 1)))

/-! ## Requests of other nodes (R423 to R427) -/

/-- The fields of a peering entry (R423). -/
def peerV (e : DWord) : Bool := e.getLsbD 63
def peerSNODE (e : DWord) : Nat := e.toNat / 2 ^ 48 % 2 ^ 9
def peerSPART (e : DWord) : Nat := e.toNat / 2 ^ 40 % 16
def peerLPART (e : DWord) : Nat := e.toNat / 2 ^ 32 % 16
def peerLCTX (e : DWord) : Nat := e.toNat % 2 ^ 10

/-- The lowest valid entry that matches a source (R423). -/
def peerFor (s : State) (snode spart : Nat) : Option Nat :=
  (List.range 64).find? (fun i => let e := mget s.peers i
    peerV e && decide (peerSNODE e = snode) && decide (peerSPART e = spart))

/-- A request of another node arrives; without a peering entry, or with the viaduct disabled in LPART, it is REFUSED
(R423, R427). -/
def nodeAccess (s : State) (snode spart : Nat) (addr : DWord) (kind : RKind) (op size : Nat) (mask : BitVec 128)
    (data : BitVec 1024) (a b : BitVec 128) : State :=
  let refused := sendMsg s (.urradAns snode 2 false 0)
  match peerFor s snode spart with
  | none => refused
  | some i =>
    let e := mget s.peers i
    if !(capOn s (peerLPART e) capViaduct) then refused
    else
      acceptIn s { origin := .node snode, part := peerLPART e, ctx := peerLCTX e, cls := 3, node := snode,
                   addr := BitVec.ofNat 64 (509 * 2 ^ 55 + addr.toNat % 2 ^ 55), kind := kind, op := op, size := size, mask := mask,
                   data := data, a := a, b := b, user := false, wcok := true, peer := i }

/-- URRAD_RD (R425, R427). -/
def execUrradRd (snode spart : Nat) (addr : BitVec 64) (size : Nat) (consume : Bool) (s : State) : StepOut :=
  .next (if [1, 2, 4, 8, 16, 128].contains size then
      nodeAccess s snode spart addr (if consume then .rdc else .rd) 0 size 0 0 0 0
    else s)

/-- URRAD_WR: bytes within one line (R425, R427). -/
def execUrradWr (snode spart : Nat) (addr : BitVec 64) (mask : BitVec 128) (data : BitVec 1024) (s : State) : StepOut :=
  .next (nodeAccess s snode spart addr .wr 0 1 mask data 0 0)

/-- URRAD_AMO (R425, R427). -/
def execUrradAmo (snode spart : Nat) (addr : BitVec 64) (op size : Nat) (a b : BitVec 128) (s : State) : StepOut :=
  .next (if [4, 8, 16].contains size then nodeAccess s snode spart addr .amo op size 0 0 a b else s)

/-- URRAD_NTF: a write or an addition to a notify register (R425, R427). -/
def execUrradNtf (snode spart idx : Nat) (add : Bool) (v : BitVec 64) (s : State) : StepOut :=
  .next (if idx < 4096 then
      nodeAccess s snode spart (va509 0 (DA + 0x400000000 + 8 * idx)) .ntf (if add then 0 else 1) 8 0 0 (v.setWidth 128) 0
    else s)

end Sys2Proof.Machine
end

