-- ==== Sys2Proof/Machine/Contexts.lean ====
section
/-! DEFINITION. Contexts: their commands (R370, R371, R374), saving and restoring (R376 to R386), and destruction. -/

namespace Sys2Proof.Machine

/-! ## The record (R369, R370) -/

/-- The code of a context's state (R369). -/
def CtxSt.code : CtxSt → Nat
  | .created => 0 | .loaded => 1 | .running => 2 | .preempting => 3 | .saved => 4 | .restoring => 5 | .faulted => 6 | .destroyed => 7

def setCtx (s : State) (p c : Nat) (x : Ctx) : State := { s with ctxs := tset s.ctxs (p * 1024 + c) x }

/-- Writes STATE, and SCTR and NSEG as the key store has them (R369, R375). -/
def showCtx (s : State) (p c : Nat) : State :=
  match tget s.ctxs (p * 1024 + c) with
  | none => s
  | some x =>
    let old : Nat := match recRead s p x.addr 0 1 with
      | .done w => (w.getD 0 0).toNat
      | _ => 0
    let s := recWrite s p x.addr 0 [BitVec.ofNat 64 (x.dseq.toNat * 2 ^ 32 + old / 2 ^ 8 % 2 ^ 8 * 2 ^ 8 + x.st.code)]
    match tget s.keys (p * 1024 + c) with
    | some k => recWrite s p x.addr 14 [k.ctr, BitVec.ofNat 64 (k.nseg % 2 ^ 32)]
    | none => recWrite s p x.addr 14 [0, 0]

/-- Completes a command: CODE, then DSEQ, then the notify increment (R370). -/
def ctxDone (s : State) (p c code : Nat) : State :=
  match tget s.ctxs (p * 1024 + c) with
  | none => s
  | some x =>
    let s := showCtx (setCtx s p c { x with dseq := x.cseq, cmd := 0, ph := 0 }) p c
    let s := recWrite s p x.addr 0 [BitVec.ofNat 64 (x.cseq.toNat * 2 ^ 32 + code * 2 ^ 8 + x.st.code)]
    if x.nv && capOn s p capNotify then addNotify s p x.nidx 1 else s

/-- CMD and CSEQ as word 1 has them, and the record, when CSEQ has been raised past `seen`. -/
def ctxCommand (s : State) (p : Nat) (x : Ctx) (seen : Word) : Option (Nat × Word × List DWord) :=
  match recRead s p x.addr 1 1 with
  | .done v =>
    let q : Word := BitVec.ofNat 32 ((v.getD 0 0).toNat / 2 ^ 32)
    if q = seen then none
    else match recRead s p x.addr 0 512 with
      | .done w => some ((v.getD 0 0).toNat % 256, q, w)
      | _ => none
  | _ => none

/-- The fields of a record that the device takes over with each command it accepts; PROT at LOAD only (R369). -/
def readCtx (x : Ctx) (w : List DWord) : Ctx :=
  let f (i : Nat) : Nat := (w.getD i 0).toNat
  { x with
    pasid := f 4 % 2 ^ 20, suph := w.getD 5 0, frame := w.getD 6 0, park := w.getD 7 0, npark := f 8 % 2 ^ 32, spark := f 8 / 2 ^ 32,
    ring := w.getD 9 0, swapbase := w.getD 10 0, nswap := f 11 / 2 ^ 32, swapstride := f 11 % 2 ^ 32, saverec := w.getD 12 0,
    restrec := w.getD 13 0, roots := (w.drop 16).take 4 }

/-- A context whose PASID has changed puts a locked or running interface into ERROR (R416). -/
def pasidChange (s : State) (p : Nat) (old new : Ctx) : State :=
  if old.pasid ≠ new.pasid ∧ old.st ≠ .created ∧ (mget s.tdi p = 1 ∨ mget s.tdi p = 2) then { s with tdi := mset s.tdi p 3 } else s

/-- Serves command `k` when software has submitted it: in a state that does not accept it, and for a CMD that is no command,
it completes BADSTATE (R371). Commands wait while the partition is RESIZING (R397). -/
def onCommand (s : State) (p c k : Nat) (ok : CtxSt → Bool) (f : State → Ctx → List DWord → State) : State :=
  match tget s.ctxs (p * 1024 + c), tget s.parts p with
  | some x, some pt =>
    if x.cmd ≠ 0 ∨ pt.st ≠ .active then s
    else
      match ctxCommand s p x x.dseq with
      | none => s
      | some (cmd, q, w) =>
        let x := { x with cseq := q, nv := (w.getD 2 0).getLsbD 12, nidx := (w.getD 2 0).toNat % 4096 }
        if cmd = 0 ∨ 6 < cmd ∨ (cmd = k ∧ ok x.st = false) then ctxDone (setCtx s p c x) p c 1
        else if cmd ≠ k then s
        else
          let x := { x with cmd := k }
          f (setCtx s p c x) x w
  | _, _ => s

/-! ## LOAD, RUN, DRAIN -/

/-- BADREC: a reserved field, an alignment, or a field whose capability is disabled (R21, R371). -/
def badCtxRecord (s : State) (p : Nat) (w : List DWord) : Bool :=
  let f (i : Nat) : Nat := (w.getD i 0).toNat
  let prot := (w.getD 3 0).getLsbD 0
  decide (f 1 / 2 ^ 8 % 2 ^ 24 ≠ 0) || decide (f 2 / 2 ^ 13 ≠ 0) || decide (f 3 / 2 ≠ 0) || decide (f 4 / 2 ^ 20 ≠ 0)
    || (w.drop 52).any (fun x => decide (x ≠ 0))
    || (List.range 8).any (fun k => decide (f (20 + 4 * k) / 2 ^ 4 % 2 ^ 8 ≠ 0) || decide (f (22 + 4 * k) / 2 ^ 4 % 2 ^ 8 ≠ 0))
    || (List.range 4).any (fun d => decide (f (16 + d) % 2 ^ 13 ≠ 0) || decide (f (16 + d) / 2 ^ 55 ≠ 0))
    || decide (f 5 % 4 ≠ 0) || decide (f 6 % 4096 ≠ 0) || decide (f 7 % 4096 ≠ 0) || decide (f 10 % 4096 ≠ 0)
    || decide (f 11 % 4096 ≠ 0)
    || (prot && (decide (f 12 % 128 ≠ 0) || decide (f 13 % 128 ≠ 0) || !(capOn s p capSealed)))
    || ((w.getD 2 0).getLsbD 12 && !(capOn s p capNotify))

/-- CONTEXT_LOAD: the record is checked; a protected context gets its key and counter (R374, R375). -/
def execContextLoad (p c : Nat) (s : State) : StepOut :=
  .next (onCommand s p c 1 (fun st => decide (st = .created)) (fun s x w =>
    if badCtxRecord s p w then ctxDone s p c 2
    else
      let prot := (w.getD 3 0).getLsbD 0
      let s := setCtx s p c { readCtx x w with st := .loaded, prot := prot }
      ctxDone (if prot then
          { s with keys := tset s.keys (p * 1024 + c) { key := Config.randomKey s.clock, ctr := 0, nseg := 0, refusals := 0 } }
        else s) p c 0))

/-- CONTEXT_RUN: the dispatcher serves the context's queues (R374). -/
def execContextRun (p c : Nat) (s : State) : StepOut :=
  .next (onCommand s p c 2 (fun st => decide (st = .loaded)) (fun s x w =>
    ctxDone (pasidChange (setCtx s p c { readCtx x w with st := .running }) p x (readCtx x w)) p c 0))

/-- Writes the free frames of one pool to its return ring while there is room; the answer says whether a ring's page holds it up
(R218, R225, R372). -/
def drainPool (s : State) (p c k : Nat) : State × DevRes Unit :=
  match tget s.ctxs (p * 1024 + c) with
  | none => (s, .done ())
  | some cx =>
    match recRead s p cx.addr (20 + 4 * k) 4 with
    | .done w =>
      let rq : Req := { part := p, ctx := c, user := false }
      let mine (f : Frame) : Bool := f.free && decide (f.die = k / 2) && (f.br == decide (k % 2 = 1))
      let (s, q, kept, held) := cx.frames.foldl (fun (acc : State × Pool × List Frame × DevRes Unit) f =>
        let (s, q, kept, held) := acc
        if mine f && q.room then
          match held, poolReturn s rq q (frameValue f.die f.num ||| BitVec.ofNat 64 f.size) with
          | .done _, .done (s, q) => (s, q, kept, .done ())
          | .done _, .s2 d ia => (s, q, kept ++ [f], .s2 d ia)
          | .done _, .wait => (s, q, kept ++ [f], .wait)
          | h, _ => (s, q, kept ++ [f], h)
        else (s, q, kept ++ [f], held)) (s, readPool w, [], .done ())
      let s := { s with ctxs := tmod s.ctxs (p * 1024 + c) (fun x => { x with frames := kept }) }
      (recWrite s p cx.addr (20 + 4 * k + 3) [BitVec.ofNat 64 (q.rin * 2 ^ 32 + q.rout)], held)
    | .failed _ => (s, .done ())
    | .s2 d ia => (s, .s2 d ia)
    | .wait => (s, .wait)

/-- All pools of a context, each as far as it goes. -/
def drainPools (s : State) (p c : Nat) : State × DevRes Unit :=
  (List.range 8).foldl (fun acc k =>
    let (s, h) := drainPool acc.1 p c k
    (s, acc.2.andThen (fun _ => h))) (s, .done ())

/-- CONTEXT_DRAIN: the command goes on later while the page of a ring is not to be had (R218, R225, R372). -/
def execContextDrain (p c : Nat) (s : State) : StepOut :=
  .next (onCommand s p c 5 (fun st => decide (st ≠ .destroyed)) (fun s x _ =>
    let (s, h) := drainPools s p c
    if h.waits s p then setCtx (waitFor s p h) p c { (tget s.ctxs (p * 1024 + c)).getD x with cmd := 0 } else ctxDone s p c 0))

/-! ## DESTROY (R374) -/

/-- The queues of a context that are not OFF. -/
def queuesOf (s : State) (p c : Nat) : List Nat :=
  (s.queues.filter (fun q => decide (q.1 / 256 = p) && decide (q.2.ctx = c) && decide (q.2.st ≠ .off))).map (fun q => q.1 % 256)

/-- The blocks of a context, but for those of save and restore grids. -/
def blocksOf (s : State) (p c : Nat) : List (Nat × Block) :=
  s.blocks.filter (fun b => decide (b.2.part = p) && decide (b.2.ctx = c) && !b.2.service)

/-- Everything of a context ends. Status words that waited for a flip are written first; what cannot be written any more is dropped,
and its increment follows (R124). Its queues go OFF, its grids are KILLED, its groups are discarded, its operators unbind,
its pools are drained, its frames are given back, and K and C are erased (R374). -/
def destroyCtx (s : State) (p c : Nat) : State :=
  match tget s.ctxs (p * 1024 + c) with
  | none => s
  | some x0 =>
    if x0.st = .destroyed then s
    else
      let s := (queuesOf s p c).foldl (fun s q => queueOff s p q) s
      let tops := (s.grids.filter (fun g => decide (g.2.part = p) && decide (g.2.ctx = c) && (match g.2.src with
        | .child _ _ _ => false
        | _ => true))).map Prod.fst
      let s := tops.foldl (fun s n => stopAndEnd gridFuel s n .killed 9 0 0 0) s
      let s := (drainPools s p c).1
      let s := pumpPosts { s with flips := s.flips.filter (fun f => !(decide (f.2.part = p) && decide (f.2.ctx = c))) }
      let s := { s with
        grids := s.grids.filter (fun g => !(decide (g.2.part = p) && decide (g.2.ctx = c)))
        svcreqs := s.svcreqs.filter (fun r => !(decide (r.2.part = p) && decide (r.2.ctx = c)))
        stale := s.stale.filter (fun f => !(decide (f.part = p) && decide (f.ctx = c)))
        keys := tdel s.keys (p * 1024 + c)
        ctxs := tmod s.ctxs (p * 1024 + c) (fun x => { x with st := .destroyed, stopped := false, sgrid := none, checks := [], frames := [], ph := 0 }) }
      showCtx (revokeIn (pumpBias (pumpPosts s)) (fun r => decide (r.part = p) && decide (r.ctx = c))) p c

/-- CONTEXT_DESTROY: performed at once; a command in progress ends ABORTED (R370, R374). -/
def execContextDestroy (p c : Nat) (s : State) : StepOut :=
  .next (match tget s.ctxs (p * 1024 + c), tget s.parts p with
    | some x, some pt =>
      if pt.st ≠ .active then s
      else
        match ctxCommand s p x (if x.cmd = 0 then x.dseq else x.cseq) with
        | some (6, q, w) =>
          let s := if x.cmd ≠ 0 then ctxDone s p c 8 else s
          (match tget s.ctxs (p * 1024 + c) with
            | none => s
            | some x =>
              let y := { x with cmd := 6, cseq := q, nv := (w.getD 2 0).getLsbD 12, nidx := (w.getD 2 0).toNat % 4096 }
              let s := setCtx s p c y
              if x.st = .destroyed then ctxDone s p c 1 else ctxDone (destroyCtx s p c) p c 0)
        | _ => s
    | _, _ => s)

/-! ## Operator records (R382) -/

/-- The descriptor of an operator as bound, with DECK and SCALES as offsets in the allocation (R292, R382). -/
def descWords (o : Oper) (base : Nat) : List DWord :=
  let b (x : Bool) (k : Nat) : Nat := if x then 2 ^ k else 0
  [BitVec.ofNat 64 (o.deck - base), BitVec.ofNat 64 ((o.s - 1) * 2 ^ 36 + (o.w - 1) * 2 ^ 32 + o.n * 2 ^ 16 + o.k),
   BitVec.ofNat 64 (o.prio * 2 ^ 6 + b o.scale.isSome 5 + b o.zeroabs 4 + b o.overwrite 3 + b o.raw 2 + b o.readable 1 + b o.trans 0),
   BitVec.ofNat 64 (match o.scale with
     | some a => a - base
     | none => 0), 0, 0, 0, 0]

/-- Bytes rounded up to 16. -/
def up16 (n : Nat) : Nat := (n + 15) / 16 * 16

/-- The bytes of an entry in a record: its state, fill map, staged bytes and result. -/
def entrySize (o : Oper) : Nat := 16 + up16 ((opIES o + 7) / 8) + opIES o + opRES o

/-- The words of an entry. -/
def entryImage (o : Oper) (e : Entry) : List DWord :=
  let m := up16 ((opIES o + 7) / 8)
  let bit (i : Nat) : Nat := (List.range 8).foldl (fun a k => if e.fill.contains (8 * i + k) then a + 2 ^ k else a) 0
  [BitVec.ofNat 64 (entryCode e), 0] ++ packBytes bit (m / 8) ++ packBytes (fun i => (mget e.staged i).toNat) (opIES o / 8)
    ++ packBytes (fun i => (mget e.result i).toNat) (opRES o / 8)

/-- The record of an operator, or of a whole truss (R382). -/
def operWords (b : Block) (key : Nat) (o : Oper) : List DWord :=
  let n := 0x100 + o.w * o.s * entrySize o
  let v := b.vcores.getD o.wg 0
  pad128 ([BitVec.ofNat 64 ((handleOf v (key % 64) o.reuse).toNat * 2 ^ 32 + (if o.split then 2 ^ 8 else 0) + (o.members.length - 1) * 2 ^ 4 + o.fslot),
      BitVec.ofNat 64 ((n + 127) / 128 * 128), 0, 0, 0, 0, 0, 0]
    ++ descWords o (b.spadOff.getD o.wg 0)
    ++ (List.range 16).map (fun i => o.grants.getD i 0)
    ++ (List.range (o.w * o.s)).flatMap (fun i => entryImage o (entryOf o i)))

/-- The operators of a block by ascending handle index, members of a truss with its root. -/
def opersOf (s : State) (bid : Nat) : List (Nat × Oper) :=
  tvals ((s.ops.filter (fun o => decide (o.2.blk = bid) && o.2.root.isNone)).foldl
    (fun (t : Tbl (Nat × Oper)) o => tset t (o.1 % 64 * 512 + o.1 / 64 % 512) o) [])

/-- A block's operators under other keys. -/
def rekeyOps (s : State) (bid : Nat) (f : Oper → Nat → Nat) : State :=
  let key (k : Nat) : Nat := match tget s.ops k with
    | some o => f o k
    | none => k
  { s with ops := s.ops.foldl (fun (t : Tbl Oper) o =>
      if o.2.blk = bid then tset t (key o.1) { o.2 with root := o.2.root.map key, members := o.2.members.map key } else tset t o.1 o.2) [] }

/-- Sets a block's operators aside through SAVED: their handle indices are given up (R376 step 5; log 85). -/
def setOpsAside (s : State) (bid : Nat) : State := rekeyOps s bid (fun _ k => k % 2 ^ 15 + 2 ^ 15 * (bid + 1))

/-- Where an operator of a block stands again: its index on the core that its workgroup is on now. -/
def opHome (s : State) (b : Block) (o : Oper) (k : Nat) : Nat := wgCore s b o.wg * 64 + k % 64

/-- The number and the words of a block's operator records. -/
def operRecords (s : State) (bid : Nat) (b : Block) : Nat × List DWord :=
  let l := opersOf s bid
  (l.length, l.flatMap (fun o => operWords b o.1 o.2))

/-- An entry read back. -/
def readEntryImage (o : Oper) (w : List DWord) : Entry :=
  let m := up16 ((opIES o + 7) / 8)
  let byte (i : Nat) : Nat := (w.getD (i / 8) 0).toNat / 2 ^ (8 * (i % 8)) % 256
  { q := 0, r := decide ((w.getD 0 0).toNat % 4 = 3), fill := (List.range (opUb o)).filter (fun i => (byte (16 + i / 8)).testBit (i % 8)),
    staged := (List.range (opIES o)).foldl (fun t i => mset t i (BitVec.ofNat 8 (byte (16 + m + i)))) [],
    result := (List.range (opRES o)).foldl (fun t i => mset t i (BitVec.ofNat 8 (byte (16 + m + opIES o + i)))) [] }

/-- Writes an operator back from its record and returns it to BOUND (R297, R386). A record that names no handle the block
holds changes nothing. -/
def readOper (s : State) (bid : Nat) (b : Block) (w : List DWord) : State :=
  let h := (w.getD 0 0).toNat / 2 ^ 32 % 2 ^ 16
  match (opersOf s bid).find? (fun o => decide ((handleOf (b.vcores.getD o.2.wg 0) (o.1 % 64) o.2.reuse).toNat = h)) with
  | none => s
  | some (key, o) =>
    let base := b.spadOff.getD o.wg 0
    let d := readODesc (w.drop 8)
    let fs := (w.getD 0 0).toNat % 8
    let o := { o with
      deck := base + d.deck.toNat, k := d.k, n := d.n, w := d.w, s := d.s, prio := d.prio, zeroabs := d.zeroabs, overwrite := d.overwrite,
      raw := d.raw, readable := d.readable, trans := d.trans, scale := if d.scale then some (base + d.scales.toNat) else none,
      fslot := fs, slot := (b.slots.drop (8 * fs)).take 8, grants := (w.drop 16).take d.w }
    let n := entrySize o / 8
    let o := { o with entries := (List.range (o.w * o.s)).foldl (fun t i =>
      let e := readEntryImage o (w.drop (32 + n * i))
      if e = Entry.empty then t else tset t i e) [] }
    opSetSt { s with ops := tset s.ops key o } key .bound

/-- Reads operator records one after the other. -/
def readOpers : Nat → State → Nat → Block → List DWord → State
  | 0, s, _, _, _ => s
  | n + 1, s, bid, b, w =>
    let k := max 1 ((w.getD 1 0).toNat / 8)
    readOpers n (readOper s bid b (w.take k)) bid b (w.drop k)

/-! ## SAVE (R376 to R379) -/

/-- CONTEXT_SAVE: the context is not served any more, and its groups stop (R374, R376 steps 1 and 2). -/
def execContextSave (p c : Nat) (s : State) : StepOut :=
  .next (onCommand s p c 3 (fun st => decide (st = .loaded) || decide (st = .running) || decide (st = .faulted)) (fun s x w =>
    let full := x.prot && (match tget s.keys (p * 1024 + c) with
      | some k => decide (k.ctr = BitVec.allOnes 64)
      | none => false)
    if full then ctxDone s p c 1
    else
      let s := pasidChange (setCtx s p c { readCtx x w with st := .preempting, before := x.st, stopped := true, ph := 1 }) p x (readCtx x w)
      let s := (queuesOf s p c).foldl (fun s q =>
        let t := dropHead s p q
        match tget t.queues (p * 256 + q) with
        | some y => if y.st = .blocked && y.grid.isNone then setQueue t p q (fun y => { y with st := .active }) else t
        | none => t) s
      showCtx { s with blocks := s.blocks.map (fun b => if b.2.part = p ∧ b.2.ctx = c then (b.1, { b.2 with stop := true }) else b) } p c))

/-- The engine operations that a group's slots are stalled for; they have not issued. -/
def stalledEngines (g : Group) : List Nat :=
  let f (sl : Slot) : List Nat := match sl.wait with
    | .engine id => [id]
    | _ => []
  f g.a ++ f g.b

/-- Whether everything of a context has drained (R376 step 2). -/
def ctxQuiet (s : State) (p c : Nat) : Bool :=
  let gs := (blocksOf s p c).flatMap (fun b => groupsOf s b.1)
  let stalled := gs.flatMap (fun g => stalledEngines g.2)
  gs.all (fun g => ldStZero g.2 && decide (g.2.posted = 0) && decide (g.2.st ≠ .exiting))
    && s.copies.all (fun x => decide (x.2.part ≠ p) || decide (x.2.ctx ≠ c) || stalled.contains x.1)
    && s.nbcmds.all (fun x => decide (x.2.part ≠ p) || decide (x.2.ctx ≠ c) || stalled.contains x.1)
    && s.passes.all (fun x => match tget s.ops x.2.op with
      | some o => decide (o.part ≠ p) || decide (o.ctx ≠ c)
      | none => true)

/-- The bytes of a block's slot image. -/
def imageBytes (s : State) (bid : Nat) (b : Block) : Nat := 128 + 8 * (imageBody s b (operRecords s bid b).2).length

/-- Whether every page of a range is writable at its owner, or a second-stage entry is missing (R251, R378). -/
def pagesOk (s : State) (rq : Req) (a : DWord) (n : Nat) : DevRes Unit :=
  (List.range ((n + 4095) / 4096)).foldl (fun (acc : DevRes Unit) i =>
    match acc with
    | .done _ =>
      (match devTargets s rq .store (a + BitVec.ofNat 64 (4096 * i)) 1 with
        | .done _ => .done ()
        | .failed x => .failed x
        | .s2 d ia => if s2Refused s rq.part d ia then .failed a else .s2 d ia
        | .wait => .wait)
    | e => e) (.done ())

/-- The check of R378 on every block, and the second stage of what will be written. -/
def saveCheck (s : State) (p c : Nat) (cx : Ctx) : DevRes Unit :=
  let rq : Req := { part := p, ctx := c, user := false }
  (blocksOf s p c).foldl (fun (acc : DevRes Unit) b =>
    match acc with
    | .done _ =>
      if cx.nswap ≤ swapIndex s b.1 ∨ cx.swapstride < imageBytes s b.1 b.2 then .failed 0
      else
        match pagesOk s rq (swapAddr s cx b.1) (imageBytes s b.1 b.2) with
        | .done _ =>
          (groupsOf s b.1).foldl (fun (acc : DevRes Unit) g =>
            match acc, pagesOk s rq (parkAddr cx g.2) 18432 with
            | .done _, .s2 d ia => .s2 d ia
            | .done _, .wait => .wait
            | e, _ => e) (.done ())
        | e => e
    | e => e) (.done ())

/-- A group's slot in a monitored WATCH, as a save parks it: at the WATCH again, or after it with the captured value
(R377). -/
def unwatch (b : Block) (g : Group) : Group :=
  let side := if (match g.a.wait with
    | .watchMon _ _ => true
    | _ => false) then 0 else 1
  match (slotOf g side).wait with
  | .watchMon d id =>
    (match (tget b.mons id).bind (fun m => m.cap) with
      | some v => setSlot (setSreg g d v) side (advance (slotOf g side))
      | none => setSlot g side { slotOf g side with wait := .none })
  | _ => g

/-- The same for a group whose slots stand in its park area already. -/
def unwatchParked (s : State) (rq : Req) (cx : Ctx) (b : Block) (gid : Nat) (g : Group) : State :=
  match g.susp.find? (fun x => decide (x.1 = 0) && (match x.2.2.2 with
      | .watchMon _ _ => true
      | _ => false)) with
  | some (_, side, pc, .watchMon d id) =>
    let at_ := parkAddr cx g
    let k := at_ + BitVec.ofNat 64 (64 + 32 * side)
    let s := setGroup s gid { g with susp := g.susp.filter (fun x => !(decide (x.1 = 0) && decide (x.2.1 = side))) }
    (match devRead s rq k 2 with
      | .done w =>
        let flags := w.getD 1 0 &&& ~~~0x10000000#64
        let put (s : State) (a : DWord) (x : List DWord) : State := match devWrite s rq a x with
          | .done s => s
          | _ => s
        (match (tget b.mons id).bind (fun m => m.cap) with
          | some v => put (put s k [pc + 4, flags]) (at_ + BitVec.ofNat 64 (128 + 8 * (d % 24))) (if d < 24 then [v] else [])
          | none => put s k [pc, flags])
      | _ => s)
  | _ => s

/-- Parks every group of a block for a save (R377), writes its slot image (R378) and releases what it holds (R376 steps 4
and 5). -/
def saveBlock (s : State) (p c : Nat) (cx : Ctx) (bid : Nat) : State :=
  match tget s.blocks bid with
  | none => s
  | some b =>
    let rq : Req := { part := p, ctx := c, user := false }
    let s := (groupsOf s bid).foldl (fun s g =>
      match g.2.st with
      | .resident =>
        let s := cancelEngine (cancelEngine s g.2.a) g.2.b
        let un (sl : Slot) : Slot := match sl.wait with
          | .engine _ => { sl with wait := .none }
          | _ => sl
        let x := unwatch b g.2
        setGroup s g.1 { x with a := un x.a, b := un x.b }
      | .parked => unwatchParked s rq cx b g.1 g.2
      | _ => s) s
    let (n, ops) := operRecords s bid b
    let s := setBlock s bid { b with mons := [] }
    let s := if b.swapped then s else leaveCores s bid n ops
    let s := setOpsAside s bid
    { s with blocks := tmod s.blocks bid (fun b => { b with swapped := true, released := true, claimed := false, stop := false, marked := none }) }

/-- Whether the launch record of a save or restore grid must be waited for (R218, R225). -/
def serviceRecord (s : State) (p c : Nat) (addr : DWord) : DevRes Unit :=
  (devRead s { part := p, ctx := c, user := false } addr 16).andThen (fun _ => .done ())

/-- Reads the launch record of a save or restore grid and makes the grid ELIGIBLE; a record that cannot be read launches
none (R383). -/
def launchService (s : State) (p c : Nat) (addr : DWord) (restore : Bool) : Option State :=
  match devRead s { part := p, ctx := c, user := false } addr 16 with
  | .done w =>
    let (n, s) := newGrid s p c (.device restore) addr w 1
    let s := { s with grids := tmod s.grids n (fun g => { g with st := .eligible }) }
    some { s with ctxs := tmod s.ctxs (p * 1024 + c) (fun x => { x with sgrid := some n, checks := [], ph := 2 }) }
  | _ => none

/-- Zero over every trap frame and park area of a context, by park index, and every slot image (R383). -/
def zeroSaved (s : State) (p c : Nat) (cx : Ctx) : State :=
  let rq : Req := { part := p, ctx := c, user := false }
  let put (s : State) (a : DWord) (n : Nat) : State :=
    (List.range (n / 8)).foldl (fun s i => devPost s rq (a + BitVec.ofNat 64 (8 * i)) [0] none) s
  let s := (List.range (cx.npark + cx.spark)).foldl (fun s i =>
    put (put s (cx.frame + BitVec.ofNat 64 (i * 4096)) 4096) (cx.park + BitVec.ofNat 64 (i * 18432)) 18432) s
  (blocksOf s p c).foldl (fun s b => put s (swapAddr s cx b.1) (imageBytes s b.1 b.2)) s

/-- The end of a save without a grid, or with one that failed or met R385. -/
def saveEnds (s : State) (p c : Nat) (st : CtxSt) (code : Nat) : State :=
  ctxDone { s with ctxs := tmod s.ctxs (p * 1024 + c) (fun x => { x with st := st, sgrid := none, checks := [] }) } p c code

/-- SAVE_QUIESCED: step 2 of R376 is over; the check of R378 is made, and steps 3 to 6 follow (R374). -/
def execSaveQuiesced (p c : Nat) (s : State) : StepOut :=
  .next (match tget s.ctxs (p * 1024 + c) with
    | none => s
    | some cx =>
      if cx.st ≠ .preempting ∨ cx.ph ≠ 1 then s
      else
        let s := (blocksOf s p c).foldl (fun s b => drainBlock s b.1) s
        if !(ctxQuiet s p c) then s
        else
          match saveCheck s p c cx with
          | .s2 d ia => signalS2 s p d ia
          | .wait => s
          | .failed _ =>
            let s := setCtx s p c { cx with st := cx.before, stopped := false }
            ctxDone { s with blocks := s.blocks.map (fun b => if b.2.part = p ∧ b.2.ctx = c then (b.1, { b.2 with stop := false }) else b) } p c 3
          | .done _ =>
            let rec_ := serviceRecord s p c cx.saverec
            if cx.prot && rec_.waits s p then waitFor s p rec_
            else
            let s := if cx.prot then
                { s with keys := tmod s.keys (p * 1024 + c) (fun k => { k with ctr := k.ctr + 1 }) } else s
            let bs := blocksOf s p c
            let s := bs.foldl (fun s b => (opersOf s b.1).foldl (fun s o => if o.2.st = .bound then opSetSt s o.1 .suspended else s) s) s
            let s := bs.foldl (fun s b => saveBlock s p c cx b.1) s
            if cx.prot then
              match launchService (showCtx s p c) p c cx.saverec false with
              | some s => s
              | none => saveEnds s p c .faulted 7
            else saveEnds s p c .saved 0)

/-- How the groups of a save or restore grid ended: per segment the codes recorded (R385, R386). -/
def segCodes (cx : Ctx) (seg : Nat) : List Nat := (cx.checks.filter (fun x => decide (x.1 = seg) && decide (x.2 ≠ 16))).map Prod.snd

/-- The number of groups that a save or restore grid placed. -/
def segPlaced (cx : Ctx) : Nat := (cx.checks.filter (fun x => decide (x.2 = 16))).length

/-- The final state of a context's save or restore grid, if it has one. -/
def serviceEnd (s : State) (cx : Ctx) : Option (Nat × Grid) :=
  match cx.sgrid with
  | none => none
  | some n => match tget s.grids n with
    | some g => if [.done, .refused, .faulted, .killed].contains g.st then some (n, g) else none
    | none => none

/-- SAVE_GRID_END: the save completes when its grid is DONE and every group executed SEALFIN once (R374, R383, R385). -/
def execSaveGridEnd (p c : Nat) (s : State) : StepOut :=
  .next (match tget s.ctxs (p * 1024 + c) with
    | none => s
    | some cx =>
      match serviceEnd s cx with
      | none => s
      | some (n, g) =>
        if cx.st ≠ .preempting then s
        else
          let s := { s with grids := tdel s.grids n }
          let k := segPlaced cx
          if g.st = .done && (List.range k).all (fun i => decide (segCodes cx i = [0])) then
            let s := { s with keys := tmod s.keys (p * 1024 + c) (fun x => { x with nseg := k }) }
            saveEnds (zeroSaved s p c cx) p c .saved 0
          else saveEnds s p c .faulted 7)

/-! ## RESTORE (R386) -/

/-- Whether the claims of a block are free: its scratchpad where it was, its reservations, and the indices of its operators
(R386 step 1). -/
def claimFree (s : State) (bid : Nat) (b : Block) : Bool :=
  let e := some bid
  (List.range b.vcores.length).all (fun i =>
    let k := wgCore s b i
    decide (k < 512)
      && (decide ((variantOf b).spad = 0) || intervalFree (spadUsed s k e) (b.spadOff.getD i 0) (variantOf b).spad)
      && decide (ophndUsed s k e + b.ophnd * wgsOn s b k ≤ 64) && decide (itemqUsed s k e + b.itemq * wgsOn s b k ≤ 4096)
      && decide (rlocksUsed s (k / 128) e + b.rlocks * b.vcores.length ≤ 256))
    && decide (barsUsed s (wgCore s b 0) e + b.bars.length ≤ 64)
    && (monDies s b.part).all (fun d => decide (monsUsed s d e + b.monitors ≤ 8192))
    && s.ops.all (fun o => decide (o.2.blk ≠ bid) || (tget s.ops (opHome s b o.2 o.1)).isNone)

/-- Claims what is free, block by block. -/
def claimAll (s : State) (p c : Nat) : State :=
  (blocksOf s p c).foldl (fun s b =>
    if b.2.released && claimFree s b.1 b.2 then
      rekeyOps (setBlock s b.1 { b.2 with released := false, claimed := true, mdies := monDies s b.2.part }) b.1 (opHome s b.2)
    else s) s

/-- Ends a restore that is refused: no block is placed and no reservation held (R374, R386). -/
def restoreRefused (s : State) (p c code : Nat) : State :=
  match tget s.ctxs (p * 1024 + c) with
  | none => s
  | some cx =>
    let s := (blocksOf s p c).foldl (fun s b => setOpsAside s b.1) s
    let s := { s with blocks := s.blocks.map (fun b =>
      if b.2.part = p ∧ b.2.ctx = c then (b.1, { b.2 with released := true, claimed := false }) else b) }
    let s := if cx.prot then zeroSaved s p c cx else s
    let s := if code = 5 then
        logError { s with keys := tmod s.keys (p * 1024 + c) (fun k => { k with refusals := k.refusals + 1 }) } 6 1 p 0 0 c 0
      else s
    saveEnds s p c .saved code

/-- Reads the rest of a block's image: barriers, item queues and operators (R381, R382, R386 step 3). -/
def readImage (s : State) (bid : Nat) (b : Block) (cx : Ctx) : DevRes State :=
  let rq : Req := { part := b.part, ctx := b.ctx, user := false }
  let a := swapAddr s cx bid
  match devRead s rq a 16 with
  | .failed x => .failed x
  | .s2 d ia => .s2 d ia
  | .wait => .wait
  | .done h =>
    let size := min (h.getD 0 0).toNat cx.swapstride / 8
    match devRead s rq a size with
    | .failed x => .failed x
    | .s2 d ia => .s2 d ia
    | .wait => .wait
    | .done w =>
      let nb := b.bars.length
      let items := if b.itemq = 0 then 0 else (b.itemq + 16) / 16 * 16
      let wgs := b.vcores.length
      let q (i : Nat) : List (Word × Word) :=
        let r := w.drop (16 + 16 * nb + i * items)
        (List.range (min (r.getD 0 0).toNat b.itemq)).map (fun j =>
          (BitVec.ofNat 32 (r.getD (1 + j) 0).toNat, BitVec.ofNat 32 ((r.getD (1 + j) 0).toNat / 2 ^ 32)))
      let b := { b with
        bars := (List.range nb).map (fun i => readBar (w.drop (16 + 16 * i))),
        items := (List.range wgs).map (fun i => if b.itemq = 0 then [] else q i) }
      let (_, o) := imageOffsets b (wgs - 1)
      let tail := w.drop ((o + (variantOf b).spad + 127) / 128 * 16)
      .done (readOpers ((h.getD 3 0).toNat / 2 ^ 32 % 256) (setBlock s bid b) bid b tail)

/-- Step 3 of R386 once the slots of every block are free: everything is read back and the groups resume. -/
def restoreFinish (s : State) (p c : Nat) : State :=
  match tget s.ctxs (p * 1024 + c) with
  | none => s
  | some cx =>
    let bs := blocksOf s p c
    if bs.all (fun b => b.2.swapped && !(returnFits s b.1 b.2 [])) && !bs.isEmpty then s
    else
      let one (s : State) (b : Nat × Block) : State :=
        match readImage s b.1 b.2 cx with
        | .failed _ => blockFatal s b.1
        | .s2 d ia => signalS2 s p d ia
        | .wait => s
        | .done s => match tget s.blocks b.1 with
          | some x => returnBlock s b.1 x
          | none => s
      let t := bs.foldl (fun s b => match tget s.blocks b.1 with
        | some x => if x.swapped && returnFits s b.1 x [] then one s (b.1, x) else s
        | none => s) s
      if (blocksOf t p c).any (fun b => b.2.swapped) then t
      else
        let t := { t with keys := tmod t.keys (p * 1024 + c) (fun k => { k with refusals := 0 }) }
        pumpIn (ctxDone { t with ctxs := tmod t.ctxs (p * 1024 + c) (fun x =>
          { x with st := .running, stopped := false, sgrid := none, checks := [] }) } p c 0)

/-- A restore goes on: claims, then the restore grid of a protected context, then step 3. -/
def restoreGo (s : State) (p c : Nat) : State :=
  match tget s.ctxs (p * 1024 + c) with
  | none => s
  | some cx =>
    if cx.st ≠ .restoring then s
    else if cx.ph = 1 then
      let s := claimAll s p c
      if (blocksOf s p c).any (fun b => b.2.released) then s
      else if cx.prot && (serviceRecord s p c cx.restrec).waits s p then waitFor s p (serviceRecord s p c cx.restrec)
      else if cx.prot then
        match launchService s p c cx.restrec true with
        | some s => s
        | none => restoreRefused s p c 7
      else restoreFinish (setCtx s p c { cx with ph := 3 }) p c
    else if cx.ph = 3 then restoreFinish s p c
    else s

/-- CONTEXT_RESTORE: the restore begins, or goes on while claims or slots were occupied (R386). -/
def execContextRestore (p c : Nat) (s : State) : StepOut :=
  .next (match tget s.ctxs (p * 1024 + c) with
    | none => s
    | some cx =>
      if cx.st = .restoring then restoreGo s p c
      else
        onCommand s p c 4 (fun st => decide (st = .saved)) (fun s x w =>
          restoreGo (showCtx (pasidChange (setCtx s p c { readCtx x w with st := .restoring, ph := 1 }) p x (readCtx x w)) p c) p c))

/-- The code with which R386 refuses a restore after its grid, 0 for none. -/
def restoreCode (cx : Ctx) (g : Grid) (nseg : Nat) : Nat :=
  if g.st ≠ .done then 7
  else if (List.range nseg).any (fun i => decide ((segCodes cx i).length ≠ 1)) then 6
  else
    match ((List.range nseg).map (fun i => (segCodes cx i).headD 0)).find? (fun k => decide (k ≠ 0)) with
    | some 1 => 4
    | some 2 => 6
    | some _ => 5
    | none => 0

/-- RESTORE_GRID_END: the restore is refused, or goes on to step 3 (R386). -/
def execRestoreGridEnd (p c : Nat) (s : State) : StepOut :=
  .next (match tget s.ctxs (p * 1024 + c) with
    | none => s
    | some cx =>
      match serviceEnd s cx with
      | none => s
      | some (n, g) =>
        if cx.st ≠ .restoring ∨ cx.ph ≠ 2 then s
        else
          let s := { s with grids := tdel s.grids n }
          let nseg : Nat := match tget s.keys (p * 1024 + c) with
            | some k => k.nseg
            | none => 0
          match restoreCode cx g nseg with
          | 0 => restoreGo (setCtx s p c { cx with ph := 3, sgrid := none }) p c
          | k => restoreRefused s p c k)

end Sys2Proof.Machine
end

