-- ==== Sys2Proof/Machine/Copy.lean ====
section
/-! DEFINITION. The copy engine: CPY and CPYB (R182 to R187), range locks (R188, R189), and the steps of a copy. -/

namespace Sys2Proof.Machine

/-! ## Tensor records (R82, R183) -/

/-- A tensor record, with unused dimensions of size 1 and stride 0. `unit` is the byte size of what is copied at
once: one element, or two of a 4-bit format. -/
structure TRec where
  base : DWord
  rot : Bool
  swz : Nat
  dims : Nat
  efmt : Nat
  seed : DWord
  size : List Nat
  stride : List Int
deriving DecidableEq, Repr

def trec (w : List DWord) : TRec :=
  let x := w.getD 1 0
  let n := x.toNat / 16 % 4 + 1
  let sz (i : Nat) : Nat := if i < n then (w.getD (3 + i / 2) 0).toNat / 2 ^ (32 * (i % 2)) % 2 ^ 32 else 1
  { base := w.getD 0 0, rot := x.getLsbD 9, swz := x.toNat / 64 % 8, dims := n, efmt := x.toNat % 16, seed := w.getD 2 0,
    size := (List.range 4).map sz,
    stride := (List.range 3).map (fun i => if i + 1 < n then (w.getD (5 + i) 0).toInt else 0) }

/-- Elements copied at once, and their bytes (R183). -/
def TRec.per (r : TRec) : Nat := if codeBits r.efmt = 4 then 2 else 1
def TRec.unit (r : TRec) : Nat := codeBits r.efmt * r.per / 8

/-- Units in a row and in all, and elements in all. -/
def TRec.row (r : TRec) : Nat := r.size.getD 0 1 / r.per
def TRec.units (r : TRec) : Nat := r.row * r.size.getD 1 1 * r.size.getD 2 1 * r.size.getD 3 1
def TRec.elems (r : TRec) : Nat := r.units * r.per

/-- The offset of unit `i` from BASE (R183). -/
def TRec.offset (r : TRec) (i : Nat) : Int :=
  let j := i / r.row
  Int.ofNat (i % r.row * r.unit)
    + Int.ofNat (j % r.size.getD 1 1) * r.stride.getD 0 0
    + Int.ofNat (j / r.size.getD 1 1 % r.size.getD 2 1) * r.stride.getD 1 0
    + Int.ofNat (j / r.size.getD 1 1 / r.size.getD 2 1) * r.stride.getD 2 0

/-- The address of unit `i`. -/
def TRec.addr (r : TRec) (i : Nat) : DWord := r.base + BitVec.ofInt 64 (r.offset i)

/-- The record with its addresses in node-509 form (R165). -/
def TRec.here (s : State) (r : TRec) : TRec := { r with base := ownVa s r.base }

/-- The lowest and the highest byte a record names, relative to BASE (R183). -/
def TRec.span (r : TRec) : Int × Int :=
  (List.range 3).foldl (fun a k =>
    let d := Int.ofNat (r.size.getD (k + 1) 1 - 1) * r.stride.getD k 0
    if d < 0 then (a.1 + d, a.2) else (a.1, a.2 + d)) (0, Int.ofNat (r.row * r.unit) - 1)

/-- The footprint as an interval of addresses. -/
def TRec.foot (r : TRec) : Nat × Nat :=
  ((r.base + BitVec.ofInt 64 r.span.1).toNat, (r.base + BitVec.ofInt 64 r.span.2).toNat)

/-- Whether a record is accepted (R183). -/
def recOk (w : List DWord) : Bool :=
  let r := trec w
  decide ((w.getD 1 0).toNat / 2 ^ 10 = 0) && decide (r.efmt ≤ 8)
    && decide (r.base.toNat % r.unit = 0) && r.stride.all (fun d => decide (d % Int.ofNat r.unit = 0))
    && r.size.all (fun n => decide (n ≠ 0)) && decide (r.size.getD 0 1 % r.per = 0)
    && (!r.rot || decide (r.size.getD 0 1 % 64 = 0))
    && decide (r.span.2 - r.span.1 + 1 < 2 ^ 40)

/-- Whether two records describe the same shape (R183). -/
def sameShape (a b : TRec) : Bool :=
  decide (a.dims = b.dims) && decide (a.size = b.size) && decide (a.efmt = b.efmt) && decide (a.rot = b.rot)
    && (!a.rot || decide (a.seed = b.seed))

/-- Whether two footprints overlap. -/
def footsMeet (a b : TRec) : Bool := decide (a.foot.1 ≤ b.foot.2) && decide (b.foot.1 ≤ a.foot.2)

/-! ## Range locks (R188, R189) -/

/-- The parts of an interval of addresses that can be locked: those on this module and in no window (R188, R295). -/
def lockParts (lo hi : Nat) : List (Nat × Nat) :=
  (List.range 4).flatMap (fun d =>
    let z := (va509 d 0).toNat
    [(z, z + DA + 0x100000000 - 1), (z + DA + 0x300000000, z + 2 ^ 53 - 1)].filterMap (fun x =>
      if max lo x.1 ≤ min hi x.2 then some (max lo x.1, min hi x.2) else none))

/-- The locks of a record: its footprint's bounding interval, in the table of the die that owns it (R188). -/
def lockOf (s : State) (c : Copy) (id : Nat) (r : TRec) (write : Bool) : List RLock :=
  (lockParts (r.here s).foot.1 (r.here s).foot.2).map (fun x =>
    { die := vaDie (BitVec.ofNat 64 x.1), lo := x.1, hi := x.2, write := write, part := c.part, ctx := c.ctx, blk := c.blk, op := id })

/-- Whether two locks conflict (R189). -/
def locksClash (a b : RLock) : Bool :=
  decide (a.part = b.part) && decide (a.ctx = b.ctx) && (a.write || b.write) && decide (a.lo ≤ b.hi) && decide (b.lo ≤ a.hi)

/-- The range locks a block reserved in all (R127, R268). -/
def reservedLocks (b : Block) : Nat := b.rlocks * b.vcores.length

/-! ### Cores that move (R405) -/

/-- The cores that move with virtual core `v`: its own, and those that must leave its new place first; old and new. -/
def moveChain (s : State) (p : Nat) (x : Part) : Nat → Nat → List (Nat × Nat × Nat)
  | 0, _ => []
  | fuel + 1, v =>
    match physCore s p v with
    | none => []
    | some old =>
      let new := (mget x.tmap v).toNat % 512
      if old = new then []
      else (v, old, new) :: (match virtCore s p new with
        | some u => moveChain s p x fuel u
        | none => [])

/-- Whether a lock touches the scratchpad of a virtual core that is being moved, or of one that moves with it (R405). -/
def locksMoving (s : State) (p : Nat) (l : RLock) : Bool :=
  match tget s.parts p with
  | some x =>
    (match x.moving with
      | some v => (moveChain s p x 512 v).any (fun m =>
          decide (l.lo < (spadAddr m.1 0).toNat + 0x200000) && decide ((spadAddr m.1 0).toNat ≤ l.hi))
      | none => false)
  | none => false

/-- Whether the table of every die has room for some locks: it holds 256 (R188). -/
def tablesFree (s : State) (ls : List RLock) : Bool :=
  (List.range 4).all (fun d =>
    let on (l : RLock) : Bool := decide (l.die = d)
    decide ((ls.filter on).length = 0) || decide ((s.locks.filter on).length + (ls.filter on).length ≤ 256))

/-- Whether the locks of an operation can be registered now: none clashes, none touches a core that is being moved, and the
tables and the block's reservation have room (R185, R188, R189, R405). -/
def locksFree (s : State) (b : Block) (blk : Nat) (ls : List RLock) : Bool :=
  ls.all (fun l => !(s.locks.any (locksClash l)) && !(locksMoving s b.part l)) && tablesFree s ls
    && decide ((s.locks.filter (fun l => decide (l.blk = blk))).length + ls.length ≤ reservedLocks b)

/-- Whether an operation that arrived earlier waits on one of the dies of `ls` (R189). -/
def lockQueue (s : State) (id : Nat) (ls : List RLock) : Bool :=
  let meets (xs : List RLock) : Bool := xs.any (fun x => ls.any (fun l => decide (l.die = x.die)))
  s.copies.any (fun c => decide (c.1 < id) && !c.2.started && meets c.2.locks)
    || s.nbcmds.any (fun c => decide (c.1 < id) && !c.2.started && meets c.2.locks)

/-! ## What an engine access meets -/

/-- How the engine's access to a unit ends: a target, a code of R184, a second-stage failure, another node or the host, or a wait
for port C (R224). -/
inductive EngAcc where
  | ok (t : Target)
  | bad (code : Nat)
  | s2 (die ia : Nat)
  | remote (node : Nat)
  | wait
deriving DecidableEq, Repr

/-- The engine's access of `n` bytes (R184, R218, R295, R351). A copy that has its locks goes on while the bias of a page changes
(R226). -/
def engAcc (s : State) (rq : Req) (kind : AKind) (va : DWord) (n : Nat) : EngAcc :=
  match route s rq.part va with
  | .hole => .bad 5
  | .to (.host _) => .remote 510
  | .to (.remote node _) => .remote node
  | .to (.notify _ _) => .bad 7
  | .to (.nbctl _ _) => .bad 5
  | .to t => .ok t
  | .spad v c o => if !allocHeld s rq.part rq.ctx v o then .bad 5 else if deckHit s kind c o n then .bad 7 else .ok (.spad c o)
  | .paged d o =>
    match translateE s rq kind d o with
    | .ok pa pte => if awaitsPortC s (biased pte d pa) then .wait else .ok (biased pte d pa)
    | .absent => .bad 5
    | .denied => .bad 5
    | .s2 ia => if s2Refused s rq.part d ia then .bad 5 else .s2 d ia
    | .flip _ => .wait

/-- Whether a unit makes the whole copy end REFUSED with nothing copied: a window read, a window write outside an
input window, or a notify register (R295, R351). -/
def unitRefused (s : State) (rq : Req) (kind : AKind) (va : DWord) : Bool :=
  match route s rq.part va with
  | .to (.notify _ _) => true
  | .to (.window c off) =>
    (match kind, winOwner s c off with
      | .store, some (_, _, a) => !a.input
      | _, _ => true)
  | _ => false

/-- Whether the footprint of a record, as an interval, meets the deck or the scale bytes of an operator of its context in a
conflicting kind (R298). -/
def deckMeets (s : State) (part ctx : Nat) (kind : AKind) (r : TRec) : Bool :=
  s.ops.any (fun e =>
    let o := e.2
    let meets (off n : Nat) : Bool :=
      match (tget s.blocks o.blk).map (fun b => (spadAddr (b.vcores.getD o.wg 0) off).toNat) with
      | some a => decide (a ≤ (r.here s).foot.2) && decide ((r.here s).foot.1 < a + n)
      | none => false
    decide (o.part = part) && decide (o.ctx = ctx) && (decide (kind = .store) || !o.readable)
      && (meets o.deck (shareKT o * shareNT o * opTile o) || (match o.scale with
        | some a => meets a (2 * (if o.trans then o.k else o.n))
        | none => false)))

/-- Whether a unit lies in a page that is changing bias (R226). -/
def unitFlips (s : State) (rq : Req) (va : DWord) : Bool :=
  match route s rq.part va with
  | .paged d o => (flipAt s rq.part rq.ctx d o).isSome
  | _ => false

/-! ## Swizzle tags (R171, R185) -/

/-- The scratchpad line of an address: core * 2^15 + line. -/
def spadLine (s : State) (p : Nat) (va : DWord) : Option Nat :=
  match route s p va with
  | .spad _ c o => some (c * 2 ^ 15 + o / 64)
  | _ => none

/-- The scratchpad bytes that the first `n` units of a record name, as a set. -/
def spadBytes (s : State) (p : Nat) (r : TRec) (n : Nat) : SMap 1 :=
  (List.range n).foldl (fun m i =>
    match route s p (r.addr i) with
    | .spad _ c o => (List.range r.unit).foldl (fun m j => mset m (skey c o + j) 1) m
    | _ => m) []

/-- Whether every byte of a line is in a set. -/
def lineWhole (m : SMap 1) (line : Nat) : Bool := (List.range 64).all (fun j => decide (mget m (line * 64 + j) = 1))

/-- The first address whose line has the wrong tag: any line of the source, a line that the copy writes in part of
the destination. -/
def swzBad (s : State) (p : Nat) (r : TRec) (dst : Bool) : Option DWord :=
  let m := if dst then spadBytes s p r r.units else []
  ((List.range r.units).find? (fun i =>
    match spadLine s p (r.addr i) with
    | some l => decide ((mget s.swz l).toNat ≠ r.swz) && !(dst && lineWhole m l)
    | none => false)).map (fun i => BitVec.ofNat 64 ((r.addr i).toNat / 64 * 64))

/-- Sets the tags of the lines that the first `n` units of a copy have written whole (R171). -/
def tagWhole (s : State) (p : Nat) (r : TRec) (n : Nat) : State :=
  let m := spadBytes s p r n
  { s with swz := (List.range n).foldl (fun t i =>
      match spadLine s p (r.addr i) with
      | some l => if lineWhole m l then mset t l (BitVec.ofNat 3 r.swz) else t
      | none => t) s.swz }

/-- The same for the first `k` units of a copy, destination by destination. -/
def tagCopy (s : State) (c : Copy) (k : Nat) : State :=
  let n := (trec c.src).units
  (c.dsts.zip (List.range c.dsts.length)).foldl (fun s d => tagWhole s c.part (trec d.1) (min n (k - n * d.2))) s

/-! ## The end of a copy (R184, R185) -/

/-- Where a word that the engine writes for a context lies; it is written at the level of the group that asked (R185). -/
def ctxTarget (s : State) (rq : Req) (va : DWord) : DevRes Target :=
  match route s rq.part va with
  | .spad v c o => if !allocHeld s rq.part rq.ctx v o || deckHit s .store c o 8 then .failed va else .done (.spad c o)
  | .paged d o =>
    (match translate s rq .store d o with
      | .ok pa pte => if awaitsPortC s (biased pte d pa) then .wait else .done (biased pte d pa)
      | .absent => .failed va
      | .denied => .failed va
      | .s2 ia => if s2Refused s rq.part d ia then .failed va else .s2 d ia
      | .flip _ => .wait)
  | _ => .failed va

/-- Writes the two words of a status block that lies on this module, both or none. -/
def ctxWrite (s : State) (rq : Req) (va w0 w1 : DWord) : DevRes State :=
  (ctxTarget s rq va).andThen (fun t => (ctxTarget s rq (va + 8)).andThen (fun u => .done (writeT (writeT s t 8 w0.toNat) u 8 w1.toNat)))

/-- The node of a status block that lies on another node or in host memory. -/
def statusNode (s : State) (p : Nat) (va : DWord) : Option Nat :=
  match route s p va with
  | .to (.remote node _) => some node
  | .to (.host _) => some 510
  | _ => none

/-- Sends a request of a copy that stands in the table, which waits for the answer. -/
def askCopy (s : State) (id : Nat) (r : RReq) : State :=
  newReq { s with copies := tmod s.copies id (fun c => { c with waits := c.waits + 1 }) } r

/-- A write of a copy at another node or in host memory. -/
def copyReq (id : Nat) (c : Copy) (node : Nat) (va : DWord) (n : Nat) (x : BitVec 128) : RReq :=
  { src := 512 + c.core, part := c.part, ctx := c.ctx, node := node, addr := va, kind := .wr, op := 0, size := n, a := x, b := 0,
    port := none, owner := .copyOut id }

/-- Sends a status block to another node or the host. The copy that stands in the table under `id` waits for the two answers, and
its `wfails` then say whether the status was written (R173, R185). -/
def askStatus (s : State) (id : Nat) (c : Copy) (phase node : Nat) (va w0 w1 : DWord) : State :=
  let s := { s with copies := tset s.copies id { c with started := true, phase := phase, waits := 0, wfails := [] } }
  askCopy (askCopy s id (copyReq id c node va 8 (w0.setWidth 128))) id (copyReq id c node (va + 8) 8 (w1.setWidth 128))

/-- A copy leaves the engine, with the refusal that its group records, if any. -/
def dropCopy (s : State) (id : Nat) (c : Copy) (bad : Option DWord) : State :=
  { s with
    copies := tdel s.copies id
    groups := tmod s.groups c.gid (fun g =>
      let g := match bad with
        | some a => addRefusal g a 0 2
        | none => g
      retireDone (updOut g c.out (fun o => { o with fin := true })) .cp) }

/-- Ends a copy: its locks are released, the status is written, the operation retires (R185). A status that must wait leaves the copy
with its outcome (R218, R225). -/
def endCopy (s : State) (id : Nat) (c : Copy) (code prog : Nat) (faddr : DWord) : State :=
  let s := { s with locks := s.locks.filter (fun l => decide (l.op ≠ id)) }
  match c.status with
  | none => dropCopy s id c (if code = 1 then none else some faddr)
  | some a =>
    let w0 := BitVec.ofNat 64 (prog % 2 ^ 40 * 2 ^ 24 + code)
    let waiting : State := { s with copies := tset s.copies id { c with started := true, phase := 3, ends := some (prog, code, faddr) } }
    match statusNode s c.part a with
    | some node => askStatus s id c 4 node a w0 faddr
    | none =>
      match ctxWrite s { part := c.part, ctx := c.ctx, user := c.user } a w0 faddr with
      | .done s => dropCopy s id c none
      | .failed _ => dropCopy s id c (some a)
      | .s2 d ia => signalS2 waiting c.part d ia
      | .wait => waiting

/-! ## The issue of a copy (R182, R185, R186) -/

/-- The destination records: one, or for CPYB one for each workgroup (R186). -/
def copyDsts (is : Issue) (b : Block) (drec : List DWord) (bcast : Bool) : Option (List (List DWord)) :=
  if !bcast then some [drec]
  else
    let r := trec drec
    let o := ownVa is.s r.base - spadAddr (b.vcores.getD is.g.wgid 0) (b.spadOff.getD is.g.wgid 0)
    if Int.ofNat o.toNat + r.span.1 < 0 ∨ Int.ofNat (variantOf b).spad ≤ Int.ofNat o.toNat + r.span.2 then none
    else some ((List.range b.vcores.length).map (fun i =>
      (spadAddr (b.vcores.getD i 0) (b.spadOff.getD i 0) + o) :: drec.drop 1))

/-- Why a copy ends before it begins: a code of R184, if any. `ls` are the locks it would register. -/
def copyRefusal (s : State) (b : Block) (src drec : List DWord) (dsts : Option (List (List DWord))) (ls : List RLock) : Option Nat :=
  if !(recOk src) || !(recOk drec) || !(sameShape (trec src) (trec drec)) then some 2
  else
    match dsts with
    | none => some 2
    | some ds =>
      if ds.any (fun d => footsMeet ((trec src).here s) ((trec d).here s)) then some 3
      else if reservedLocks b < max (1 + ds.length) ls.length then some 4
      else none

/-- The request that a copy's accesses make. -/
def Copy.rq (c : Copy) : Req := { part := c.part, ctx := c.ctx, user := c.user }

/-- Whether a page of a copy is changing bias (R226). -/
def copyFlips (s : State) (c : Copy) : Bool :=
  (c.src :: c.dsts).any (fun x => (List.range (trec x).units).any (fun i => unitFlips s c.rq ((trec x).addr i)))

/-- The instruction of a copy completes: the slot that waits for it goes on, and cp counts it (R185). -/
def beginCopy (s : State) (id : Nat) (c : Copy) : State :=
  let go (sl : Slot) : Slot := if sl.wait = .engine id then advance sl else sl
  pushOut { s with
    copies := tset s.copies id { c with started := true }
    groups := tmod s.groups c.gid (fun g => { g with a := go g.a, b := go g.b }) } c.gid (Out.new id .cp 0)

/-- Starts a copy whose records are read, if cp has room: one that failed its checks, or meets a page that is changing bias, retires
at once; else all its locks are registered in one step (R185, R189, R226). -/
def copyStart (s : State) (id : Nat) (c : Copy) (b : Block) (g : Group) : Option State :=
  if 63 ≤ cntOf g .cp then none
  else
    match c.ends with
    | some (_, code, a) => some (endCopy (beginCopy s id c) id c code 0 a)
    | none =>
      if copyFlips s c then some (endCopy (beginCopy s id c) id c 10 0 0)
      else if locksFree s b c.blk c.locks && !(lockQueue s id c.locks) then some (beginCopy { s with locks := s.locks ++ c.locks } id c)
      else none

/-- Issues a copy once both records are read (R185): a wrong swizzle tag traps, and what cannot start waits with what it has read. -/
def copyIssue (is : Issue) (s : State) (status : Option DWord) (src drec : List DWord) (bcast : Bool) : Eff :=
  match tget s.groups is.gid with
  | none => .again s
  | some g =>
    match tget s.blocks g.blk with
    | none => .again s
    | some b =>
      let dsts := if recOk drec then copyDsts is b drec bcast else some [drec]
      let (id, s) := fresh s
      let c : Copy :=
        { part := b.part, ctx := b.ctx, blk := g.blk, gid := is.gid, core := g.core, user := userLevel g, out := id, src := src,
          dsts := dsts.getD [], status := status, locks := [], started := true, phase := 0, prog := 0, waits := 0, buf := [],
          fails := [], wfails := [], ends := none }
      let r := trec src
      let ds := c.dsts.map trec
      let ls := if recOk src && recOk drec then lockOf s c id r false ++ ds.flatMap (fun d => lockOf s c id d true) else []
      let go (c : Copy) : Eff :=
        match copyStart (clearRecs s is.gid) id c b g with
        | some s => .done s
        | none => is.waitIn (clearRecs { s with copies := tset s.copies id { c with started := false } } is.gid) (.engine id)
      match copyRefusal s b src drec dsts ls with
      | some code => go { c with ends := some (0, code, 0) }
      | none =>
        match (swzBad s b.part r false :: ds.map (fun d => swzBad s b.part d true)).findSome? (fun x => x) with
        | some a => .trap (.plain 10 is.sl.exec a)
        | none => go { c with locks := ls }

/-- CPY and CPYB read both records before anything else (R182); what the group stored into them before is there. -/
def copyEff (is : Issue) (d a b : Nat) (bcast : Bool) : Eff :=
  let sa := sreg is.g a
  let da := is.sb b
  let st := sreg is.g d
  if sa.toNat % 64 ≠ 0 then .trap (.plain 4 is.sl.exec sa)
  else if da.toNat % 64 ≠ 0 then .trap (.plain 4 is.sl.exec da)
  else if d ≠ 24 ∧ st.toNat % 16 ≠ 0 then .trap (.plain 4 is.sl.exec st)
  else if acqPending is.g then .again is.s
  else
    let s := performStores is.s is.gid
    match tget s.groups is.gid with
    | none => .again s
    | some g =>
      match readRecord s is.gid is.sl.exec (reqOf s g) sa 8 with
      | .trap c x => .trap (.plain c is.sl.exec x)
      | .s2 die ia => .leave (s2Fault s is.gid is.side die ia)
      | .wait s => .again s
      | .words src =>
        match readRecord s is.gid is.sl.exec (reqOf s g) da 8 with
        | .trap c x => .trap (.plain c is.sl.exec x)
        | .s2 die ia => .leave (s2Fault s is.gid is.side die ia)
        | .wait s => .again s
        | .words drec => copyIssue is s (if d = 24 then none else some st) src drec bcast

/-- The form of CPY and CPYB (R182). -/
def formCopy (d a b : BitVec 7) : Form := Form.mk0 [opS d.toNat, opS a.toNat, opS b.toNat] none (.replaces (b = 0)) false

/-- CPY (R182, R185). -/
def execCpy (d a b : BitVec 7) (s : State) : StepOut :=
  issueWord (encode (.cpy d a b)) (formCopy d a b) (fun is => copyEff is d.toNat a.toNat b.toNat false) s

/-- CPYB (R186). -/
def execCpyb (d a b : BitVec 7) (s : State) : StepOut :=
  issueWord (encode (.cpyb d a b)) (formCopy d a b) (fun is => copyEff is d.toNat a.toNat b.toNat true) s

/-! ## The steps of a copy -/

/-- A copy that waited starts, if it can now (R185, R189). -/
def startCopy (s : State) (id : Nat) (c : Copy) : State :=
  match tget s.groups c.gid, tget s.blocks c.blk with
  | some g, some b => (copyStart s id c b g).getD s
  | _, _ => { s with copies := tdel s.copies id }

/-- Who a copy's window stores come from (R305): the threads of its block, with no op counter (R307). -/
def copyWho (c : Copy) : Who := { part := c.part, ctx := c.ctx, blk := some c.blk, die := c.core / 128, cls := 0, node := 0, gid := none }

/-- The first of a copy's accesses that gives something to `f`. -/
def engFind {α : Type} (s : State) (rq : Req) (c : Copy) (f : EngAcc → Option α) : Option α :=
  let look (r : TRec) (kind : AKind) : Option α := (List.range r.units).findSome? (fun i => f (engAcc s rq kind (r.addr i) r.unit))
  ((look (trec c.src) .load) :: c.dsts.map (fun d => look (trec d) .store)).findSome? (fun x => x)

/-- The first unit of a list that meets a second-stage failure that Quinmin may still resolve. -/
def firstS2 (s : State) (rq : Req) (c : Copy) : Option (Nat × Nat) :=
  engFind s rq c (fun a => match a with
    | .s2 d ia => some (d, ia)
    | _ => none)

/-- Whether some access of a copy waits for port C. -/
def engWaits (s : State) (rq : Req) (c : Copy) : Bool := (engFind s rq c (fun a => if a = .wait then some () else none)).isSome

/-- Sends the reads of a copy's source that go to another node or the host. -/
def sendReads (s : State) (id : Nat) (c : Copy) (rq : Req) : State :=
  let r := trec c.src
  (List.range r.units).foldl (fun s i =>
    match engAcc s rq .load (r.addr i) r.unit with
    | .remote node => askCopy s id { copyReq id c node (r.addr i) r.unit 0 with kind := .rd, owner := .copyIn id (i * r.unit) }
    | _ => s) s

/-- What reading one unit gives: its bytes and whether they are poisoned, a code with an address, or a wait. -/
inductive CopyRd where
  | ok (s : State) (x : Nat) (poison : Bool)
  | bad (code : Nat) (addr : DWord)
  | hold

/-- Reads unit `i` of the source. -/
def copyRead (s : State) (c : Copy) (rq : Req) (i : Nat) : CopyRd :=
  let r := trec c.src
  match engAcc s rq .load (r.addr i) r.unit with
  | .ok t => .ok (touch s none t r.unit false) (readT s t r.unit) (poisonedT s t r.unit)
  | .bad code => .bad code (r.addr i)
  | .s2 _ _ => .hold
  | .wait => .hold
  | .remote _ =>
    match c.fails.find? (fun f => decide (f.1 = i * r.unit)) with
    | some (_, code, a) => .bad code a
    | none => .ok s (mbytes c.buf (i * r.unit) r.unit) false

/-- How the writing of one unit ends: done, a code with an address, or a wait. -/
inductive CopyWr where
  | ok (s : State)
  | bad (code : Nat) (addr : DWord)
  | hold

/-- The store of one unit into a window, behind what waits there (R295, R303). -/
def copyWindow (s : State) (c : Copy) (core : Nat) (l : StLane) : CopyWr :=
  if s.heldAcc.any (fun h => waitsPlace core h && h.lanes.any (fun y => decide (ownerEntry (heldOwner s h y) = laneEntry s l))) then .hold
  else
    match laneStore s (laneOwner s l) l (copyWho c) (s.heldAcc.any (waitsPlace core)) with
    | .ok s => .ok s
    | .refuse _ => .bad 7 l.addr
    | .held => .hold

/-- Writes unit `i` of a destination. -/
def copyWrite (s : State) (id : Nat) (c : Copy) (rq : Req) (d : TRec) (i x : Nat) : CopyWr :=
  let va := d.addr i
  match engAcc s rq .store va d.unit with
  | .ok (.window k off) => copyWindow s c k { lane := 0, addr := va, tgt := .window k off, size := d.unit, data := BitVec.ofNat 128 x }
  | .ok t => .ok (writeT s t d.unit x)
  | .bad code => .bad code va
  | .s2 _ _ => .hold
  | .wait => .hold
  | .remote node => .ok (askCopy s id (copyReq id c node va d.unit (BitVec.ofNat 128 x)))

/-- How far the writing of a copy goes in one step: all of it, up to a failing unit, or up to a wait. -/
inductive CopyRun where
  | all (s : State)
  | bad (s : State) (k code : Nat) (addr : DWord)
  | hold (s : State) (k : Nat)

/-- Writes the units from `k` on, destination by destination, in linear order (R184, R186). -/
def copyRun (id : Nat) (c : Copy) (rq : Req) (n : Nat) : Nat → State → Nat → CopyRun
  | 0, s, _ => .all s
  | fuel + 1, s, k =>
    let i := k % n
    match copyRead s c rq i with
    | .bad code a => .bad s k code a
    | .hold => .hold s k
    | .ok s x poison =>
      if poison then .bad s k 9 ((trec c.src).addr i)
      else
        match copyWrite s id c rq (trec (c.dsts.getD (k / n) [])) i x with
        | .ok s => copyRun id c rq n fuel s (k + 1)
        | .bad code a => .bad s k code a
        | .hold => .hold s k

/-- Whether a copy ends REFUSED with nothing copied, with the address. -/
def copyRefused (s : State) (c : Copy) (rq : Req) : Option DWord :=
  let look (r : TRec) (kind : AKind) : Option DWord :=
    if deckMeets s c.part c.ctx kind r then some r.base
    else ((List.range r.units).find? (fun i => unitRefused s rq kind (r.addr i))).map r.addr
  ((look (trec c.src) .load) :: c.dsts.map (fun d => look (trec d) .store)).findSome? (fun x => x)

/-- The place of a refused write among the units of the destinations. -/
def writePlace (c : Copy) (a : DWord) : Nat :=
  (c.dsts.findSome? (fun d => (List.range (trec d).units).find? (fun i => decide ((trec d).addr i = a)))).getD 0

/-- The outcome of a copy whose writes are all answered: the failure of lowest place, else what was decided, else DONE (R184). -/
def copyOutcome (c : Copy) : Nat × Nat × DWord :=
  let per := (trec c.src).per
  let start := c.ends.getD ((trec c.src).elems, 1, 0)
  c.wfails.foldl (fun o f => if writePlace c f.2 * per < o.1 ∨ o.2.1 = 1 then (writePlace c f.2 * per, f.1, f.2) else o) start

/-- Ends a copy with its outcome, once every write it has made is answered: the status covers them all (R204). -/
def finishCopy (s : State) (id : Nat) (c : Copy) : State :=
  if c.waits ≠ 0 then s
  else
    let o := copyOutcome c
    endCopy s id c o.2.1 o.1 o.2.2

/-- The writing phase of a copy; the lines written whole take the tag of the destination, also when the copy fails (R171). -/
def writeCopy (s : State) (id : Nat) (c : Copy) (rq : Req) : State :=
  let n := (trec c.src).units
  let settled (s : State) (f : Copy → Copy) : State :=
    let s := { s with copies := tmod s.copies id f }
    match tget s.copies id with
    | some c => finishCopy s id c
    | none => s
  match copyRun id c rq n (n * c.dsts.length - c.prog) s c.prog with
  | .bad s k code a =>
    settled (tagCopy s c k) (fun c => { c with phase := 3, ends := some (k % n * (trec c.src).per, code, a) })
  | .hold s k => { s with copies := tmod s.copies id (fun c => { c with prog := k }) }
  | .all s => settled (tagCopy s c (n * c.dsts.length)) (fun c => { c with phase := 2, prog := n * c.dsts.length })

/-- Whether everything the group issued before a copy is performed and has returned (R187). -/
def copyReady (s : State) (c : Copy) : Bool :=
  match tget s.groups c.gid with
  | none => true
  | some g => (g.out.takeWhile (fun o => decide (o.uid ≠ c.out))).all (fun o => decide (o.pend = 0) && o.stores.isEmpty)

/-- COPY_COMPLETE: the engine moves the elements and the copy ends (R185, R204). A copy that needs another node or the host
goes on when its answers are there; one that needs a second-stage entry waits in place (R218). -/
def execCopyComplete (id : Nat) (s : State) : StepOut :=
  .next (match tget s.copies id with
    | none => s
    | some c =>
      if !c.started || decide (c.waits ≠ 0) || decide (c.phase = 5) then s
      else if c.phase = 4 then dropCopy s id c (if c.wfails.isEmpty then none else c.status)
      else if 2 ≤ c.phase then finishCopy s id c
      else if !(copyReady s c) then s
      else
        match copyRefused s c c.rq, firstS2 s c.rq c with
        | some a, _ => endCopy s id c 7 0 a
        | none, some (d, ia) => signalS2 s c.part d ia
        | none, none =>
          if engWaits s c.rq c then s
          else
            let s := if c.phase = 0 then
                sendReads { s with copies := tset s.copies id { c with phase := 1 } } id c c.rq
              else s
            match tget s.copies id with
            | some c => if c.waits = 0 then writeCopy s id c c.rq else s
            | none => s)

end Sys2Proof.Machine
end

