-- ==== Sys2Proof/Machine/Hart.lean ====
section
/-! DEFINITION. The Blutos harts: capabilities (R433 to R443), requests to device memory (R431, R437), notify words
(R444), exceptions, and the traps and returns that move the program capability (R435). The RISC-V registers an exception
writes are those of the RISC-V privileged specification, which R429 names (log 11). -/

namespace Sys2Proof.Machine

/-! ## Registers -/

def xget (x : Hart) (r : Nat) : DWord := if r = 0 then 0 else mget x.x r
def xput (x : Hart) (r : Nat) (v : DWord) : Hart := if r = 0 then x else { x with x := mset x.x r v }
def kget (x : Hart) (r : Nat) : BitVec 129 := if r = 0 then 0 else mget x.k r
/-- Writes a capability register; k0 ignores it (R435). -/
def kput (x : Hart) (r : Nat) (c : BitVec 129) : Hart := if r = 0 then x else { x with k := mset x.k r c }
def csrGet (x : Hart) (n : Nat) : DWord := mget x.csr n
def csrPut (x : Hart) (n : Nat) (v : DWord) : Hart := { x with csr := mset x.csr n v }
def setHart (s : State) (h : Nat) (x : Hart) : State := { s with harts := tset s.harts h x }

/-! ## Capabilities (R433, R434) -/

def capTag (c : BitVec 129) : Bool := c.getLsbD 128
def capCur (c : BitVec 129) : Nat := c.toNat % 2 ^ 64
def capE (c : BitVec 129) : Nat := c.toNat / 2 ^ 122 % 64
def capBM (c : BitVec 129) : Nat := c.toNat / 2 ^ 108 % 2 ^ 14
def capTM (c : BitVec 129) : Nat := c.toNat / 2 ^ 94 % 2 ^ 14
def capPerm (c : BitVec 129) : Nat := c.toNat / 2 ^ 78 % 2 ^ 16
def capType (c : BitVec 129) : Nat := c.toNat / 2 ^ 74 % 16
/-- Bounds that no capability has (R433). -/
def capBad (c : BitVec 129) : Bool := decide (50 < capE c) || decide (capTM c < capBM c)
def capArena (c : BitVec 129) : Nat := capCur c / 2 ^ (capE c + 14) * 2 ^ (capE c + 14)
def capBase (c : BitVec 129) : Nat := capArena c + capBM c * 2 ^ capE c
def capTop (c : BitVec 129) : Nat := capArena c + (capTM c + 1) * 2 ^ capE c
def capHas (c : BitVec 129) (bit : Nat) : Bool := (BitVec.ofNat 16 (capPerm c)).getLsbD bit

/-- A capability from its fields; the tag is 0 where the bounds are none, and reserved bits are 0 (R433, R434). -/
def mkCap (tag : Bool) (cur e bm tm perm type : Nat) : BitVec 129 :=
  let bad := decide (50 < e) || decide (tm < bm)
  BitVec.ofNat 129 ((if tag && !bad then 2 ^ 128 else 0) + e % 64 * 2 ^ 122 + bm % 2 ^ 14 * 2 ^ 108 + tm % 2 ^ 14 * 2 ^ 94
    + perm % 2 ^ 10 * 2 ^ 78 + type % 16 * 2 ^ 74 + cur % 2 ^ 64)

/-- The same capability with another tag, cursor, permissions and type. -/
def capWith (c : BitVec 129) (tag : Bool) (cur perm type : Nat) : BitVec 129 :=
  mkCap tag cur (capE c) (capBM c) (capTM c) perm type

/-- A capability with its cursor moved and nothing else changed. -/
def capAt (c : BitVec 129) (cur : DWord) : BitVec 129 := capWith c (capTag c) cur.toNat (capPerm c) (capType c)

/-- A capability without WC (R442). -/
def dropWC (c : BitVec 129) : BitVec 129 :=
  capWith c (capTag c) (capCur c) (Nat.land (capPerm c) 0xFEFF) (capType c)

/-- What CLC loads from 16 bytes and their tag under an authority (R442). -/
def capLoad (auth : BitVec 129) (data : Nat) (tag : Bool) : BitVec 129 :=
  let v : BitVec 129 := BitVec.ofNat 129 (data % 2 ^ 128 + (if tag then 2 ^ 128 else 0))
  let v := capAt v (BitVec.ofNat 64 data)
  if capHas auth 8 then v else dropWC v

/-- The checks of an authority in the order of R436: the code of the first that fails. -/
def capCheck (c : BitVec 129) (perms : List Nat) (addr n : Nat) : Option Nat :=
  if !capTag c then some 1
  else if capType c ≠ 0 then some 2
  else if !(perms.all (capHas c)) then some 3
  else if addr < capBase c ∨ capTop c < addr + n then some 4
  else none

/-! ## Exceptions -/

/-- Where a trap goes: the base of a trap vector register, or in its vectored mode the entry of an interrupt. -/
def trapPc (tvec : DWord) (cause : Nat) : DWord :=
  let base := tvec.toNat / 4 * 4
  BitVec.ofNat 64 (if tvec.toNat % 4 = 1 ∧ 2 ^ 63 ≤ cause then base + 4 * (cause - 2 ^ 63) else base)

/-- A trap taken at VS: from VU, k14 takes KP with its cursor at the trapping PC (R435). -/
def trapVS (x : Hart) (cause tval : DWord) : Hart :=
  let st := (csrGet x 0x200).toNat
  let sie := st / 2 % 2
  let spp := if x.lvl = .vs then 1 else 0
  let st := st - sie * 2 - st / 32 % 2 * 32 - st / 256 % 2 * 256 + sie * 32 + spp * 256
  let x' := csrPut (csrPut (csrPut (csrPut x 0x200 (BitVec.ofNat 64 st)) 0x241 x.pc) 0x242 cause) 0x243 tval
  let x' := if x.lvl = .vu then kput x' 14 (capAt x.kp x.pc) else x'
  { x' with pc := trapPc (csrGet x 0x205) cause.toNat, lvl := .vs }

/-- Whether the hart runs virtualised. -/
def hartVirt (x : Hart) : Bool := decide (x.lvl = .vs) || decide (x.lvl = .vu)

/-- Exceptions whose tval is a guest virtual address. -/
def guestAddr (x : Hart) (cause : Nat) : Nat := if hartVirt x && [0, 1, 4, 5, 6, 7].contains cause then 1 else 0

/-- A trap taken at HS. -/
def trapHS (x : Hart) (cause : Nat) (tval : DWord) : Hart :=
  let st := (csrGet x 0x300).toNat
  let sie := st / 2 % 2
  let spp := if x.lvl = .vu then 0 else 1
  let st := st - sie * 2 - st / 32 % 2 * 32 - st / 256 % 2 * 256 + sie * 32 + spp * 256
  let hs := (csrGet x 0x600).toNat
  let v := if hartVirt x then 1 else 0
  let spvp := if hartVirt x then spp else hs / 256 % 2
  let hs := hs - hs / 64 % 2 * 64 - hs / 128 % 2 * 128 - hs / 256 % 2 * 256 + guestAddr x cause * 64 + v * 128 + spvp * 256
  let x' := csrPut (csrPut (csrPut (csrPut (csrPut x 0x300 (BitVec.ofNat 64 st)) 0x600 (BitVec.ofNat 64 hs)) 0x141 x.pc)
    0x142 (BitVec.ofNat 64 cause)) 0x143 tval
  { x' with pc := trapPc (csrGet x 0x105) cause, lvl := .hs }

/-- A trap taken at M. -/
def trapM (x : Hart) (cause : Nat) (tval : DWord) : Hart :=
  let st := (csrGet x 0x300).toNat
  let mie := st / 8 % 2
  let mpp := match x.lvl with
    | .m => 3
    | .hs => 1
    | .vs => 1
    | .vu => 0
  let v := if hartVirt x then 1 else 0
  let st := st - mie * 8 - st / 128 % 2 * 128 - st / 2 ^ 11 % 4 * 2 ^ 11 - st / 2 ^ 38 % 4 * 2 ^ 38
    + mie * 128 + mpp * 2 ^ 11 + guestAddr x cause * 2 ^ 38 + v * 2 ^ 39
  let x' := csrPut (csrPut (csrPut (csrPut x 0x300 (BitVec.ofNat 64 st)) 0x341 x.pc) 0x342 (BitVec.ofNat 64 cause)) 0x343 tval
  { x' with pc := trapPc (csrGet x 0x305) cause, lvl := .m }

/-- An exception of a hart, taken at the level that medeleg and hedeleg give (R436). -/
def hartException (x : Hart) (cause : Nat) (tval : DWord) : Hart :=
  if x.lvl = .m || !((csrGet x 0x302).getLsbD cause) then trapM x cause tval
  else if hartVirt x && (csrGet x 0x602).getLsbD cause then trapVS x (BitVec.ofNat 64 cause) tval
  else trapHS x cause tval

/-! ## Interrupts -/

/-- The interrupts that pend: those of mip, and of the guest's those of hvip. -/
def hartMip (x : Hart) : DWord := (csrGet x 0x344 &&& ~~~0x444#64) ||| (csrGet x 0x645 &&& 0x444)

/-- The interrupt that a hart takes before its next word, with the level it is taken at: of those that pend and are enabled the first
in the order of the RISC-V privileged specification (R444; log 116). The guest's have the codes of the supervisor's there. -/
def hartInt (x : Hart) : Option (Nat × HLevel) :=
  let p := hartMip x &&& csrGet x 0x304
  let dele := csrGet x 0x303 ||| 0x1444
  let guest := csrGet x 0x603 &&& 0x444
  let first (w : DWord) : Option Nat := [11, 3, 7, 9, 1, 5, 12, 10, 2, 6].find? (fun k => w.getLsbD k)
  let m := if x.lvl ≠ .m || (csrGet x 0x300).getLsbD 3 then first (p &&& ~~~dele) else none
  let hs := if hartVirt x || (decide (x.lvl = .hs) && (csrGet x 0x300).getLsbD 1) then first (p &&& dele &&& ~~~guest) else none
  let vs := if decide (x.lvl = .vu) || (decide (x.lvl = .vs) && (csrGet x 0x200).getLsbD 1) then first (p &&& dele &&& guest) else none
  match m, hs, vs with
  | some k, _, _ => some (k, .m)
  | none, some k, _ => some (k, .hs)
  | none, none, some k => some (k - 1, .vs)
  | none, none, none => none

/-- Takes an interrupt: the saved PC is that of the word which has not run, a WFN that waits among them (R444). -/
def takeInterrupt (s : State) (h : Nat) (x : Hart) (k : Nat) (lvl : HLevel) : State :=
  let c := 2 ^ 63 + k
  setHart s h { (match lvl with
    | .m => trapM x c 0
    | .hs => trapHS x c 0
    | .vs => trapVS x (BitVec.ofNat 64 c) 0
    | .vu => x) with fetched := none }

/-! ## The frame of a hart's word -/

/-- How a word ends: the hart as it leaves it, with the rest of the state; or an exception without effect. -/
inductive HartEff where
  | next (s : State) (x : Hart)
  | exc (cause : Nat) (tval : DWord)

/-- Takes an exception. -/
def takeException (s : State) (h : Nat) (x : Hart) (cause : Nat) (tval : DWord) : State :=
  setHart s h { hartException x cause tval with fetched := none }

/-- Runs a word of the hart that is issuing. A hart whose access is not answered waits; one whose access was refused
takes its access fault (R431). -/
def hartWord (f : Nat → Hart → HartEff) (s : State) : StepOut :=
  match s.issuer with
  | .hart h =>
    match tget s.harts h with
    | none => .fault .noIssuer
    | some x =>
      if x.busy then .next s
      else
        match x.refused with
        | some (cause, addr) => .next (takeException s h { x with refused := none } cause addr)
        | none =>
          match f h x with
          | .next s x => .next (setHart s h x)
          | .exc cause tval => .next (takeException s h x cause tval)
  | .none => .fault .noIssuer
  | .slot _ _ => .fault .noIssuer
  | .nb _ => .fault .noIssuer
  | .device => .fault .noIssuer

/-- The hart past its word. -/
def hartPast (x : Hart) : Hart := { x with pc := x.pc + 4, fetched := none }

/-- An illegal-instruction exception. What xtval then holds the RISC-V specification leaves to the implementation. -/
def illegal (s : State) : HartEff := .exc 2 (Config.illegalTval s.clock)

/-- A word whose capability fields are `ks` and whose effect is on registers alone. -/
def hartRegs (ks : List (BitVec 5)) (f : Hart → Hart) (s : State) : StepOut :=
  hartWord (fun _ x => if ks.any (fun k => decide (16 ≤ k.toNat)) then illegal s else .next s (hartPast (f x))) s

/-! ## Derivations (R441) -/

/-- Whether a capability is tagged and unsealed. -/
def capLive1 (c : BitVec 129) : Bool := capTag c && decide (capType c = 0)

/-- The bounds that CSETBND gives: E, the rounded base and top. -/
def boundsFor (b t : Nat) : Nat × Nat × Nat :=
  let rb (e : Nat) : Nat := b / 2 ^ e * 2 ^ e
  let rt (e : Nat) : Nat := (t + 2 ^ e - 1) / 2 ^ e * 2 ^ e
  let e := ((List.range 51).find? (fun e => decide (rb e / 2 ^ (e + 14) = (rt e - 1) / 2 ^ (e + 14)))).getD 50
  (e, rb e, rt e)

def setBounds (c : BitVec 129) (len : DWord) : BitVec 129 :=
  let t := capCur c + (if len = 0 then 1 else len.toNat)
  let (e, rb, rt) := boundsFor (capCur c) t
  let tag := capLive1 c && decide (capBase c ≤ rb) && decide (rt ≤ capTop c) && decide (t ≤ 2 ^ 64)
  mkCap tag (capCur c) e (rb / 2 ^ e % 2 ^ 14) ((rt - 1) / 2 ^ e % 2 ^ 14) (capPerm c) (capType c)

/-- A capability with a new cursor, tagged while it stays in its arena. -/
def moveCur (c : BitVec 129) (cur : Nat) : BitVec 129 :=
  let cur := cur % 2 ^ 64
  let same := decide (cur / 2 ^ (capE c + 14) = capCur c / 2 ^ (capE c + 14))
  capWith c (capLive1 c && same) cur (capPerm c) (capType c)

/-- CSETBND (R441). -/
def execCsetbnd (b a d : BitVec 5) : State → StepOut :=
  hartRegs [a, d] (fun x => kput x d.toNat (setBounds (kget x a.toNat) (xget x b.toNat)))

/-- CANDPERM (R441). -/
def execCandperm (b a d : BitVec 5) : State → StepOut :=
  hartRegs [a, d] (fun x =>
    let c := kget x a.toNat
    kput x d.toNat (capWith c (capLive1 c) (capCur c) (Nat.land (capPerm c) ((xget x b.toNat).toNat % 2 ^ 16)) (capType c)))

/-- CINCOFF (R441). -/
def execCincoff (b a d : BitVec 5) : State → StepOut :=
  hartRegs [a, d] (fun x =>
    let c := kget x a.toNat
    kput x d.toNat (moveCur c (capCur c + (xget x b.toNat).toNat)))

/-- CSETOFF (R441). -/
def execCsetoff (b a d : BitVec 5) : State → StepOut :=
  hartRegs [a, d] (fun x =>
    let c := kget x a.toNat
    kput x d.toNat (moveCur c (capBase c + (xget x b.toNat).toNat)))

/-- CSEAL (R441). -/
def execCseal (b a d : BitVec 5) : State → StepOut :=
  hartRegs [a, b, d] (fun x =>
    let c := kget x a.toNat
    let k := kget x b.toNat
    let t := capCur k
    let ok := capLive1 c && capLive1 k && capHas k 5 && decide (1 ≤ t ∧ t ≤ 14) && decide (capBase k ≤ t) && decide (t + 1 ≤ capTop k)
    kput x d.toNat (capWith c ok (capCur c) (capPerm c) t))

/-- CUNSEAL (R441). -/
def execCunseal (b a d : BitVec 5) : State → StepOut :=
  hartRegs [a, b, d] (fun x =>
    let c := kget x a.toNat
    let k := kget x b.toNat
    let t := capCur k
    let ok := capTag c && decide (1 ≤ capType c ∧ capType c ≤ 14) && capLive1 k && capHas k 6 && decide (t = capType c)
      && decide (capBase k ≤ t) && decide (t + 1 ≤ capTop k)
    kput x d.toNat (capWith c ok (capCur c) (capPerm c) 0))

/-- CSUBSET (R441). -/
def execCsubset (b a d : BitVec 5) : State → StepOut :=
  hartRegs [a, b] (fun x =>
    let c := kget x a.toNat
    let k := kget x b.toNat
    let ok := capTag c && capTag k && decide (capBase c ≤ capBase k) && decide (capTop k ≤ capTop c)
      && decide (Nat.land (capPerm k) (capPerm c) = capPerm k)
    xput x d.toNat (if ok then 1 else 0))

/-- CGETBASE: the base, or the cursor (R441); other selectors are illegal (R440). -/
def execCgetbase (e a d : BitVec 5) (s : State) : StepOut :=
  hartWord (fun _ x =>
    if 16 ≤ a.toNat ∨ 2 ≤ e.toNat then illegal s
    else
      let c := kget x a.toNat
      .next s (hartPast (xput x d.toNat (if capBad c then 0 else BitVec.ofNat 64 (if e = 0 then capBase c else capCur c))))) s

/-- CGETLEN (R441). -/
def execCgetlen (a d : BitVec 5) : State → StepOut :=
  hartRegs [a] (fun x =>
    let c := kget x a.toNat
    xput x d.toNat (if capBad c then 0 else BitVec.ofNat 64 (min (capTop c - capBase c) (2 ^ 64 - 1))))

/-- CGETPERM (R441). -/
def execCgetperm (a d : BitVec 5) : State → StepOut :=
  hartRegs [a] (fun x =>
    let c := kget x a.toNat
    xput x d.toNat (if capBad c then 0 else BitVec.ofNat 64 (capPerm c + capType c * 2 ^ 16)))

/-- CGETTAG (R441). -/
def execCgettag (a d : BitVec 5) : State → StepOut :=
  hartRegs [a] (fun x => xput x d.toNat (if capTag (kget x a.toNat) then 1 else 0))

/-- CCLRTAG (R441). -/
def execCclrtag (a d : BitVec 5) : State → StepOut :=
  hartRegs [a, d] (fun x =>
    let c := kget x a.toNat
    kput x d.toNat (capWith c false (capCur c) (capPerm c) (capType c)))

/-! ## Requests (R430, R431, R437) -/

/-- The partition and context of a hart's requests (R430). -/
def hartPart (x : Hart) : Nat :=
  if hartVirt x then (let p := x.icr.toNat % 32; if p < 16 then p else 16) else 16
def hartCtx (x : Hart) : Nat := x.icr.toNat / 2 ^ 16 % 1024
def hartWadm (x : Hart) : Bool := x.icr.getLsbD 26

/-- A request of a hart as its owner sees it. -/
def hartIn (x : Hart) (h : Nat) (kind : RKind) (size : Nat) (addr : DWord) (data : Nat) (wcok : Bool) (reg : Nat) : InReq :=
  let k := addr.toNat % 128
  { origin := .hart h reg, part := hartPart x, ctx := hartCtx x, cls := 5, node := 0, addr := addr, kind := kind, op := 0,
    size := size, mask := BitVec.ofNat 128 ((2 ^ size - 1) * 2 ^ k), data := BitVec.ofNat 1024 (data % 2 ^ (8 * size) * 2 ^ (8 * k)),
    a := 0, b := 0, user := decide (x.lvl = .vu), wcok := wcok, peer := 0 }

/-- How a request fares: done with its data, refused, to be tried again, or sent, with the hart waiting for it. -/
inductive HartReq where
  | done (s : State) (data : Nat)
  | refused
  | again (s : State)
  | sent (s : State)

/-- Makes a request of a hart: to paged memory and the aperture of this module, to the host, or to nobody (R431). -/
def hartReq (s : State) (x : Hart) (r : InReq) : HartReq :=
  match r.origin with
  | .hart h reg =>
    if vaNode r.addr = 510 then
      if r.part = 16 ∨ r.kind = .amo then .refused
      else .sent (newReq (setHart s h { x with busy := true })
        { src := 600 + h, part := r.part, ctx := r.ctx, node := 510, addr := r.addr, kind := if r.kind = .wr then .wr else .rd, op := 0, size := r.size,
          a := BitVec.ofNat 128 (r.data.toNat / 2 ^ (8 * (r.addr.toNat % 128))), b := 0, port := none, owner := .hart h reg })
    else if vaNode r.addr = 509 ∨ vaNode r.addr = s.mnode then
      match serveIn s r with
      | .done s poison data => if poison then .refused else .done s data
      | .fail _ => .refused
      | .hold s => .again s
      | .window ls =>
        let (id, s) := fresh (setHart s h { x with busy := true })
        .sent (windowIn { s with inreqs := tset s.inreqs id r } id r ls)
    else .refused
  | _ => .refused

/-- The access-fault cause of a request kind (R431). -/
def accessCause (kind : RKind) : Nat := if kind = .wr then 7 else 5

/-- The hart as a state holds it. -/
def hartOf (s : State) (h : Nat) : Hart := (tget s.harts h).getD Hart.reset

/-- The capability tag of the granule at an address of paged memory; nothing else has one (R438). -/
def tagAt (s : State) (r : InReq) : Option Nat :=
  match route s r.part r.addr with
  | .paged d o =>
    (match inTranslate s r d o with
      | .ok pa _ => some (hkey d pa / 16)
      | _ => none)
  | _ => none

/-- Whether a read of 16 bytes comes with a set tag. -/
def tagSet (s : State) (r : InReq) : Bool :=
  match tagAt s r with
  | some k => decide (mget s.ctag k ≠ 0)
  | none => false

/-- The class of a capability access: its authority's WC decides WCOK at every level (R442). -/
def capWcok (x : Hart) (c : BitVec 129) : Bool := hartWadm x && capHas c 8

/-- CLC (R442). -/
def execClc (i : BitVec 12) (a d : BitVec 5) (s : State) : StepOut :=
  hartWord (fun h x =>
    if 16 ≤ a.toNat ∨ 16 ≤ d.toNat then illegal s
    else
      let c := kget x a.toNat
      let addr := BitVec.ofNat 64 (capCur c) + i.signExtend 64
      match capCheck c [0, 3] addr.toNat 16 with
      | some code => .exc 28 (BitVec.ofNat 64 code)
      | none =>
        if addr.toNat % 16 ≠ 0 then .exc 4 addr
        else
          let reg := (if capHas c 8 then 32 else 48) + d.toNat
          let r := hartIn x h .rd 16 addr 0 (capWcok x c) reg
          match hartReq s x r with
          | .done s' data => .next s' (hartPast (kput x d.toNat (capLoad c data (tagSet s r))))
          | .refused => .exc 5 addr
          | .again s' => .next s' x
          | .sent s' => .next s' (hartOf s' h)) s

/-- CSC (R442). -/
def execCsc (i : BitVec 7) (b a j : BitVec 5) (s : State) : StepOut :=
  hartWord (fun h x =>
    if 16 ≤ a.toNat ∨ 16 ≤ b.toNat then illegal s
    else
      let c := kget x a.toNat
      let v := kget x b.toNat
      let addr := BitVec.ofNat 64 (capCur c) + (i ++ j).signExtend 64
      match capCheck c [1, 4] addr.toNat 16 with
      | some code => .exc 28 (BitVec.ofNat 64 code)
      | none =>
        if addr.toNat % 16 ≠ 0 then .exc 6 addr
        else
          let r := hartIn x h .wr 16 addr (v.toNat % 2 ^ 128) (capWcok x c) 64
          match hartReq s x r with
          | .done s' _ =>
            let s' := match tagAt s r with
              | some k => if capTag v then { s' with ctag := mset s'.ctag k 1 } else s'
              | none => s'
            .next s' (hartPast x)
          | .refused => .exc 7 addr
          | .again s' => .next s' x
          | .sent s' => .next s' (hartOf s' h)) s

/-! ## CJALR (R443) -/

/-- What a jump or call leaves: the link, KP, k15 and the PC. -/
def hartGo (x : Hart) (kp k15 : BitVec 129) : Hart :=
  let x := kput x 15 k15
  { x with kp := kp, pc := BitVec.ofNat 64 (capCur kp), fetched := none }

/-- One word pair of a gate block: read as data under the gate's authority. -/
def gateRead (s : State) (x : Hart) (h : Nat) (c : BitVec 129) (addr : DWord) : HartReq × Bool :=
  let r := hartIn x h .rd 16 addr 0 (capWcok x c) 0
  if vaNode addr = 510 then
    (if hartPart x ≠ 16 && decide (mget s.tdi (hartPart x) = 2)
        && !(s.hostRefused.contains (((tget s.ctxs (hartPart x * 1024 + hartCtx x)).map (fun c => c.pasid)).getD 0, vaOff addr / 4096))
      then .done s (mbytes s.host (vaOff addr) 16) else .refused, false)
  else
    match hartReq s x r with
    | .sent _ => (.refused, false)
    | q => (q, tagSet s r)

/-- A call through a gate. -/
def gateCall (s : State) (h : Nat) (x : Hart) (d : Nat) (c : BitVec 129) : HartEff :=
  let cur := capCur c
  if !capTag c then .exc 28 1
  else if !(capHas c 7 && capHas c 3) then .exc 28 3
  else if cur % 32 ≠ 0 ∨ cur < capBase c ∨ capTop c < cur + 32 then .exc 28 4
  else
    let a0 := BitVec.ofNat 64 cur
    let a1 := BitVec.ofNat 64 (cur + 16)
    match gateRead s x h c a0 with
    | (.done _ w0, t0) =>
      (match gateRead s x h c a1 with
        | (.done _ w1, t1) =>
          let g0 := capLoad c w0 t0
          let g1 := capLoad c w1 t1
          if !(capTag g0 && capTag g1) then .exc 28 1
          else if capType g0 ≠ 0 ∨ capType g1 ≠ 0 then .exc 28 2
          else if !(capHas g0 2) then .exc 28 3
          else
            let x' := if d = 0 then x
              else kput (kput x d (capWith x.kp (capTag x.kp) (x.pc + 4).toNat (capPerm x.kp) 15)) (d + 1)
                (capWith (kget x 15) (capTag (kget x 15)) (capCur (kget x 15)) (capPerm (kget x 15)) 15)
            .next s (hartGo x' g0 g1)
        | (.again s, _) => .next s x
        | _ => .exc 5 a1)
    | (.again s, _) => .next s x
    | _ => .exc 5 a0

/-- CJALR: a jump, a call through a gate, or a return (R443). -/
def execCjalr (b a d : BitVec 5) (s : State) : StepOut :=
  hartWord (fun h x =>
    if 16 ≤ a.toNat ∨ 16 ≤ b.toNat ∨ d.toNat % 2 ≠ 0 ∨ 12 < d.toNat then illegal s
    else
      let c := kget x a.toNat
      if capType c = 0 then
        if b ≠ 0 then illegal s
        else
          match capCheck c [2] (capCur c) 2 with
          | some code => .exc 28 (BitVec.ofNat 64 code)
          | none => .next s (hartGo (kput x d.toNat (capAt x.kp (x.pc + 4))) c (kget (kput x d.toNat (capAt x.kp (x.pc + 4))) 15))
      else if capType c ≤ 14 then (if b ≠ 0 then illegal s else gateCall s h x d.toNat c)
      else
        let k := kget x b.toNat
        if !(capTag k && decide (capType k = 15)) then .exc 28 2
        else .next s (hartGo x (capWith c (capTag c) (capCur c) (capPerm c) 0) (capWith k (capTag k) (capCur k) (capPerm k) 0))) s

/-! ## Notify words (R444) -/

/-- The register a notify word names, or why it raises an exception: cause and tval. -/
def notifyAt (s : State) (x : Hart) (idx : DWord) (cause : Nat) : Except (Nat × DWord) Nat :=
  let p := x.icr.toNat % 32
  if x.lvl = .vu && !(capHas (kget x 15) 9) then .error (28, 3)
  else if 4096 ≤ idx.toNat ∨ 16 ≤ p ∨ capOn s p capNotify = false then .error (cause, idx)
  else .ok (p * 4096 + idx.toNat)

/-- WFN: the hart stays at its word until the register has reached the threshold (R444). -/
def execWfn (b a d : BitVec 5) (s : State) : StepOut :=
  hartWord (fun _ x =>
    match notifyAt s x (xget x a.toNat) 5 with
    | .error (c, t) => .exc c t
    | .ok k =>
      let v := mget s.notify k
      if (xget x b.toNat).toNat ≤ v.toNat then .next s (hartPast (xput x d.toNat v)) else .next s x) s

/-- The RMW of NTFY on a notify register, with `f` of the old value and the operand (R444). -/
def notifyRmw (b a d : BitVec 5) (f : DWord → DWord → DWord) (s : State) : StepOut :=
  hartWord (fun _ x =>
    match notifyAt s x (xget x a.toNat) 7 with
    | .error (c, t) => .exc c t
    | .ok k =>
      let old := mget s.notify k
      .next (writeT s (.notify (k / 4096) (k % 4096)) 8 (f old (xget x b.toNat)).toNat) (hartPast (xput x d.toNat old))) s

/-- NTFY: adds (R444). -/
def execNtfy (b a d : BitVec 5) : State → StepOut := notifyRmw b a d (fun old v => old + v)

/-- NTFY.SET: writes (R444). -/
def execNtfySet (b a d : BitVec 5) : State → StepOut := notifyRmw b a d (fun _ v => v)

/-! ## Events of a hart -/

/-- HART_DEVICE_ACCESS: the request of a RISC-V load or store of hart `h`: checked against k15 at VU, then made under
R431. The word itself is one of the RISC-V specification; its PC is not moved here (R431, R436, R437). -/
def execHartDeviceAccess (h : Nat) (store : Bool) (size : Nat) (addr : BitVec 64) (reg : Nat) (s : State) : StepOut :=
  .next (match tget s.harts h with
    | none => s
    | some x =>
      if x.busy || x.refused.isSome || !([1, 2, 4, 8].contains size) || decide (31 < reg) then s
      else
        let k15 := kget x 15
        let chk := if x.lvl = .vu then capCheck k15 [if store then 1 else 0] addr.toNat size else none
        match chk with
        | some code => takeException s h x 28 (BitVec.ofNat 64 code)
        | none =>
          if addr.toNat % size ≠ 0 then takeException s h x (if store then 6 else 4) addr
          else
            let wcok := hartWadm x && (decide (x.lvl ≠ .vu) || capHas k15 8)
            let kind : RKind := if store then .wr else .rd
            let r := hartIn x h kind size addr (xget x reg).toNat wcok reg
            match hartReq s x r with
            | .done s' data => setHart s' h (if store then x else xput x reg (BitVec.ofNat 64 data))
            | .refused => takeException s h x (accessCause kind) addr
            | .again s' =>
              let (id, s') := fresh (setHart s' h { x with busy := true })
              { s' with inreqs := tset s'.inreqs id r }
            | .sent s' => s')

/-- HART_TRAP: a hart at VU traps to VS (R435). -/
def execHartTrap (h cause : Nat) (tval : BitVec 64) (s : State) : StepOut :=
  .next (match tget s.harts h with
    | none => s
    | some x =>
      if x.lvl = .vu ∧ x.busy = false ∧ x.refused = none then
        setHart s h { trapVS x (BitVec.ofNat 64 cause) tval with fetched := none }
      else s)

/-- HART_SRET: a hart at VS executes sret to VU: KP is k14 with its cursor at sepc, or a capability fault at VS
(R435). -/
def execHartSret (h : Nat) (s : State) : StepOut :=
  .next (match tget s.harts h with
    | none => s
    | some x =>
      let st := (csrGet x 0x200).toNat
      if x.lvl = .vs ∧ st / 256 % 2 = 0 ∧ x.busy = false ∧ x.refused = none then
        let k14 := kget x 14
        if !capTag k14 then takeException s h x 28 1
        else if capType k14 ≠ 0 then takeException s h x 28 2
        else if !(capHas k14 2) then takeException s h x 28 3
        else
          let st' := st - st / 2 % 2 * 2 - st / 32 % 2 * 32 + st / 32 % 2 * 2 + 32
          let x' := csrPut x 0x200 (BitVec.ofNat 64 st')
          setHart s h { x' with kp := capAt k14 (csrGet x 0x241), pc := csrGet x 0x241, lvl := .vu, fetched := none }
      else s)

end Sys2Proof.Machine
end

