-- ==== Sys2Proof/Machine/Keystone.lean ====
section
/-! DEFINITION. The keystone and module reset: the boot chain (R445, R461), identity and attestation (R446, R447), the
security sessions of the DOE mailbox (R415, R416), the key store and its alarms (R448 to R450), and error records (R451 to
R456). -/

namespace Sys2Proof.Machine

/-! ## Module reset (R461) -/

/-- Step 1 of module reset: everything takes its reset value. What stays lies outside the module or in the keystone: the
host, the fuses, the log, and the model's own fields. -/
def moduleReset (s : State) (h : Hold) : State :=
  { State.reset with
    host := s.host, hostRefused := s.hostRefused, elog := s.elog, elogLost := s.elogLost, elogSeq := s.elogSeq,
    ident := s.ident, pgood := s.pgood, tripped := s.tripped, logKeep := s.logKeep, hold := h,
    sent := s.sent, inputs := s.inputs, issuer := s.issuer, clock := s.clock, uid := s.uid }

/-- A request for module reset; a module that waits for its power to be removed does not answer it (R449, R460, R461). -/
def requestReset (s : State) : State :=
  match s.hold with
  | .none => moduleReset s .boot
  | .boot => moduleReset s .boot
  | .power => s
  | .erase => s
  | .trip => s

/-- MNODE as the straps give it, with a record of kind 8 for a value that names no valid node (R461). -/
def readStraps (s : State) : State :=
  let v := Config.nodeStrap.toNat
  if v < 384 ∨ v = 509 then { s with mnode := v } else logError { s with mnode := 509 } 8 0 0 0 0 0 0

/-- A stage that does not verify: it is not started, every port is DOWN, and BOOT names the stage (R445, R461). -/
def bootFails (s : State) (stage : Nat) : State :=
  logError { s with bootSt := stage, links := List.replicate 20 Link.reset } 7 0 0 0 0 0 0

/-- What follows the verification of a stage (R445, R446, R461). -/
def bootStage (s : State) (stage : Nat) (digest : BitVec 512) : State :=
  let s := { s with stage := stage, meas := mset s.meas stage digest }
  match stage with
  | 1 => { s with ident := true, aliasOf := some digest }
  | 2 => enableLink (enableLink (readStraps s) portH) portC
  | 4 => { s with hold := .none, bootSt := 15 }
  | _ => s

/-- BOOT_STAGE_VERIFY: the stage after those that have been verified. `pk` is the SHA3-512 digest of the public key its
image comes with, `ok` says that the signature over the header and the body's digest verifies with that key (R445). -/
def execBootStageVerify (stage : Nat) (ok : Bool) (svn : Nat) (pk digest : BitVec 512) (s : State) : StepOut :=
  .next (if s.hold = .boot ∧ s.bootSt = 0 ∧ stage = s.stage + 1 ∧ stage ≤ 4 then
      (if ok && decide (pk = Config.keyDigest) && decide (Config.minSvn.toNat ≤ svn) then bootStage s stage digest
       else bootFails s stage)
    else s)

/-! ## Attestation (R446, R447) -/

/-- The bytes of an ASCII text. -/
def asciiBytes (t : String) : List Nat := t.toList.map Char.toNat

/-- The seed of the identity key (R446). -/
def identitySeed : BitVec 256 :=
  BitVec.ofNat 256 (littleEndian ((sha3 (bytesLittle Config.fusedSeed.toNat 32 ++ asciiBytes "Q960-ID")).take 32))

/-- The seed of the alias key under measurement 1 (R446). -/
def aliasSeed (m1 : BitVec 512) : BitVec 256 :=
  BitVec.ofNat 256 (littleEndian ((sha3 (bytesLittle Config.fusedSeed.toNat 32 ++ asciiBytes "Q960-ALIAS"
    ++ bytesLittle m1.toNat 64)).take 32))

/-- Measurement 0x30: the fused key digest and minimum SVN (R447). -/
def fusedMeasure : BitVec 512 :=
  BitVec.ofNat 512 (littleEndian (sha3 (bytesLittle Config.keyDigest.toNat 64 ++ bytesLittle Config.minSvn.toNat 4)))

/-- A measurement by its index (R447). -/
def measurement (s : State) (i : Nat) : BitVec 512 := if i = 0x30 then fusedMeasure else mget s.meas i

/-- The indices of R447, rising. -/
def measIndices : List Nat := [1, 2, 3, 4] ++ (List.range 16).map (0x10 + ·) ++ (List.range 16).map (0x20 + ·) ++ [0x30]

def toBytes (l : List Nat) : List Byte := l.map (BitVec.ofNat 8)

/-- Every measurement, each after its index. -/
def measBytes (s : State) : List Byte :=
  toBytes (measIndices.flatMap (fun i => i :: bytesLittle (measurement s i).toNat 64))

/-- The certificate chain and its digest. -/
def chainOf (s : State) : List Byte := Config.certificate identitySeed (aliasSeed (s.aliasOf.getD 0))
def chainDigest (s : State) : List Byte := toBytes (sha3 ((chainOf s).map BitVec.toNat))

/-- A signature with the alias key (R446). -/
def signed (s : State) (nonce : BitVec 256) (data : List Byte) : BitVec 37016 :=
  Config.signature (aliasSeed (s.aliasOf.getD 0)) nonce data

/-- Whether the keystone's firmware answers the mailbox, which lies behind port H (R415, R447). -/
def doeUp (s : State) : Bool := s.aliasOf.isSome && portUp s portH

/-- Answers a request of the SPDM connection when it has come as far as `need`; before that, ERROR (log 29). -/
def spdmAnswer (s : State) (r need : Nat) (f : State → State) : State :=
  if !(doeUp s) then s
  else if s.spdm.stage < need then sendMsg s (.spdm r 0x7F (toBytes [4]) none)
  else f s

/-- GET_VERSION: begins a connection (R447). -/
def execGetVersion (r : Nat) (s : State) : StepOut :=
  .next (spdmAnswer s r 0 (fun s => sendMsg { s with spdm := { stage := 1, sessions := [] } } (.spdm r 0x04 (toBytes [0x13]) none)))

/-- GET_CAPABILITIES (R447). -/
def execGetCapabilities (r : Nat) (s : State) : StepOut :=
  .next (spdmAnswer s r 1 (fun s =>
    sendMsg { s with spdm := { s.spdm with stage := max s.spdm.stage 2 } } (.spdm r 0x61 [] none)))

/-- NEGOTIATE_ALGORITHMS: ML-DSA-87 and SHA3-512 (R447). -/
def execNegotiateAlgorithms (r : Nat) (s : State) : StepOut :=
  .next (spdmAnswer s r 2 (fun s =>
    sendMsg { s with spdm := { s.spdm with stage := 3 } } (.spdm r 0x63 (toBytes (asciiBytes "ML-DSA-87 SHA3-512")) none)))

/-- GET_DIGESTS: the digest of the certificate chain (R447). -/
def execGetDigests (r : Nat) (s : State) : StepOut :=
  .next (spdmAnswer s r 3 (fun s => sendMsg s (.spdm r 0x01 (chainDigest s) none)))

/-- GET_CERTIFICATE: the chain of the identity and alias keys (R446, R447). -/
def execGetCertificate (r : Nat) (s : State) : StepOut :=
  .next (spdmAnswer s r 3 (fun s => sendMsg s (.spdm r 0x02 (chainOf s) none)))

/-- CHALLENGE: the chain's digest and the measurements' digest, signed with the alias key (R446, R447). -/
def execChallenge (r : Nat) (nonce : BitVec 256) (s : State) : StepOut :=
  .next (spdmAnswer s r 3 (fun s =>
    let d := chainDigest s ++ toBytes (sha3 ((measBytes s).map BitVec.toNat))
    sendMsg s (.spdm r 0x03 d (some (signed s nonce d)))))

/-- GET_MEASUREMENTS: every measurement, signed with the alias key (R446, R447). -/
def execGetMeasurements (r : Nat) (nonce : BitVec 256) (s : State) : StepOut :=
  .next (spdmAnswer s r 3 (fun s => sendMsg s (.spdm r 0x60 (measBytes s) (some (signed s nonce (measBytes s))))))

/-- KEY_EXCHANGE: opens the session `r` for IDE_KM and TDISP messages (R447). -/
def execKeyExchange (r : Nat) (data : BitVec 512) (s : State) : StepOut :=
  .next (spdmAnswer s r 3 (fun s =>
    let d := Config.keyShare s.clock data
    sendMsg { s with spdm := { s.spdm with sessions := if s.spdm.sessions.contains r then s.spdm.sessions else s.spdm.sessions ++ [r] } }
      (.spdm r 0x64 d (some (signed s 0 d)))))

/-! ## IDE and TDISP (R415, R416) -/

/-- Serves a message of an open session; without one, ERROR. -/
def inSession (s : State) (r : Nat) (f : State → State) : State :=
  spdmAnswer s r 3 (fun s => if s.spdm.sessions.contains r then f s else sendMsg s (.spdm r 0x7F (toBytes [4]) none))

/-- The answer to a message of a session. -/
def sessionSays (s : State) (r code : Nat) (data : List Byte) : State := sendMsg s (.spdm r 0x7E (toBytes [code] ++ data) none)

def ideOf (s : State) (k : Nat) : IdeSt := (tget s.ide k).getD .off

/-- IDE_KM_MESSAGE: query (0), key programming (2), start (4) or stop (5) of a stream: 0 to 15 of the VFs, 16 of PF0, 17 of
CXL IDE (R415, R418, log 29). -/
def execIdeKmMessage (r stream op : Nat) (key : BitVec 256) (s : State) : StepOut :=
  .next (inSession s r (fun s =>
    if 18 ≤ stream then sessionSays s r 0x7F []
    else
      match op with
      | 0 => sessionSays s r 1 (toBytes [match ideOf s stream with
          | .off => 0 | .keyed => 1 | .secure => 2 | .failed => 3])
      | 2 => sessionSays { s with
          ideKeys := mset s.ideKeys stream key
          ide := tset s.ide stream (if ideOf s stream = .secure then .secure else .keyed) } r 3 []
      | 4 => if ideOf s stream = .keyed ∨ ideOf s stream = .secure then sessionSays { s with ide := tset s.ide stream .secure } r 6 []
             else sessionSays s r 0x7F []
      | 5 => sessionSays { s with ide := tset s.ide stream .off, ideKeys := mset s.ideKeys stream 0 } r 6 []
      | _ => sessionSays s r 0x7F []))

/-- An interface that is locked or running goes to ERROR (R416). -/
def tdiError (s : State) (p : Nat) : State :=
  if mget s.tdi p = 1 ∨ mget s.tdi p = 2 then { s with tdi := mset s.tdi p 3 } else s

/-- IDE_STREAM_FAILURE: the stream fails, and the interface of its VF enters ERROR (R416). -/
def execIdeStreamFailure (stream : Nat) (s : State) : StepOut :=
  .next (if ideOf s stream = .keyed ∨ ideOf s stream = .secure then
      (let s := { s with ide := tset s.ide stream .failed }
       if stream < 16 then { s with tdi := mset s.tdi stream 3 } else s)
    else s)

/-- TDISP_MESSAGE to the interface of VF `f`: lock (0x83), state (0x85), start (0x86) with the nonce of the lock, stop
(0x87); anything else, and a message the state does not accept, is answered with an error (R416, log 29). -/
def execTdispMessage (r f msg : Nat) (arg : BitVec 256) (s : State) : StepOut :=
  .next (inSession s r (fun s =>
    let st := (mget s.tdi f).toNat
    if 16 ≤ f ∨ tget s.parts f = none then sessionSays s r 0x7F []
    else
      match msg with
      | 0x83 =>
        if st = 0 ∧ ideOf s f = .secure then
          let n := Config.randomKey s.clock
          sessionSays { s with tdi := mset s.tdi f 1, tdiNonce := mset s.tdiNonce f n } r 0x03 (toBytes (bytesLittle n.toNat 32))
        else sessionSays s r 0x7F []
      | 0x85 => sessionSays s r 0x05 (toBytes [st])
      | 0x86 =>
        if st = 1 ∧ ideOf s f = .secure ∧ mget s.tdiNonce f = arg then
          sessionSays { s with tdi := mset s.tdi f 2, tdiNonce := mset s.tdiNonce f 0 } r 0x06 []
        else sessionSays s r 0x7F []
      | 0x87 => sessionSays { s with tdi := mset s.tdi f 0, tdiNonce := mset s.tdiNonce f 0 } r 0x07 []
      | _ => sessionSays s r 0x7F []))

/-- TENANT_IMAGE_LOAD: Quinmin hands a tenant image to the keystone, which measures it (R21, R447). -/
def execTenantImageLoad (p : Nat) (digest : BitVec 512) (s : State) : StepOut :=
  .next (if p < 16 ∧ capOn s p capService = true then { s with meas := mset s.meas (0x10 + p) digest } else s)

/-! ## Alarms (R449, R450) -/

/-- A CONTEXT alarm: DESTROY, with ABORTED for a command in progress, then the record; a context that is DESTROYED already
gives the record only (R449, R450). -/
def contextAlarm (s : State) (p c : Nat) : State :=
  let done := match tget s.ctxs (p * 1024 + c) with
    | none => s
    | some x =>
      if x.st = .destroyed then s
      else destroyCtx (if x.cmd ≠ 0 then ctxDone s p c 8 else s) p c
  logError done 5 2 p 0 0 c 0

/-- An ERASE alarm: every key but FS is erased, and the module is held in reset until its power is removed (R449). -/
def eraseAlarm (s : State) : State :=
  if s.hold = .power then s
  else logError { moduleReset s .erase with ident := false, logKeep := true } 5 3 0 0 0 0 0

/-- TAG_REFUSAL_LIMIT: the fourth TAG refusal of a context (R450). -/
def execTagRefusalLimit (p c : Nat) (s : State) : StepOut :=
  .next (match tget s.keys (p * 1024 + c) with
    | some k => if 4 ≤ k.refusals then contextAlarm s p c else s
    | none => s)

/-- KEYSTONE_KILL_REQUEST (R450). -/
def execKeystoneKillRequest (p c : Nat) (s : State) : StepOut :=
  .next (if p < 16 ∧ c < 1024 ∧ s.hold = .none then contextAlarm s p c else s)

/-- KEY_STORE_ERROR: an uncorrectable error in a context's entry, or in another one (R448, R450). -/
def execKeyStoreError (p c : Nat) (other : Bool) (s : State) : StepOut :=
  .next (if other then eraseAlarm s
    else if p < 16 ∧ c < 1024 then contextAlarm s p c else s)

/-- ERASE_ALARM: a glitch detector, the tamper mesh, or an internal fault of the keystone (R450). -/
def execEraseAlarm (src : Nat) (s : State) : StepOut := .next (if src < 3 then eraseAlarm s else s)

/-! ## Errors of the check codes (R451 to R454) -/

/-- The 16-byte granule of an error, or its row where it lies in HBM (R328, R454). -/
def errPlace (hop : Nat) (addr : DWord) : Nat := if hop = 1 then addr.toNat / 1024 else addr.toNat / 16

/-- How many corrected errors a unit has had in a row at a place, with this one. -/
def errRun (s : State) (hop unit : Nat) (addr : DWord) : Nat :=
  match tget s.corr (hop * 65536 + unit % 65536) with
  | some (a, n) => if a = errPlace hop addr then n + 1 else 1
  | none => 1

/-- A corrected error: a record of kind 1, and with the eighth at one place one of kind 4 (R454). -/
def corrected (s : State) (hop unit : Nat) (addr : DWord) : State :=
  let n := errRun s hop unit addr
  let s := logError s 1 0 0 hop addr 0 unit
  let s := { s with corr := tset s.corr (hop * 65536 + unit % 65536) (errPlace hop addr, if n = 8 then 0 else n) }
  if n = 8 then logError s 4 0 0 hop addr 0 unit else s

/-- CORRECTED_ERROR (R451, R454). -/
def execCorrectedError (hop unit : Nat) (addr : BitVec 64) (s : State) : StepOut :=
  .next (if 1 ≤ hop ∧ hop ≤ 6 then corrected s hop unit addr else s)

/-- REPEATED_CORRECTION: a corrected error that is the eighth at its place (R454). -/
def execRepeatedCorrection (hop unit : Nat) (addr : BitVec 64) (s : State) : StepOut :=
  .next (if 1 ≤ hop ∧ hop ≤ 6 ∧ errRun s hop unit addr = 8 then corrected s hop unit addr else s)

/-- UNCORRECTABLE_ERROR: the granule at the address is poisoned, and a record of kind 2 is written (R451, R452). The address
is a place in HBM (die * 2^53 + offset), or of a scratchpad (core * 2^21 + offset) at hop 3, or of a copy of host memory, with node
510; an uncorrectable error of the key
store is an alarm (R450). -/
def execUncorrectableError (hop unit : Nat) (addr : BitVec 64) (s : State) : StepOut :=
  .next (if hop = 0 ∨ 6 ≤ hop then s
    else if hop = 3 then logError { s with spoison := mset s.spoison (addr.toNat / 8) 1 } 2 0 0 hop addr 0 unit
    else if vaNode addr = 510 then logError { s with hostPoison := mset s.hostPoison (vaOff addr / 16) 1 } 2 0 0 hop addr 0 unit
    else logError { s with poison := mset s.poison (addr.toNat / 16) 1 } 2 0 0 hop addr 0 unit)

end Sys2Proof.Machine
end

