-- ==== Sys2Proof/Machine/Waits.lean ====
section
/-! DEFINITION. What ends the waits of groups: WAIT_SATISFIED, the register-block allocator (R150), the last exit
(R159), service calls (R264 to R267), second-stage faults (R218), and translations that the host or Quinmin takes
back (R217, R228). -/

namespace Sys2Proof.Machine

/-! ## Waits inside instructions -/

/-- Goes on with a child launch that was stalled on the limit of children (R138). -/
def resumeLaunch (s : State) (gid side : Nat) (g : Group) (addr : DWord) (d : Nat) : State :=
  let is := issueOf s gid side g 0
  finish is (launchChild is addr d)

/-- Whether the slots of a group stand still: the device holds it back, or it is entering a trap (R253). -/
def standsStill (s : State) (g : Group) : Bool := heldBack s g || entering g.a || entering g.b

/-! ## The sequencer stores (R338, R349) -/

/-- Whether a partition holds a channel (R330, R391, R399): a joining channel from the end of ADMIT, a leaving one until
DETACH. -/
def holdsChan (s : State) (p die stack ch : Nat) : Bool :=
  match tget s.parts p with
  | none => false
  | some pt =>
    let bit := 32 * stack + ch
    (pt.chans.getD die 0).testBit bit
      || (decide (pt.st = .resizing) && decide (3 ≤ pt.phase) && (pt.tchans.getD die 0).testBit bit)

/-- The stacks in which a partition holds a channel (R338). -/
def stacksOf (s : State) (p : Nat) : List Nat :=
  (List.range 8).filter (fun k => (List.range 32).any (fun ch => holdsChan s p (k / 2) (k % 2) ch))

/-- The allotment of a partition: SQBASE and SQLEN. -/
def allotment (s : State) (p : Nat) : Nat × Nat :=
  match tget s.parts p with
  | some pt => (pt.sqbase, pt.sqlen)
  | none => (0, 0)

/-- Whether a command of a partition runs a microprogram in its stores (R349). -/
def programsRun (s : State) (p : Nat) : Bool := s.nbcmds.any (fun c => decide (c.2.part = p) && decide (c.2.kind = 0) && c.2.started)

/-- Writes an image to the stores of every stack of a partition (R338, R349). -/
def loadStores (s : State) (x : NbLoad) : State :=
  { s with seqst := (stacksOf s x.part).foldl (fun m k =>
      (x.img.zip (List.range x.img.length)).foldl (fun m y => mset m (k * 4096 + x.base + y.2) y.1) m) s.seqst }

/-- An NBLD goes on once no microprogram of its partition runs (R349). -/
def loadGoesOn (s : State) (id : Nat) (x : NbLoad) : State :=
  if programsRun s x.part then s
  else
    { loadStores s x with
      nblds := tdel s.nblds id
      groups := tmod s.groups x.gid (fun g => setSlot (setSreg g x.d 0) x.side (advance (slotOf g x.side))) }

/-! ## WAIT_SATISFIED -/

/-- WAIT_SATISFIED: what a slot waits for is there: the counters of a WAIT (R180) or of a VSW that drains (R137), a switch request
that is withdrawn (R137), every group of the workgroup at an RGB (R162), room for a child (R138) or for a copy that retires at once
(R172), engine locks that a bind waits for (R311), microprograms that an NBLD waits for (R349), stores under an old grant (R313), a free ring slot (R266), an operator that is FREE (R312), passes that have ended (R315), a flip that is over (R225). -/
def execWaitSatisfied (g side : Nat) (s : State) : StepOut :=
  .next (match tget s.groups g with
    | none => s
    | some x =>
      if x.st ≠ .resident then s
      else
        let sl := slotOf x side
        let code (s : State) (d n : Nat) : State :=
          { s with groups := tmod s.groups g (fun x => setSlot (setSreg x d (BitVec.ofNat 64 n)) side (advance (slotOf x side))) }
        match sl.wait with
        | .counters lim =>
          if waitMet x lim then
            completeWait s g side (match x.ref with
              | some r => waitTests lim r.cls
              | none => false) (lim.toNat / 2 ^ 16 % 16 ≠ 15)
          else s
        | .vsw j gathered =>
          if (tget s.blocks x.blk).map (fun b => b.joint) = some false then setGroup s g (setSlot x side (advance sl))
          else if gathered then vswCheck s x.blk
          else
            let s := drainLdSt s g
            (match tget s.groups g with
              | none => s
              | some x =>
                if x.out.isEmpty then vswCheck (setGroup s g (setSlot x side (beginWait (slotOf x side) (.vsw j true)))) x.blk else s)
        | .rgb _ _ _ => rgbGather s g x
        | .engine id =>
          (match tget s.copies id with
            | some c => if c.ends.isSome && !c.started && !(standsStill s x) then startCopy s id c else s
            | none =>
              match tget s.binds id with
              | some b => if standsStill s x then s else bindGoesOn s id b
              | none =>
                match tget s.nblds id with
                | some b => if standsStill s x then s else loadGoesOn s id b
                | none => s)
        | .claunch addr d =>
          (match tget s.blocks x.blk with
            | some b => if b.kids < 64 ∧ standsStill s x = false then resumeLaunch s g side x addr d else s
            | none => s)
        | .sysc m k => if standsStill s x then s else sysPost s g side m k
        | .opFree c i d => if opGone s (c * 64 + i) then code s d 0 else s
        | .opGrant c i w d => if grantSettled s (c * 64 + i) w then code s d 0 else s
        | .opDisc c i w d =>
          (match discard s (c * 64 + i) w with
            | some s => code s d 0
            | none => s)
        | .flip d id => if (tget s.flips id).isNone then code s d 0 else s
        | _ => s)

/-! ## The allocator (R150) -/

/-- The request of a group that is not answered. -/
def requestOf (s : State) (gid : Nat) : Option (Nat × SvcReq) := s.svcreqs.find? (fun r => decide (r.2.gid = gid))

/-- Whether what a parked group waited for has come: its second stage, or the wake of its request (R218, R265). -/
def woken (s : State) (gid : Nat) (g : Group) : Bool :=
  if g.reason = 5 then
    match g.s2at with
    | some (d, page) => !(s.s2wait.contains ((reqOf s g).part, d, page))
    | none => true
  else if g.reason = 2 ∨ g.reason = 6 then (requestOf s gid).elim false (fun r => r.2.woken)
  else false

/-- The total of extended blocks that a requester asks for: a group blocked in XACQ its request, a group the allocator
parked what it held or had requested, another that waits to return what it held (R150). -/
def wantsBlocks (s : State) (gid : Nat) (g : Group) : Option Nat :=
  match g.st with
  | .resident =>
    (match g.a.wait, g.b.wait with
      | .xacq n, _ => some n
      | _, .xacq n => some n
      | _, _ => none)
  | .parked =>
    if g.reason = 1 then some (g.xreq.getD g.held)
    else if g.held ≠ 0 && woken s gid g && (tget s.blocks g.blk).elim false (fun b => !b.swapped) then some g.held
    else none
  | .exiting => none
  | .exited => none

/-- The requester of a core to be served first: the oldest (R150 steps 1 and 2). -/
def oldestWant (s : State) (core : Nat) : Option (Nat × Group × Nat) :=
  s.groups.foldl (fun best x =>
    if x.2.core = core then
      match wantsBlocks s x.1 x.2, best with
      | some n, none => some (x.1, x.2, n)
      | some n, some b => if x.2.age < b.2.1.age then some (x.1, x.2, n) else best
      | none, _ => best
    else best) none

/-- The extended blocks that are free on a core (R149). -/
def freeExt (s : State) (core : Nat) : Nat := extSupply - extUsed s core none

/-- What a request needs beyond what its group holds on the core. -/
def needBlocks (g : Group) (n : Nat) : Nat := if g.st = .parked then n else n - g.held

/-- Completes the XACQ of a group (R161): the blocks it takes read zero, since they were not listed. -/
def grantBlocks (g : Group) (n : Nat) : Group :=
  let go (sl : Slot) : Slot := match sl.wait with
    | .xacq _ => advance sl
    | _ => sl
  { g with held := max g.held n, xreq := none, a := go g.a, b := go g.b }

/-- XACQ_GRANT: the oldest requester of a core is blocked in XACQ and its request fits (R150 step 1). -/
def execXacqGrant (core : Nat) (s : State) : StepOut :=
  .next (match oldestWant s core with
    | some (gid, g, n) =>
      if g.st = .resident ∧ needBlocks g n ≤ freeExt s core then setGroup s gid (grantBlocks g n) else s
    | none => s)

/-- Whether a core is deadlocked (R150 step 3). -/
def allocDeadlock (s : State) (core : Nat) : Bool :=
  match oldestWant s core with
  | none => false
  | some (_, g, n) =>
    decide (freeExt s core < needBlocks g n)
      && !(s.groups.any (fun x => decide (x.2.core = core) && decide (x.2.held ≠ 0) && groupIssuing x.2))

/-- The youngest group of a core that `f` accepts. -/
def youngest (s : State) (core : Nat) (f : Group → Bool) : Option Nat :=
  (s.groups.foldl (fun (best : Option (Nat × Nat)) x =>
    if x.2.core = core && f x.2 then
      match best with
      | none => some (x.1, x.2.age)
      | some b => if b.2 < x.2.age then some (x.1, x.2.age) else best
    else best) none).map Prod.fst

/-- The group that the allocator parks (R150 step 4). -/
def allocVictim (s : State) (core : Nat) : Option Nat :=
  let holds (g : Group) : Bool := decide (g.st = .resident) && decide (g.held ≠ 0)
  match youngest s core (fun g => holds g && (wantsBlocks s 0 g).isSome) with
  | some x => some x
  | none => youngest s core (fun g => holds g && !(groupIssuing g))

/-- ALLOCATOR_PARK: on a deadlocked core the allocator parks one group, once its accesses are performed (R143,
R150). Its slot stays its own; its blocks are free. -/
def execAllocatorPark (core : Nat) (s : State) : StepOut :=
  .next (if allocDeadlock s core then
    match allocVictim s core with
    | none => s
    | some gid =>
      let s := drainLdSt s gid
      match tget s.groups gid with
      | none => s
      | some g => if ldStZero g then parkGroup s gid 1 0 else s
    else s)

/-- ALLOCATOR_RETURN: the oldest requester of a core is a group that the allocator parked and its full count fits: it
returns to its core and slot with the age it had, and an XACQ it was blocked in completes (R146, R150). -/
def execAllocatorReturn (core : Nat) (s : State) : StepOut :=
  .next (match oldestWant s core with
    | some (gid, g, n) =>
      if g.st = .parked ∧ g.reason = 1 ∧ n ≤ freeExt s core then
        let s := unparkGroup s gid core g.gslot g.age
        { s with groups := tmod s.groups gid (fun x =>
            if x.st = .resident then (if g.xreq.isSome then grantBlocks x n else x) else x) }
      else s
    | none => s)

/-! ## The last exit (R143, R159) -/

/-- GROUP_EXIT_COMPLETE: the counters of an exiting group are zero, and it is EXITED; its block and grid may end with
it (R132, R159). -/
def execGroupExitComplete (g : Nat) (s : State) : StepOut :=
  .next (match tget s.groups g with
    | none => s
    | some x => if x.st = .exiting ∧ x.out.isEmpty = true then exitAndCheck s g else s)

/-! ## Service calls (R264 to R267) -/

/-- SERVICE_WAKE: the wake word of a group's request has been equal to its SEQ: the reply records are read (R265). -/
def execServiceWake (g : Nat) (s : State) : StepOut :=
  .next (match requestOf s g with
    | none => s
    | some (id, r) =>
      if !r.hit || r.woken then s
      else
        let rq : Req := { part := r.part, ctx := r.ctx, user := false }
        let woken (w : List DWord) : State := { s with svcreqs := tset s.svcreqs id { r with woken := true, reply := w } }
        if 0x400000 ≤ r.kind then woken []
        else
          match devRead s rq (r.slot + 0x840) 256 with
          | .done w => woken w
          | .failed _ => woken []
          | .s2 d ia => if s2Refused s r.part d ia then woken [] else signalS2 s r.part d ia
          | .wait => s)

/-- How the write of a reply buffer ends (R267). -/
inductive BufRes where
  | ok (s : State)
  | bad
  | wait (s : State)

/-- Where byte `k` of a reply buffer goes. -/
def bufAcc (s : State) (rq : Req) (va : DWord) (k : Nat) : Acc :=
  let a := va + BitVec.ofNat 64 k
  checkAcc s rq .store a 1 a.toNat 1

/-- The node of a reply buffer that lies on another node or in host memory. -/
def bufNode (s : State) (rq : Req) (va : DWord) : Option Nat :=
  match bufAcc s rq va 0 with
  | .ok (.remote node _) _ => some node
  | .ok (.host _) _ => some 510
  | _ => none

/-- Writes the bytes of a reply buffer on this module as the group's own write: all or none (R267). -/
def bufWrite (s : State) (core : Nat) (rq : Req) (va : DWord) (b : List Nat) : BufRes :=
  let accs := (List.range b.length).map (bufAcc s rq va)
  let bad (a : Acc) : Bool := match a with
    | .bad _ _ => true
    | .ok t _ => elsewhere t
    | _ => false
  if accs.any bad then .bad
  else
    match accs.find? (fun a => match a with
      | .ok _ _ => false
      | _ => true) with
    | some (.s2 d ia) => if s2Refused s rq.part d ia then .bad else .wait (signalS2 s rq.part d ia)
    | some _ => .wait s
    | none => .ok ((accs.zip b).foldl (fun s x =>
      match x.1 with
      | .ok t _ => writeBy s core t 1 x.2
      | _ => s) s)

/-- What a lane receives (R263, R267): v0 to v3. -/
def replyRegs (w : List DWord) (rbs : Nat) (bad : Bool) : Nat × List Nat :=
  let w0 := (w.getD 0 0).toNat
  let len := min 48 (w0 / 2 ^ 32 % 2 ^ 16)
  let n := min len rbs
  let v := (w.getD 1 0).toNat
  (n, [w0 % 2 ^ 16 + (if rbs < len then 2 ^ 16 else 0) + (if bad then 2 ^ 17 else 0), n, v % 2 ^ 32, v / 2 ^ 32])

/-- The reply record of a lane. -/
def replyRec (r : SvcReq) (l : Nat) : List DWord := (r.reply.drop (8 * l)).take 8

/-- The buffer of a lane: its address and the bytes it takes (R263, R267). -/
def replyBuf (r : SvcReq) (l : Nat) : DWord × List Nat :=
  let w := replyRec r l
  let n := (replyRegs w (min 48 (r.args.getD (2 * l) 0)) false).1
  (BitVec.ofNat 64 (r.args.getD (2 * l + 1) 0), ((w.drop 2).flatMap (fun x => bytesLittle x.toNat 8)).take n)

/-- The reply buffers on this module, lane by lane: the lanes whose buffer could not be written, or a wait. -/
def replyBuffers (core : Nat) (rq : Req) (r : SvcReq) : List Nat → State → List Nat → State × Option (List Nat)
  | [], s, bad => (s, some bad)
  | l :: rest, s, bad =>
    let (va, bytes) := replyBuf r l
    if bytes.isEmpty || (bufNode s rq va).isSome then replyBuffers core rq r rest s bad
    else
      match bufWrite s core rq va bytes with
      | .ok s => replyBuffers core rq r rest s bad
      | .bad => replyBuffers core rq r rest s (bad ++ [l])
      | .wait s => (s, none)

/-- Sends the reply buffers on other nodes and in host memory, byte by byte (log 28); the request waits for the answers, and keeps the
lanes that were refused (R267). -/
def askReplies (s : State) (core id : Nat) (rq : Req) (r : SvcReq) : State :=
  (lanesOf r.lanes).foldl (fun s l =>
    let (va, bytes) := replyBuf r l
    match bufNode s rq va with
    | none => s
    | some node =>
      (bytes.zip (List.range bytes.length)).foldl (fun s x =>
        newReq { s with svcreqs := tmod s.svcreqs id (fun r => { r with waits := r.waits + 1 }) }
          { src := core, part := r.part, ctx := r.ctx, node := node, addr := va + BitVec.ofNat 64 x.2, kind := .wr, op := 0, size := 1,
            a := BitVec.ofNat 128 x.1, b := 0, port := none, owner := .reply id l }) s)
    { s with svcreqs := tset s.svcreqs id { r with asked := true, waits := 0, bad := [] } }

/-- Whether the allocator of a core lets a group return: no older requester waits there (R150). -/
def allocTurn (s : State) (gid : Nat) (g : Group) (core : Nat) : Bool :=
  decide (g.held = 0) || (match oldestWant s core with
    | some (k, x, _) => decide (k = gid) || decide (g.age < x.age)
    | none => true)

/-- The core on which a parked group can resume: its own workgroup's, else another of its block's, with a free slot and
its extended blocks (R150, R265, R267). -/
def resumeCore (s : State) (gid : Nat) (g : Group) (b : Block) : Option Nat :=
  let fits (c : Nat) : Bool := decide (c < 512) && decide (slotsUsed s c none < slotSupply) && decide (g.held ≤ freeExt s c) && allocTurn s gid g c
  if b.swapped || b.stop || heldBack s g then none
  else (wgCore s b g.wgid :: (List.range b.vcores.length).map (wgCore s b)).find? fits

/-- Makes a parked group resident on a core. -/
def seatGroup (s : State) (gid core : Nat) : State :=
  let (age, s) := fresh s
  unparkGroup s gid core (freeSlot s core) age

/-- A group woken from SYSC: the buffers, then, its request over, the registers of its lanes (R267). -/
def resumeCall (s : State) (gid core id : Nat) (g : Group) (r : SvcReq) : State :=
  let rq : Req := { part := r.part, ctx := r.ctx, user := userLevel g }
  if !r.asked && (lanesOf r.lanes).any (fun l => !(replyBuf r l).2.isEmpty && (bufNode s rq (replyBuf r l).1).isSome) then
    askReplies s core id rq r
  else if r.waits ≠ 0 then s
  else
    match replyBuffers core rq r (lanesOf r.lanes) s r.bad with
    | (s, none) => s
    | (s, some bad) =>
      let s := seatGroup { s with svcreqs := tdel s.svcreqs id } gid core
      { s with groups := tmod s.groups gid (fun x =>
          (lanesOf r.lanes).foldl (fun x l =>
            let v := (replyRegs (replyRec r l) (min 48 (r.args.getD (2 * l) 0)) (bad.contains l)).2
            (List.range 4).foldl (fun x i => setLanes x (laneBit l) i 1 (fun _ => v.getD i 0)) x) x) }

/-- A group woken from an escalation: the device takes from the pool once; without a frame the group is fatal. A
POOLGET then completes with the frame (R221, R233). -/
def resumePool (s : State) (gid core id : Nat) (r : SvcReq) : State :=
  let die := r.args.getD 1 0
  let over_ (s : State) : State := { s with svcreqs := tdel s.svcreqs id }
  let fatal (s : State) : State := groupFatal (over_ s) gid (BitVec.ofNat 64 (r.args.getD 3 0))
  match takeFrame s r.part r.ctx die (decide (r.args.getD 2 0 = 1)) (r.args.getD 0 0) with
  | (s, .empty) => fatal s
  | (s, .s2 d ia) => if s2Refused s r.part d ia then fatal s else signalS2 s r.part d ia
  | (s, .wait) => s
  | (s, .frame f) =>
    let s := seatGroup (over_ s) gid core
    if r.args.length = 6 then
      { s with groups := tmod s.groups gid (fun x =>
          let x := setSreg x (r.args.getD 4 24) (frameValue die f)
          setSlot x (r.args.getD 5 0) (advance (slotOf x (r.args.getD 5 0)))) }
    else s

/-- SERVICE_RESUME: a group parked for a service call or an escalation whose request is WOKEN, or for a second-stage
fault that is over, is made resident once its park area can be read (R218, R221, R265, R267). -/
def execServiceResume (g : Nat) (s : State) : StepOut :=
  .next (match tget s.groups g with
    | none => s
    | some x =>
      match tget s.blocks x.blk with
      | none => s
      | some b =>
        if x.st ≠ .parked ∨ x.reason = 1 ∨ woken s g x = false then s
        else
          match resumeCore s g x b with
          | none => s
          | some core =>
            let ready := unparkReady s b x
            if ready.waits s b.part then waitFor s b.part ready
            else if x.reason = 5 then seatGroup (setGroup s g { x with s2at := none }) g core
            else
              match requestOf s g with
              | some (id, r) => if x.reason = 6 then resumePool s g core id r else resumeCall s g core id x r
              | none => s)

/-! ## Second-stage faults and invalidations -/

/-- The entry that a new second-stage leaf goes into: the first invalid entry on the way, or the level-3 entry. -/
def s2slot (m : SMap 8) (die off : Nat) : Nat → Nat → Option (Nat × Nat)
  | 0, _ => none
  | k + 1, tbl =>
    let pa := tbl + 8 * tblIdx off k
    let e := rdPte m die pa
    if k = 0 then some (0, pa)
    else if !pteV e then some (k, pa)
    else if pteT e then s2slot m die off k (pteOff e)
    else some (k, pa)

/-- STAGE2_RESOLVE: Quinmin maps the page of a second-stage failure with a leaf, or refuses it. `ia` has its die in
bits [54:53] as a frame value has (R218). -/
def execStage2Resolve (p : Nat) (ia leaf : BitVec 64) (ok : Bool) (s : State) : StepOut :=
  .next (
    let die := vaDie ia
    let off := vaOff ia
    let key := (p, die, off / 8192)
    if !(s.s2wait.contains key) then s
    else if ok then
      match s2rootOf s p die with
      | none => s
      | some root =>
        let s := match s2slot s.hbm die off 4 (pteOff root) with
          | some (_, pa) => if pteV leaf && !(pteT leaf) then writeT s (.hbm die pa) 8 leaf.toNat else s
          | none => s
        if (s2translate s p die off).isSome then
          pumpIn (pumpPosts { s with s2wait := s.s2wait.filter (fun x => decide (x ≠ key)), s2refused := s.s2refused.filter (fun x => decide (x ≠ key)) })
        else s
    else pumpIn (pumpPosts { s with s2wait := s.s2wait.filter (fun x => decide (x ≠ key)), s2refused := s.s2refused ++ [key] }))

/-- The places of the second-stage entries on the way to an offset, from a table with `k` levels on. -/
def s2path (m : SMap 8) (die off : Nat) : Nat → Nat → List Nat
  | 0, _ => []
  | k + 1, tbl =>
    let pa := tbl + 8 * tblIdx off k
    let e := rdPte m die pa
    hkey die pa :: (if pteV e && pteT e then s2path m die off k (pteOff e) else [])

/-- The old words of second-stage tables that stay usable when the page at `off` of a partition is invalidated: those that are not on
the way to it, as the tables are or as they were (R217, log 19). -/
def s2left (s : State) (p die off : Nat) : List (Nat × DWord) :=
  match s2rootOf s p die with
  | none => s.s2old
  | some root =>
    let old := s.s2old.foldl (fun m e => msetBytes m e.1 8 e.2.toNat) s.hbm
    let path := s2path s.hbm die off 4 (pteOff root) ++ s2path old die off 4 (pteOff root)
    s.s2old.filter (fun e => !(path.contains e.1))

/-- SECOND_STAGE_INVALIDATION: Quinmin's invalidation of one second-stage page of a partition completes: accesses that
used the old entries are performed, and no MTLB holds them (R217). -/
def execSecondStageInvalidation (p : Nat) (ia : BitVec 64) (s : State) : StepOut :=
  .next (
    let gs := (s.groups.filter (fun g => match tget s.blocks g.2.blk with
      | some b => decide (b.part = p)
      | none => false)).map Prod.fst
    let s := gs.foldl performStores s
    let hit (t : Stale) : Bool := decide (t.part = p) && decide (t.die = vaDie ia)
      && framesMeet t.die (frameNum t.pte) (leafSize (3 - t.lvl) / 8192) t.die (vaOff ia / 8192) 1
    { s with s2old := s2left s p (vaDie ia) (vaOff ia), stale := s.stale.map (fun t => if hit t then { t with used := false } else t) })

/-- ATS_INVALIDATION: the host takes back a page of a PASID. Requests that used it end REVOKED without effect, then the
completion is sent; whether the host maps the page again is its own affair (R228, log 7). -/
def execAtsInvalidation (pasid : Nat) (addr : BitVec 64) (s : State) : StepOut :=
  .next (
    let page := vaOff addr / 4096
    let used (r : RReq) : Bool := decide (r.node = 510) && decide (vaOff r.addr / 4096 = page)
      && decide ((tget s.ctxs (r.part * 1024 + r.ctx)).map (fun c => c.pasid) = some pasid)
      && (match r.owner with
        | .flip _ => false
        | _ => true)
    let ids := (s.reqs.filter (fun r => used r.2)).map Prod.fst
    let s := ids.foldl (fun s id => endReq s id 3 false 0) s
    let s := if Config.hostMaps s.clock page then
        { s with hostRefused := s.hostRefused.filter (fun x => decide (x ≠ (pasid, page))) }
      else if s.hostRefused.contains (pasid, page) then s
      else { s with hostRefused := s.hostRefused ++ [(pasid, page)] }
    pumpPosts (sendMsg s (.atsDone pasid)))

end Sys2Proof.Machine
end

