-- ==== Sys2Proof/Machine/Nb.lean ====
section
/-! DEFINITION. Near-bank units: the commands NBEXEC, NBCPY, NBZ (R330 to R333, R342 to R348), NBLD and NBSTAT (R349,
R350), the microinstructions (R334 to R337), and the steps of a command. -/

namespace Sys2Proof.Machine

/-! ## The command word and the channel (R330, R391) -/

def nwPost (w : DWord) : Bool := w.getLsbD 28
def nwEntry (w : DWord) : Nat := w.toNat / 2 ^ 16 % 4096
def nwSize (w : DWord) : Nat := w.toNat / 2 ^ 13 % 4
def nwDie (w : DWord) : Nat := w.toNat / 2 ^ 7 % 4
def nwStack (w : DWord) : Nat := w.toNat / 2 ^ 6 % 2
def nwCh (w : DWord) : Nat := w.toNat / 2 % 32
def nwPc (w : DWord) : Nat := w.toNat % 2

/-- Bytes of a span, and its pages. -/
def spanBytes (w : DWord) : Nat := if nwSize w = 1 then 65536 else 8192
def spanPages (w : DWord) : Nat := if nwSize w = 1 then 8 else 1

/-- A bank as a number: die, stack, channel, pseudo-channel, bank. -/
def bankNo (w : DWord) (lane : Nat) : Nat := (w.toNat % 512) * 32 + lane

/-- Whether a unit occupies its bank's queue: queued, at work, or stopped. -/
def NbUnit.there (u : NbUnit) : Bool := decide (u.st ≠ .ended)

/-- The commands of a bank that are queued or at work, in order of arrival (R340). -/
def bankQueue (s : State) (bank : Nat) : List (Nat × NbUnit) :=
  s.nbcmds.flatMap (fun c =>
    if c.2.started then (c.2.units.filter (fun u => u.there && decide (bankNo c.2.word u.lane = bank))).map (fun u => (c.1, u)) else [])

/-! ## Reporting (R331, R332, R346) -/

/-- The code of a command whose units have ended: that of the lowest failing lane, or DONE. -/
def nbCode (us : List NbUnit) : Nat :=
  match us.find? (fun u => decide (u.code ≠ 1)) with
  | some u => u.code
  | none => 1

/-- A fault window as NBWIN lays it out, PEND zero (R345). -/
def winWord (fmask : Word) (code first last : Nat) : DWord :=
  BitVec.ofNat 64 (fmask.toNat * 2 ^ 32 + code * 2 ^ 28 + last * 2 ^ 16 + first)

/-- Records a failure in a group's NBWIN (R346). A group that has exited takes none. -/
def noteNb (s : State) (gid : Nat) (fmask : Word) (code first last : Nat) : State :=
  { s with groups := tmod s.groups gid (fun g =>
      if g.st = .exited ∨ g.st = .exiting then g
      else if nbPend g then { g with nbwin := g.nbwin ||| BitVec.ofNat 64 (fmask.toNat * 2 ^ 32) }
      else { g with nbwin := winWord fmask code first last ||| 0x1000 }) }

/-- The counter of a command drops: nb in issue order, or the posted count (R342). -/
def dropNb (s : State) (c : NbCmd) : State :=
  { s with groups := tmod s.groups c.gid (fun g =>
      if nwPost c.word then { g with posted := g.posted - 1 }
      else retireDone (updOut g c.out (fun o => { o with fin := true })) .nb) }

/-- Sends the status block of a command to another node: an entry of the copies' table under the command's number (phase 5)
takes the answers. -/
def nbAskStatus (s : State) (id : Nat) (c : NbCmd) (core node : Nat) (va w0 w1 : DWord) : State :=
  let x : Copy :=
    { part := c.part, ctx := c.ctx, blk := c.blk, gid := c.gid, core := core, user := c.user, out := c.out, src := [], dsts := [],
      status := c.status, locks := [], started := true, phase := 5, prog := 0, waits := 0, buf := [], fails := [], wfails := [], ends := none }
  askStatus s id x 5 node va w0 w1

/-- The end of a command with its code, the lanes done and failed, and its window: locks, status, counter (R331, R342,
R346). A status that must wait leaves the command with its units ended (R218, R225). -/
def reportNb (s : State) (id : Nat) (c : NbCmd) (code : Nat) (done fmask : Word) (first last : Nat) : State :=
  let s := { s with locks := s.locks.filter (fun l => decide (l.op ≠ id)) }
  let fin (s : State) : State := dropNb { s with nbcmds := tdel s.nbcmds id } c
  match c.status with
  | none => fin (if code = 1 then s else noteNb s c.gid fmask code first last)
  | some a =>
    let w0 := BitVec.ofNat 64 (done.toNat * 2 ^ 32 + code)
    let w1 := if code = 1 then 0 else winWord fmask code first last
    let lost : State := if code = 1 then noteNb s c.gid 0 5 0xFFF 0xFFF else noteNb s c.gid fmask code first last
    match statusNode s c.part a with
    | some node =>
      match tget s.copies id with
      | none =>
        nbAskStatus s id c (match tget s.groups c.gid with
          | some g => g.core
          | none => 0) node a w0 w1
      | some x =>
        if x.waits ≠ 0 then s
        else if x.wfails.isEmpty then fin { s with copies := tdel s.copies id }
        else fin { lost with copies := tdel s.copies id }
    | none =>
      match ctxWrite s { part := c.part, ctx := c.ctx, user := c.user } a w0 w1 with
      | .done s => fin s
      | .failed _ => fin lost
      | .s2 d ia => signalS2 s c.part d ia
      | .wait => s

/-- The completion of a command whose units have all ended: its code, its lanes, and the window of its lowest failing lane, 0xFFF
where that fault lies outside a microprogram (R342 phase 4, R345, R346). -/
def completeNb (s : State) (id : Nat) (c : NbCmd) : State :=
  let lanes (f : NbUnit → Bool) : Word := maskOf (fun l => c.units.any (fun u => decide (u.lane = l) && f u))
  let window (i : Nat) : Nat := if nbCode c.units = 8 then i else 0xFFF
  reportNb s id c (nbCode c.units) (lanes (fun u => decide (u.code = 1))) (lanes (fun u => decide (u.code ≠ 1))) (window c.first) (window c.last)

/-- Retires a command with nothing done: none of its units acts (R332, R342). -/
def refuseNb (s : State) (id : Nat) (c : NbCmd) (code : Nat) : State :=
  let c := { c with started := true, units := c.units.map (fun u => { u with st := .ended, code := code }) }
  completeNb { s with nbcmds := tset s.nbcmds id c } id c

/-! ## Issue (R342, R348) -/

/-- Whether a page of some span is in host bias, or is changing bias (R332). -/
def nbBiased (s : State) (rq : Req) (kind : Nat) (w : DWord) (spans : List (Nat × DWord × DWord)) : Bool :=
  let page (a : DWord) : Bool := match route s rq.part a with
    | .paged d o => (flipAt s rq.part rq.ctx d o).isSome || (match s1of s rq.part rq.ctx d o with
        | .leaf e _ _ => pteBias e
        | _ => false)
    | _ => false
  spans.any (fun x => (if kind = 1 then [x.2.1, x.2.2] else [x.2.1]).any (fun a =>
    (List.range (spanPages w)).any (fun i => page (a + BitVec.ofNat 64 (8192 * i)))))

/-- The checks of R342 on a command at issue, 0 for none: BADCMD, NOLOCK, BIAS. -/
def nbRefusal (s : State) (rq : Req) (b : Block) (kind : Nat) (w : DWord) (spans : List (Nat × DWord × DWord)) (need : Nat) : Nat :=
  let addrs := spans.flatMap (fun x => if kind = 1 then [x.2.1, x.2.2] else [x.2.1])
  let paged (a : DWord) : Bool := match route s rq.part a with
    | .paged _ _ => true
    | _ => false
  if w.toNat / 2 ^ 29 ≠ 0 ∨ w.toNat / 2 ^ 15 % 2 ≠ 0 ∨ w.toNat / 2 ^ 9 % 16 ≠ 0 ∨ 2 ≤ nwSize w
      ∨ holdsChan s rq.part (nwDie w) (nwStack w) (nwCh w) = false
      ∨ (if kind = 0 then decide ((allotment s rq.part).2 ≤ nwEntry w) else decide (nwEntry w ≠ 0)) = true
      ∨ addrs.all paged = false then 2
  else if reservedLocks b < need then 3
  else if nbBiased s rq kind w spans then 4
  else 0

/-- The locks of a command (R342). -/
def nbLocks (is : Issue) (b : Block) (kind id : Nat) (w : DWord) (spans : List (Nat × DWord × DWord)) : List RLock :=
  let mk (a : DWord) (write : Bool) : RLock :=
    { die := vaDie a, lo := (ownVa is.s a).toNat, hi := (ownVa is.s a).toNat + spanBytes w - 1, write := write, part := b.part, ctx := b.ctx, blk := is.g.blk, op := id }
  spans.flatMap (fun x => if kind = 1 then [mk x.2.1 false, mk x.2.2 true] else [mk x.2.1 true])

/-- A unit before its command reaches the head of its bank (R334). -/
def NbUnit.new (lane entry : Nat) : NbUnit :=
  { lane := lane, st := .queued, code := 0, sel := List.replicate 8 0, key := 0, mask := 0, tag := 0, c := 0, ip := entry,
    src := [], dst := [] }

/-- Counts a command in its group (R342). -/
def countNb (s : State) (gid out : Nat) (post : Bool) : State :=
  if post then { s with groups := tmod s.groups gid (fun g => { g with posted := g.posted + 1 }) }
  else pushOut s gid (Out.new out .nb 0)

/-- Whether the counter of a command has room (R342). -/
def nbRoom (g : Group) (post : Bool) : Bool := if post then decide (g.posted < 63) else decide (cntOf g .nb < 63)

/-- Whether every bank of a command can queue it (R340). -/
def banksFree (s : State) (w : DWord) (lanes : List Nat) : Bool := lanes.all (fun l => decide ((bankQueue s (bankNo w l)).length < 16))

/-- Whether the new microprograms of a partition are held for a load of its stores (R349). -/
def nbHeld (s : State) (p kind : Nat) : Bool := decide (kind = 0) && s.nblds.any (fun x => decide (x.2.part = p))

/-- The issue of a near-bank command (R342 phase 1, R348). -/
def nbEff (is : Issue) (kind d a b : Nat) : Eff :=
  let m := is.act
  let w := sreg is.g a
  let st := sreg is.g d
  let lanes := lanesOf m
  let addr (r l : Nat) : DWord := BitVec.ofNat 64 (vregs is.g r l 2)
  let spans := lanes.map (fun l => (l, addr b l, if kind = 1 then addr (b + 2) l else 0))
  let each (x : Nat × DWord × DWord) : List DWord := if kind = 1 then [x.2.1, x.2.2] else [x.2.1]
  let failed (f : DWord → Bool) : Option (Word × DWord) :=
    match spans.flatMap (fun x => ((each x).filter f).map (fun y => (x.1, y))) with
    | [] => none
    | (l, y) :: r => some (maskOf (fun k => ((l, y) :: r).any (fun z => decide (z.1 = k))), y)
  let p := (reqOf is.s is.g).part
  let isHole (y : DWord) : Bool := match route is.s p y with
    | .hole => true
    | _ => false
  if m = 0 then .done is.s
  else if d ≠ 24 ∧ st.toNat % 16 ≠ 0 then .trap (.plain 4 is.sl.exec st)
  else
    match failed (fun y => decide (y.toNat % spanBytes w ≠ 0)), failed isHole with
    | some (k, y), _ => .trap (.plain 4 k y)
    | none, some (k, y) => .trap (.plain 18 k y)
    | none, none =>
      let s := drainLdSt is.s is.gid
      match tget s.groups is.gid with
      | none => .again s
      | some g =>
        match tget s.blocks g.blk with
        | none => .again s
        | some bl =>
          if !(ldStZero g) then .again s
          else
            let rq := reqOf s g
            let need := lanes.length * (if kind = 1 then 2 else 1)
            let (id, s1) := fresh s
            let cmd : NbCmd :=
              { kind := kind, part := rq.part, ctx := rq.ctx, blk := g.blk, gid := is.gid, user := rq.user, word := w, spans := spans,
                status := if d = 24 then none else some st, locks := nbLocks is bl kind id w spans, started := true, out := id,
                units := lanes.map (fun l => NbUnit.new l (nwEntry w)), issued := 0, past := [], first := 0xFFF, last := 0xFFF }
            if !(nbRoom g (nwPost w)) || nbHeld s rq.part kind then .again s
            else
              match nbRefusal s rq bl kind w spans need with
              | 0 =>
                if !(banksFree s w lanes) then .again s
                else if locksFree s bl g.blk cmd.locks && !(lockQueue s id cmd.locks) then
                  .done (countNb { s1 with nbcmds := tset s1.nbcmds id cmd, locks := s1.locks ++ cmd.locks } is.gid id (nwPost w))
                else
                  is.waitIn { s1 with nbcmds := tset s1.nbcmds id { cmd with started := false } } (.engine id)
              | code => .done (refuseNb (countNb s1 is.gid id (nwPost w)) id cmd code)

/-- The form of NBEXEC, NBCPY and NBZ: a pair or a quad of span addresses (R347). -/
def formNb (d a b : BitVec 7) (k : Nat) : Form := Form.mk0 [opS d.toNat, opS a.toNat, opVn b.toNat k] none .refused false

/-- NBEXEC (R348). -/
def execNbexec (h : BitVec 2) (d a b : BitVec 7) (s : State) : StepOut :=
  issueWord (encode (.nbexec h d a b)) (formNb d a b 2) (fun is => nbEff is 0 d.toNat a.toNat b.toNat) s

/-- NBCPY (R344, R348). -/
def execNbcpy (h : BitVec 2) (d a b : BitVec 7) (s : State) : StepOut :=
  issueWord (encode (.nbcpy h d a b)) (formNb d a b 4) (fun is => nbEff is 1 d.toNat a.toNat b.toNat) s

/-- NBZ (R344, R348). -/
def execNbz (h : BitVec 2) (d a b : BitVec 7) (s : State) : StepOut :=
  issueWord (encode (.nbz h d a b)) (formNb d a b 2) (fun is => nbEff is 2 d.toNat a.toNat b.toNat) s

/-- The instruction of a command that waited completes: its slot goes on, and the command is counted (R342). -/
def beginNb (s : State) (id : Nat) (c : NbCmd) : State :=
  let go (sl : Slot) : Slot := if sl.wait = .engine id then advance sl else sl
  countNb { s with
    nbcmds := tset s.nbcmds id { c with started := true }
    groups := tmod s.groups c.gid (fun g => { g with a := go g.a, b := go g.b }) } c.gid id (nwPost c.word)

/-- A command that waited registers all its locks, and its instruction completes; one that meets a page in host bias or a flip by then
retires at once (R189, R226, R342, R349). -/
def startNb (s : State) (id : Nat) (c : NbCmd) : State :=
  match tget s.groups c.gid, tget s.blocks c.blk with
  | some g, some b =>
    if !(nbRoom g (nwPost c.word)) || nbHeld s c.part c.kind then s
    else if nbBiased s { part := c.part, ctx := c.ctx, user := c.user } c.kind c.word c.spans then refuseNb (beginNb s id c) id c 4
    else if locksFree s b c.blk c.locks && !(lockQueue s id c.locks) && banksFree s c.word (c.units.map NbUnit.lane) then
      beginNb { s with locks := s.locks ++ c.locks } id c
    else s
  | _, _ => { s with nbcmds := tdel s.nbcmds id }

/-- ENGINE_LOCK_REGISTER: the first operation that waits on a die, copy or near-bank command, registers all its locks,
and its instruction completes (R185, R189, R342). -/
def execEngineLockRegister (die : Nat) (s : State) : StepOut :=
  .next (
    let on (ls : List RLock) : Bool := ls.any (fun l => decide (l.die = die))
    match s.copies.find? (fun c => !c.2.started && on c.2.locks), s.nbcmds.find? (fun c => !c.2.started && on c.2.locks) with
    | some (i, c), some (j, n) => if i < j then startCopy s i c else startNb s j n
    | some (i, c), none => startCopy s i c
    | none, some (j, n) => startNb s j n
    | none, none => s)

/-! ## NBLD and NBSTAT -/

/-- NBLD (R349). -/
def execNbld (d a : BitVec 7) (s : State) : StepOut :=
  issueWord (encode (.nbld d a)) (Form.mk0 [opS d.toNat, opS a.toNat] none .refused true) (fun is =>
    let va := sreg is.g a.toNat
    let x := sreg is.g d.toNat
    let off := x.toNat % 4096
    let n := x.toNat / 2 ^ 16 % 2 ^ 13
    let p := (reqOf is.s is.g).part
    let (base, len) := allotment is.s p
    if va.toNat % 8 ≠ 0 then .trap (.plain 4 is.sl.exec va)
    else if x.toNat / 2 ^ 29 ≠ 0 ∨ x.toNat / 2 ^ 12 % 16 ≠ 0 ∨ n = 0 ∨ len < off + n then is.putS d.toNat 1
    else if acqPending is.g then .again is.s
    else
      match readRecord (performStores is.s is.gid) is.gid is.sl.exec (reqOf is.s is.g) va n with
      | .trap c y => .trap (.plain c is.sl.exec y)
      | .s2 die ia => .leave (s2Fault is.s is.gid is.side die ia)
      | .wait s => .again s
      | .words img =>
        let s := clearRecs (performStores is.s is.gid) is.gid
        let (id, s1) := fresh s
        let x : NbLoad := { part := p, gid := is.gid, side := is.side, d := d.toNat, base := base + off, img := img }
        if programsRun s p then is.waitIn { s1 with nblds := tset s1.nblds id x } (.engine id)
        else .done { loadStores s x with groups := tmod s.groups is.gid (fun g => setSreg g d.toNat 0) }) s

/-- NBSTAT sel 1: the units of a pseudo-channel busy with a command of the partition, and those with one queued. -/
def nbBusy (s : State) (p : Nat) (w : DWord) : DWord :=
  if !(holdsChan s p (nwDie w) (nwStack w) (nwCh w)) then 0
  else
    let mine := s.nbcmds.filter (fun c => decide (c.2.part = p) && c.2.started && decide (c.2.word.toNat % 512 = w.toNat % 512))
    let busy (l : Nat) : Bool := mine.any (fun c => c.2.units.any (fun u => decide (u.lane = l) && u.there && decide (u.st ≠ .queued)))
    let wait (l : Nat) : Bool := mine.any (fun c => c.2.units.any (fun u => decide (u.lane = l) && decide (u.st = .queued)))
    BitVec.ofNat 64 ((maskOf busy).toNat + (maskOf wait).toNat * 2 ^ 32)

/-- NBSTAT (R350). -/
def execNbstat (d a : BitVec 7) (e : BitVec 2) (s : State) : StepOut :=
  issueWord (encode (.nbstat d a e)) { Form.mk0 [opS d.toNat, opS a.toNat] none .refused true with bad := fun _ => decide (e = 3) } (fun is =>
    if e = 0 then is.put (setSreg { is.g with nbwin := is.g.nbwin &&& ~~~0x1000#64 } d.toNat is.g.nbwin)
    else if e = 1 then is.putS d.toNat (nbBusy is.s (reqOf is.s is.g).part (sreg is.g a.toNat))
    else is.putS d.toNat (BitVec.ofNat 64 is.g.posted)) s

/-! ## Rows -/

/-- The physical offset of row `k` of a span. -/
def rowAt (pages : List Nat) (k : Nat) : Nat := pages.getD (k / 8) 0 + k % 8 * 1024

/-- The rows of a span. -/
def spanRows (pages : List Nat) : Nat := 8 * pages.length

/-- A row as bits: column c is bit c (R334). -/
def rowBits (s : State) (die pa : Nat) : BitVec 8192 := BitVec.ofNat 8192 (mbytes s.hbm (hkey die pa) 1024)

/-- Writes a row, with fresh codes and without capability tags. -/
def setRow (s : State) (die pa : Nat) (x : BitVec 8192) : State :=
  { s with
    hbm := msetBytes s.hbm (hkey die pa) 1024 x.toNat
    poison := mclear s.poison (hkey die pa / 16) (hkey die pa / 16 + 64)
    ctag := mclear s.ctag (hkey die pa / 16) (hkey die pa / 16 + 64) }

/-- The granules of a row that are poisoned. -/
def rowPoison (s : State) (die pa : Nat) : List Nat :=
  (List.range 64).filter (fun i => decide (mget s.poison (hkey die pa / 16 + i) ≠ 0))

/-- Marks granules of a row. -/
def markRow (s : State) (die pa : Nat) (gs : List Nat) : State :=
  { s with poison := gs.foldl (fun m i => mset m (hkey die pa / 16 + i) 1) s.poison }

/-! ## Microinstructions (R335 to R337) -/

/-- Changes a command. -/
def setNb (s : State) (id : Nat) (c : NbCmd) : State := { s with nbcmds := tset s.nbcmds id c }

/-- The microinstruction at index `ip` of a command's program (R337, R338). -/
def fetchNb (s : State) (c : NbCmd) (ip : Nat) : DWord :=
  mget s.seqst ((2 * nwDie c.word + nwStack c.word) * 4096 + (allotment s c.part).1 + ip)

/-- The index that `n` more issues of a program reach from index `ip`: none beyond its END or its allotment (R337, R345). -/
def nbAhead (s : State) (c : NbCmd) : Nat → Nat → BitVec 12 → Nat
  | 0, ip, _ => ip
  | n + 1, ip, k =>
    let u := fetchNb s c ip
    let op := u.toNat / 2 ^ 60
    let k' : BitVec 12 := if op = 5 then BitVec.ofNat 12 (u.toNat / 2 ^ 48) else if op = 6 ∧ k ≠ 0 then k - 1 else k
    let next := if op = 6 ∧ k' ≠ 0 then u.toNat / 2 ^ 48 % 4096 else ip + 1
    if op = 0 ∨ (allotment s c.part).2 ≤ next then ip else nbAhead s c n next k'

/-- The store indices of the window of a fault at index `ip`, the last issued: how many issues it reaches back and on is open, at
most 8 in all (R345, log 21). -/
def nbWindow (s : State) (c : NbCmd) (ip : Nat) : Nat × Nat :=
  let back := Config.nbWindowBack s.clock % 9
  let on := Config.nbWindowOn s.clock % (9 - back)
  let at_ := (allotment s c.part).1 + ip
  let k := (c.units.find? (fun u => decide (u.st = .running))).elim 0 NbUnit.c
  (c.past.getD (min back (c.past.length - 1)) at_, (allotment s c.part).1 + nbAhead s c on ip k)

/-- Counts an issue of a command, and remembers its index (R337, R345). -/
def issueNb (s : State) (c : NbCmd) (ip : Nat) : NbCmd :=
  { c with issued := c.issued + 1, past := (((allotment s c.part).1 + ip) :: c.past).take 9 }

/-- Every running unit of a command takes a microprogram fault at index `ip` (R337, R345). -/
def nbFault (s : State) (id : Nat) (c : NbCmd) (ip : Nat) : State :=
  let w := nbWindow s c ip
  setNb s id { c with
    first := w.1 % 4096, last := w.2 % 4096
    units := c.units.map (fun u => if u.st = .running then { u with st := .stopped, code := 8 } else u) }

/-- The running units of a command. -/
def NbCmd.running (c : NbCmd) : List NbUnit := c.units.filter (fun u => decide (u.st = .running))

/-- The index of the next microinstruction of a command, if a microprogram runs and no unit is still to start. -/
def NbCmd.at? (c : NbCmd) : Option Nat :=
  if c.kind = 0 && c.started && c.units.all (fun u => decide (u.st ≠ .queued) && decide (u.st ≠ .preparing)) then c.running.head?.map NbUnit.ip
  else none

/-- Issues one microinstruction to the running units of the command whose step this is: `bad` says which units fault,
`f` what a unit and the rows become, `next` the new IP. -/
def nbStep (bad : NbUnit → Bool) (f : Nat → State → NbUnit → State × NbUnit) (next : NbUnit → Nat → Nat) (s : State) : StepOut :=
  match s.issuer with
  | .nb id =>
    match tget s.nbcmds id with
    | none => .fault .noIssuer
    | some c =>
      match c.at? with
      | none => .fault .noIssuer
      | some ip =>
        let len := (allotment s c.part).2
        let c := issueNb s c ip
        if c.issued = 2 ^ 24 || c.running.any bad then .next (nbFault s id c ip)
        else
          let die := nwDie c.word
          let (s, us) := c.units.foldl (fun (acc : State × List NbUnit) u =>
            if u.st = .running then
              let (s, v) := f die acc.1 u
              (s, acc.2 ++ [{ v with ip := next u ip }])
            else (acc.1, acc.2 ++ [u])) (s, [])
          let c := { c with units := us }
          if us.any (fun u => decide (u.st = .running) && decide (len ≤ u.ip)) then .next (nbFault s id c ip) else .next (setNb s id c)
  | .none => .fault .noIssuer
  | .hart _ => .fault .noIssuer
  | .slot _ _ => .fault .noIssuer
  | .device => .fault .noIssuer

/-- IP + 1. -/
def ipNext (_ : NbUnit) (ip : Nat) : Nat := ip + 1

/-- END: the program of every running unit ends; it may be the last that is issued (R337). -/
def execNbEnd (s : State) : StepOut :=
  match s.issuer with
  | .nb id =>
    match tget s.nbcmds id with
    | none => .fault .noIssuer
    | some c =>
      match c.at? with
      | none => .fault .noIssuer
      | some ip => .next (setNb s id { issueNb s c ip with
          units := c.units.map (fun u => if u.st = .running then { u with st := .ended, code := 1 } else u) })
  | .none => .fault .noIssuer
  | .hart _ => .fault .noIssuer
  | .slot _ _ => .fault .noIssuer
  | .device => .fault .noIssuer

/-- SEL: sets or adds to the selectors named by SJ (R337). -/
def execNbSel (add : BitVec 1) (row : BitVec 6) (sj : BitVec 8) (s : State) : StepOut :=
  nbStep (fun _ => false) (fun _ s u => (s, { u with
    sel := (List.range 8).map (fun j =>
      let x := u.sel.getD j 0
      if sj.getLsbD j then (if add = 1 then x + row else row + BitVec.ofNat 6 j) else x) })) ipNext s

/-- Whether a selector used under a mask lies at or beyond the span's rows (R335). -/
def selBad (mask : BitVec 8) (u : NbUnit) : Bool :=
  (List.range 8).any (fun j => mask.getLsbD j && decide (spanRows u.src ≤ (u.sel.getD j 0).toNat))

/-- The columns whose selected value agrees with a key under a mask (R335). -/
def nbMatch (s : State) (die : Nat) (u : NbUnit) (key mask : BitVec 8) : BitVec 8192 :=
  (List.range 8).foldl (fun m j =>
    if mask.getLsbD j then
      let r := rowBits s die (rowAt u.src (u.sel.getD j 0).toNat)
      m &&& (if key.getLsbD j then r else ~~~r)
    else m) (BitVec.allOnes 8192)

/-- CMP: Compare(key, mask, cm) (R335). -/
def execNbCmp (cm : BitVec 2) (mask key : BitVec 8) (s : State) : StepOut :=
  nbStep (selBad mask) (fun die s u =>
    let m := nbMatch s die u key mask
    let t := match cm with
      | 0 => m
      | 1 => u.tag ||| m
      | 2 => u.tag &&& m
      | _ => u.tag &&& ~~~m
    (s, { u with tag := t, key := key, mask := mask })) ipNext s

/-- WR: Write(pat, mask): in the tagged columns of the selected rows, ascending (R335). -/
def execNbWr (mask key : BitVec 8) (s : State) : StepOut :=
  nbStep (selBad mask) (fun die s u =>
    ((List.range 8).foldl (fun s j =>
      if mask.getLsbD j then
        let pa := rowAt u.src (u.sel.getD j 0).toNat
        let r := rowBits s die pa
        setRow s die pa ((r &&& ~~~u.tag) ||| (if key.getLsbD j then u.tag else 0))
      else s) s, u)) ipNext s

/-- TAG: clears, sets or inverts TAG (R337). -/
def execNbTag (cm : BitVec 2) (s : State) : StepOut :=
  nbStep (fun _ => cm = 3) (fun _ s u =>
    (s, { u with tag := if cm = 0 then 0 else if cm = 1 then BitVec.allOnes 8192 else ~~~u.tag })) ipNext s

/-- CNT: loads C (R337). -/
def execNbCnt (imm : BitVec 12) (s : State) : StepOut := nbStep (fun _ => false) (fun _ s u => (s, { u with c := imm })) ipNext s

/-- DJNZ: counts C down and jumps while it is not 0 (R337). -/
def execNbDjnz (imm : BitVec 12) (s : State) : StepOut :=
  nbStep (fun _ => false) (fun _ s u => (s, { u with c := if u.c = 0 then 0 else u.c - 1 }))
    (fun u ip => if u.c ≠ 0 ∧ u.c - 1 ≠ 0 then imm.toNat else ip + 1) s

/-! ## The steps of a command (R341) -/

/-- How the translation of a span ends. -/
inductive SpanTr where
  | ok (pages : List Nat)
  | bad (code : Nat)
  | s2 (die ia : Nat)
  | wait

/-- Translates the pages of a span and checks that they lie in the lane's bank, a run in one row group (R328, R333). A command that has
its locks keeps a flip waiting (R343). -/
def spanTr (s : State) (rq : Req) (kind : AKind) (w : DWord) (lane : Nat) (a : DWord) : SpanTr :=
  let place := (nwStack w * 2 ^ 14 + nwCh w * 2 ^ 9 + nwPc w * 2 ^ 8 + lane * 8) / 8
  let one (i : Nat) : SpanTr :=
    match route s rq.part (a + BitVec.ofNat 64 (8192 * i)) with
    | .paged d o =>
      (match translateE s rq kind d o with
        | .ok pa e =>
          if d ≠ nwDie w ∨ pteBR e = false ∨ pa / 2 ^ 16 % 2 ^ 12 ≠ place % 2 ^ 12 then .bad 6 else .ok [pa]
        | .absent => .bad 5
        | .denied => .bad 5
        | .s2 ia => if s2Refused s rq.part d ia then .bad 5 else .s2 d ia
        | .flip _ => .wait)
    | _ => .bad 5
  let join (acc x : SpanTr) : SpanTr :=
    match acc, x with
    | .ok ps, .ok p => .ok (ps ++ p)
    | .ok _, e => e
    | e, _ => e
  let all := (List.range (spanPages w)).foldl (fun acc i => join acc (one i)) (.ok [])
  match all with
  | .ok ps =>
    let p0 := ps.headD 0
    if spanPages w = 8 && !((List.range 8).all (fun i => decide (ps.getD i 0 = p0 / 65536 * 65536 + 8192 * i))) then .bad 6 else .ok ps
  | e => e

/-- The permission that a command needs on its spans (R333). -/
def nbKind (kind : Nat) : AKind × AKind :=
  match kind with
  | 0 => (.amo, .amo)
  | 1 => (.load, .store)
  | _ => (.store, .store)

/-- Replaces the unit of a lane. -/
def setUnit (c : NbCmd) (u : NbUnit) : NbCmd := { c with units := c.units.map (fun x => if x.lane = u.lane then u else x) }

/-- A unit begins to prepare: its spans are translated and checked (R333, R341). -/
def prepareUnit (s : State) (id : Nat) (c : NbCmd) (u : NbUnit) : State :=
  let rq : Req := { part := c.part, ctx := c.ctx, user := c.user }
  let (k1, k2) := nbKind c.kind
  match c.spans.find? (fun x => decide (x.1 = u.lane)) with
  | none => s
  | some (_, a, b) =>
    let second : SpanTr := if c.kind = 1 then spanTr s rq k2 c.word u.lane b else .ok []
    match spanTr s rq k1 c.word u.lane a, second with
    | .s2 d ia, _ => signalS2 s c.part d ia
    | _, .s2 d ia => signalS2 s c.part d ia
    | .wait, _ => s
    | _, .wait => s
    | .bad code, _ => setNb s id (setUnit c { u with st := .ended, code := code })
    | .ok _, .bad code => setNb s id (setUnit c { u with st := .ended, code := code })
    | .ok ps, .ok qs =>
      if ps.any (fun x => qs.contains x) then setNb s id (setUnit c { u with st := .ended, code := 6 })
      else setNb s id (setUnit c { u with st := .preparing, src := ps, dst := qs })

/-- NB_QUEUE_HEAD: the command at the head of a bank's queue reaches its unit (R341). `bank` numbers the banks of a
stack: channel, pseudo-channel, bank. -/
def execNbQueueHead (stack bank : Nat) (s : State) : StepOut :=
  .next (match bankQueue s (stack * 2048 + bank) with
    | (id, u) :: _ =>
      if u.st = .queued then
        match tget s.nbcmds id with
        | some c => prepareUnit s id c u
        | none => s
      else s
    | [] => s)

/-- The end of a unit's preparation (R341, R342): copies are written back or invalidated; a row of NBEXEC that fails its
check ends the lane. -/
def readyUnit (s : State) (c : NbCmd) (u : NbUnit) : State × NbUnit :=
  let die := nwDie c.word
  let flush (s : State) (ps : List Nat) (drop : Bool) : State := ps.foldl (fun s pa => flushLines s (rangeLines die pa 8192) drop) s
  match c.kind with
  | 0 =>
    let s := flush s u.src true
    if (List.range (spanRows u.src)).any (fun k => !(rowPoison s die (rowAt u.src k)).isEmpty) then (s, { u with st := .ended, code := 7 })
    else (s, { u with st := .running })
  | 1 => (flush (flush s u.src false) u.dst true, { u with st := .running })
  | _ => (flush s u.src true, { u with st := .running })

/-- NB_PREPARATION_DONE: the units of a command that prepare start running, once none of it is still queued. -/
def execNbPreparationDone (cmd : Nat) (s : State) : StepOut :=
  .next (match tget s.nbcmds cmd with
    | none => s
    | some c =>
      if !c.started || c.units.any (fun u => decide (u.st = .queued)) then s
      else
        let (s, us) := c.units.foldl (fun (acc : State × List NbUnit) u =>
          if u.st = .preparing then
            let (s, v) := readyUnit acc.1 c u
            (s, acc.2 ++ [v])
          else (acc.1, acc.2 ++ [u])) (s, [])
        setNb s cmd { c with units := us })

/-- The subarray of a physical row (R328, R329). -/
def subarray (pa : Nat) : Nat := pa / 8192 / 2 ^ 15 % 2 ^ 9 / 8

/-- The rows of an NBCPY, in order: in the array they keep their check state; through the staging buffer a row that
fails its check is written poisoned and ends the lane (R344). -/
def copyRows (die : Nat) (src dst : List Nat) : List Nat → State → State × Bool
  | [], s => (s, true)
  | k :: r, s =>
    let a := rowAt src k
    let b := rowAt dst k
    let bad := rowPoison s die a
    let s' := setRow s die b (rowBits s die a)
    if subarray a = subarray b then copyRows die src dst r (markRow s' die b bad)
    else if bad.isEmpty then copyRows die src dst r s'
    else (markRow s' die b (List.range 64), false)

/-- NB_UNIT_END: a unit of NBCPY or NBZ writes its rows, and ends or stops (R341, R344). -/
def execNbUnitEnd (cmd lane : Nat) (s : State) : StepOut :=
  .next (match tget s.nbcmds cmd with
    | none => s
    | some c =>
      match c.units.find? (fun u => decide (u.lane = lane)) with
      | none => s
      | some u =>
        let die := nwDie c.word
        if u.st ≠ .running ∨ c.kind = 0 then s
        else if c.kind = 1 then
          let (s, ok) := copyRows die u.src u.dst (List.range (spanRows u.src)) s
          setNb s cmd (setUnit c (if ok then { u with st := .ended, code := 1 } else { u with st := .stopped, code := 7 }))
        else
          let s := (List.range (spanRows u.src)).foldl (fun s k => setRow s die (rowAt u.src k) 0) s
          setNb s cmd (setUnit c { u with st := .ended, code := 1 }))

/-- NB_ISSUE_LIMIT: the 2^24th microinstruction of a command that has not reached END ends its units (R337). -/
def execNbIssueLimit (cmd : Nat) (s : State) : StepOut :=
  .next (match tget s.nbcmds cmd with
    | none => s
    | some c =>
      match c.at? with
      | some ip => if c.issued + 1 = 2 ^ 24 ∧ fetchNb s c ip ≠ 0 then nbFault s cmd (issueNb s c ip) ip else s
      | none => s)

/-- What a command wrote, for the monitors that watch it (R278). -/
def nbWritten (c : NbCmd) : List Nat := c.units.flatMap (fun u => if c.kind = 1 then u.dst else u.src)

/-- NB_COMMAND_COMPLETE: every unit has ended or stopped: monitors look at what was written, the locks are released,
the status is written, the counter drops (R342 phase 4). -/
def execNbCommandComplete (cmd : Nat) (s : State) : StepOut :=
  .next (match tget s.nbcmds cmd with
    | none => s
    | some c =>
      if !c.started || !(c.units.all (fun u => decide (u.st = .ended) || decide (u.st = .stopped))) then s
      else completeNb ((nbWritten c).foldl (fun s pa => afterWrite s (.hbm (nwDie c.word) pa) 8192) s) cmd c)

end Sys2Proof.Machine
end

