-- ==== Sys2Proof/Machine/Partitions.lean ====
section
/-! DEFINITION. Partitions: the control block and its commands (R391 to R397), and the phases of a resize (R399 to
R408). -/

namespace Sys2Proof.Machine

/-! ## The control block (R392, R393) -/

/-- Where word `i` of a structure in Quinmin's memory lies (R392, R430). -/
def svcTarget (s : State) (addr i : Nat) (write : Bool) : Option Target :=
  let die := addr / 2 ^ 53 % 4
  match s2translate s 16 die (addr % 2 ^ 53 + 8 * i) with
  | some (pa, e) => if write && !(pteW e) then none else some (.hbm die pa)
  | none => none

/-- Reads `n` words of it. -/
def svcRead (s : State) (addr n : Nat) : Option (List DWord) :=
  (List.range n).mapM (fun i => (svcTarget s addr i false).map (fun t => BitVec.ofNat 64 (readT s t 8)))

/-- Writes words of it from word `i` on. -/
def svcWrite (s : State) (addr i : Nat) (ws : List DWord) : State :=
  (ws.zip (List.range ws.length)).foldl (fun s x =>
    match svcTarget s addr (i + x.2) true with
    | some t => writeT s t 8 x.1.toNat
    | none => s) s

/-- The address of a partition's control block while its register is valid (R392). -/
def pcbOf (s : State) (p : Nat) : Option Nat :=
  let r := mget s.pregs p
  if p < 16 ∧ r.getLsbD 0 = true then some (r.toNat / 2 ^ 12 * 2 ^ 12) else none

/-- A core map in words of the control block, from word `i` (R394). -/
def readMap (w : List DWord) (i : Nat) : SMap 16 :=
  (List.range 512).foldl (fun m v => mset m v (BitVec.ofNat 16 ((w.getD (i + v / 4) 0).toNat / 2 ^ (16 * (v % 4))))) []

def mapWords (m : SMap 16) : List DWord :=
  (List.range 128).map (fun i => BitVec.ofNat 64 (packElems 16 (fun k => (mget m (4 * i + k)).toNat) 4))

/-- Slice masks and channel masks by die, from word `i`. -/
def readSlices (w : List DWord) (i : Nat) : List Nat :=
  (List.range 4).map (fun d => (w.getD (i + 2 * d) 0).toNat + 2 ^ 64 * (w.getD (i + 1 + 2 * d) 0).toNat)
def readChans (w : List DWord) (i : Nat) : List Nat := (List.range 4).map (fun d => (w.getD (i + d) 0).toNat)

def PartSt.code : PartSt → Nat
  | .active => 1 | .resizing => 2 | .destroying => 3

def setPart (s : State) (p : Nat) (x : Part) : State := { s with parts := tset s.parts p x }

/-- Writes word 0 (R393). -/
def showPart (s : State) (p code : Nat) : State :=
  match tget s.parts p with
  | none => s
  | some x => svcWrite s x.pcb 0 [BitVec.ofNat 64 (x.dseq.toNat * 2 ^ 32 + x.phase * 2 ^ 16 + code * 2 ^ 8 + x.st.code)]

/-- Writes the held resources (R393). -/
def showHeld (s : State) (p : Nat) : State :=
  match tget s.parts p with
  | none => s
  | some x =>
    let s := svcWrite s x.pcb 11 (x.slices.flatMap (fun m => [BitVec.ofNat 64 m, BitVec.ofNat 64 (m / 2 ^ 64)])
      ++ x.chans.map (BitVec.ofNat 64))
    svcWrite s x.pcb 32 (mapWords x.cmap)

/-- Completes a command: CODE, then DSEQ (R395). -/
def partDone (s : State) (p code : Nat) (q : Word) : State :=
  showPart { s with parts := tmod s.parts p (fun x => { x with dseq := q }) } p code

/-- A command that has been submitted: CMD, CSEQ and the control block. -/
structure PCmd where
  cmd : Nat
  q : Word
  pcb : Nat
  w : List DWord
deriving DecidableEq, Repr

/-- The command whose CSEQ the device has not seen yet (R395). -/
def partCommand (s : State) (p : Nat) : Option PCmd :=
  match pcbOf s p with
  | none => none
  | some a =>
    match svcRead s a 512 with
    | none => none
    | some w =>
      let q : Word := BitVec.ofNat 32 ((w.getD 1 0).toNat / 2 ^ 32)
      let seen : Word := match tget s.parts p with
        | some x => if x.cmd = 0 then x.dseq else x.cseq
        | none => BitVec.ofNat 32 ((w.getD 0 0).toNat / 2 ^ 32)
      if q = seen then none else some { cmd := (w.getD 1 0).toNat % 256, q := q, pcb := a, w := w }

/-- A command that a partition without resources does not accept, or that is none: BADSTATE (R395). -/
def refuseNone (s : State) (c : PCmd) (code : Nat) : State :=
  svcWrite s c.pcb 0 [BitVec.ofNat 64 (c.q.toNat * 2 ^ 32 + code * 2 ^ 8)]

/-! ## The second stage (R212, R447) -/

/-- The leaves of a second-stage table: intermediate offset, levels below, offset of the entry, entry. -/
def s2leaves (m : SMap 8) (die : Nat) : Nat → Nat → Nat → List (Nat × Nat × Nat × DWord)
  | 0, _, _ => []
  | k + 1, tbl, ia =>
    (List.range 1024).flatMap (fun i =>
      let e := rdPte m die (tbl + 8 * i)
      if !pteV e then []
      else if pteT e then s2leaves m die k (pteOff e) (ia + i * leafSize k)
      else if k = 3 then [] else [(ia + i * leafSize k, k, tbl + 8 * i, e)])

/-- The tables of a second stage, by offset. -/
def s2tables (m : SMap 8) (die : Nat) : Nat → Nat → List Nat
  | 0, _ => []
  | k + 1, tbl =>
    tbl :: (List.range 1024).flatMap (fun i =>
      let e := rdPte m die (tbl + 8 * i)
      if pteV e && pteT e then s2tables m die k (pteOff e) else [])

/-- Leaves and tables of a partition on a die. -/
def leavesOf (s : State) (p die : Nat) : List (Nat × Nat × Nat × DWord) :=
  match s2rootOf s p die with
  | some r => s2leaves s.hbm die 4 (pteOff r) 0
  | none => []
def tablesOf (s : State) (p die : Nat) : List Nat :=
  match s2rootOf s p die with
  | some r => s2tables s.hbm die 4 (pteOff r)
  | none => []

/-- The digest of a partition's second stage (R447). -/
def s2digest (s : State) (p : Nat) : List Nat :=
  let roots := (List.range 4).flatMap (fun d => bytesLittle ((s2rootOf s p d).getD 0).toNat 8)
  let tabs := (List.range 4).flatMap (fun d =>
    (((tablesOf s p d).foldl (fun (t : Tbl Nat) x => tset t x x) []).map Prod.fst).flatMap (fun t =>
      (List.range 8192).map (fun i => (mget s.hbm (hkey d (t + i))).toNat)))
  sha3 (roots ++ tabs)

/-- Takes the measurement of a partition's second stage (R447). -/
def measureS2 (s : State) (p : Nat) : State :=
  { s with meas := mset s.meas (0x20 + p) (BitVec.ofNat 512 (littleEndian (s2digest s p))) }

/-- The fields that the device takes over with each command (R392, R393). -/
def takePcb (s : State) (p : Nat) (w : List DWord) : State :=
  match tget s.parts p with
  | none => s
  | some x =>
    let y := { x with qtab := w.getD 4 0, ctab := (w.getD 5 0).toNat, s2root := (w.drop 7).take 4 }
    let s := setPart s p y
    if x.s2root = y.s2root then s else measureS2 s p

/-! ## Resources (R391, R394, R400) -/

/-- The cores of a map. -/
def mapCores (m : SMap 16) : List Nat := (m.filter (fun e => e.2.getLsbD 15)).map (fun e => e.2.toNat % 512)

/-- What another partition holds, or has in transit to it. -/
def othersCore (s : State) (p c : Nat) : Bool :=
  s.parts.any (fun x => decide (x.1 ≠ p) && ((mapCores x.2.cmap).contains c || (decide (x.2.st = .resizing) && (mapCores x.2.tmap).contains c)))
def othersMask (s : State) (p d : Nat) (f g : Part → List Nat) : Nat :=
  s.parts.foldl (fun a x =>
    if x.1 = p then a
    else Nat.lor (Nat.lor a ((f x.2).getD d 0)) (if x.2.st = .resizing then (g x.2).getD d 0 else 0)) 0

/-- Whether a target map is well formed (R394). -/
def mapOk (s : State) (p : Nat) (m : SMap 16) : Bool :=
  let cs := mapCores m
  decide (cs.eraseDups.length = cs.length) && (mget m 0).getLsbD 15 && cs.all (fun c => !(othersCore s p c))

/-- BADPCB of every command that reads a target: a reserved field, PART, or a map (R394, R395, R400 check 1). -/
def badTarget (s : State) (p : Nat) (w : List DWord) : Bool :=
  let f (i : Nat) : Nat := (w.getD i 0).toNat
  let m := readMap w 160
  let sl := readSlices w 288
  let ch := readChans w 296
  decide (f 1 / 2 ^ 9 % 2 ^ 7 ≠ 0) || decide (f 2 / 2 ^ 18 ≠ 0) || decide (f 3 / 2 ^ 6 ≠ 0) || decide (f 3 % 16 ≠ p)
    || decide (f 6 / 2 ^ 29 ≠ 0) || decide (f 6 / 2 ^ 12 % 16 ≠ 0)
    || (List.range 4).any (fun d => decide (f (7 + d) % 2 ^ 13 ≠ 0) || decide (f (7 + d) / 2 ^ 55 ≠ 0))
    || m.any (fun e => decide (e.2.toNat / 2 ^ 9 % 2 ^ 6 ≠ 0)) || sl.any (fun x => decide (x / 2 ^ 80 ≠ 0))
    || (w.drop 300).any (fun x => decide (x ≠ 0)) || !(mapOk s p m)
    || (List.range 4).any (fun d => decide ((sl.getD d 0 = 0) ≠ (ch.getD d 0 = 0)))

/-- BADPCB of CREATE: CAPEN and the near-bank allotment, which are read at CREATE only, are checked as well (R393). -/
def badPcb (s : State) (p : Nat) (w : List DWord) : Bool :=
  badTarget s p w || decide ((w.getD 2 0).toNat % 4 ≠ 3) || decide (4096 < (w.getD 6 0).toNat % 2 ^ 12 + (w.getD 6 0).toNat / 2 ^ 16)

/-- BUSY: a joining slice or channel is not FREE (R400 check 2). -/
def busy (s : State) (p : Nat) (w : List DWord) : Bool :=
  (List.range 4).any (fun d =>
    decide (Nat.land ((readSlices w 288).getD d 0) (othersMask s p d Part.slices Part.tslices) ≠ 0)
      || decide (Nat.land ((readChans w 296).getD d 0) (othersMask s p d Part.chans Part.tchans) ≠ 0))

/-- How many of the frames of a leaf lie in the channels of a mask. -/
def leafIn (mask num k : Nat) : Nat :=
  if k = 0 then (if mask.testBit (frameChan num) then 1 else 0)
  else (List.range (1024 ^ k / 512)).foldl (fun a i => if mask.testBit (frameChan (num + 512 * i)) then a + 512 else a) 0

/-- Frames of a die: 128 GiB (R14, R328). -/
def dieFrames : Nat := 2 ^ 24

/-- Whether a physical frame of a die is mapped by a leaf, or holds a table, of any second stage. -/
def frameUsed (s : State) (die f : Nat) : Bool :=
  (16 :: s.parts.map Prod.fst).any (fun p =>
    (leavesOf s p die).any (fun l => let n := pteOff l.2.2.2 / 8192; decide (n ≤ f) && decide (f < n + 1024 ^ l.2.1))
      || (tablesOf s p die).any (fun t => decide (t / 8192 = f)))

/-- The checks 3 to 7 of R400 for a resize; 0 for none. -/
def planCode (s : State) (p : Nat) (x : Part) (m : SMap 16) (sl ch : List Nat) : Nat :=
  let leaving (d : Nat) : Nat := x.chans.getD d 0 - Nat.land (x.chans.getD d 0) (ch.getD d 0)
  let removed (v : Nat) : Bool := (mget x.cmap v).getLsbD 15 && !((mget m v).getLsbD 15)
  let claimed := s.blocks.any (fun b => decide (b.2.part = p) && b.2.vcores.any removed
    && (match tget s.ctxs (p * 1024 + b.2.ctx) with
        | some c => decide (c.st = .saved)
        | none => false))
  let ls (d : Nat) := (leavesOf s p d).filter (fun l => decide (0 < leafIn (leaving d) (pteOff l.2.2.2 / 8192) l.2.1))
  let dies := List.range 4
  if sl.getD x.ndie 0 = 0 then 7
  else if claimed then 8
  else if dies.any (fun d => (ls d).any (fun l => pteBR l.2.2.2)) then 4
  else if dies.any (fun d => (ls d).any (fun l => decide (0 < l.2.1))) then 6
  else if dies.any (fun d =>
      let need := (ls d).length
      let runs := ((ls d).filter (fun l => pteRun l.2.2.2)).length / 8
      let chs := (List.range 64).filter (fun k => (ch.getD d 0).testBit k)
      let used := (16 :: s.parts.map Prod.fst).foldl (fun a q =>
        a + (leavesOf s q d).foldl (fun a l => a + leafIn (ch.getD d 0) (pteOff l.2.2.2 / 8192) l.2.1) 0
          + ((tablesOf s q d).filter (fun t => (ch.getD d 0).testBit (frameChan (t / 8192)))).length) 0
      let inRuns := ((16 :: s.parts.map Prod.fst).flatMap (fun q =>
        (leavesOf s q d).filterMap (fun l => if l.2.1 = 0 && (ch.getD d 0).testBit (frameChan (pteOff l.2.2.2 / 8192)) then some (pteOff l.2.2.2 / 65536) else none)
          ++ (tablesOf s q d).filterMap (fun t => if (ch.getD d 0).testBit (frameChan (t / 8192)) then some (t / 65536) else none))).eraseDups.length
      let larger := (16 :: s.parts.map Prod.fst).foldl (fun a q =>
        a + ((leavesOf s q d).filter (fun l => decide (0 < l.2.1))).foldl (fun a l => a + leafIn (ch.getD d 0) (pteOff l.2.2.2 / 8192) l.2.1) 0) 0
      decide (chs.length * (dieFrames / 64) < used + need) || decide (chs.length * (dieFrames / 512) < inRuns + larger / 8 + runs)) then 5
  else 0

/-! ## Zeroising (R401) -/

/-- The caches of a core hold no line (R401). -/
def emptyCaches (c : Coh) (core : Nat) : Coh :=
  let ls := ((c.cst.filter (fun e => decide (cacheCore (e.1 % 2048) = core) && !(isRdc (e.1 % 2048)))).map (fun e => e.1 / 2048)).eraseDups
  ls.foldl (fun c l =>
    unlist { c with cst := mset (mset c.cst (ckey l core) 0) (ckey l (516 + core)) 0 } (placeFor core l) l core) c

/-- A core before it joins: scratchpad, tags, operator handles and caches (R401). -/
def zeroCore (s : State) (c : Nat) : State :=
  { s with
    co := emptyCaches s.co c
    spad := mclear s.spad (skey c 0) (skey (c + 1) 0)
    spoison := mclear s.spoison (skey c 0 / 8) (skey (c + 1) 0 / 8)
    swz := mclear s.swz (c * 2 ^ 15) ((c + 1) * 2 ^ 15)
    opReuse := mclear s.opReuse (c * 64) (c * 64 + 64)
    ops := s.ops.filter (fun o => decide (o.1 / 64 ≠ c)) }

/-- Whether a physical byte lies in the channels of a mask of its die. -/
def inChan (d mask key : Nat) : Bool := decide (key / 2 ^ 53 = d) && mask.testBit (frameChan (key % 2 ^ 53 / 8192))

/-- The regions of 512 bytes that a directory or a cache knows, in the channels of a mask (R237). -/
def regionsIn (c : Coh) (d mask : Nat) : List Nat :=
  ((c.dir.map Prod.fst ++ c.cst.map (fun (e : Nat × BitVec 3) => e.1 / 8192)).eraseDups).filter (fun (r : Nat) => inChan d mask (r * 512))

/-- Channels before they join: every row, with its marks; no slice holds a line of them (R401). -/
def zeroChans (s : State) (d mask : Nat) : State :=
  if mask = 0 then s
  else { s with
    co := (regionsIn s.co d mask).foldl dropRegion s.co
    hbm := s.hbm.filter (fun e => !(inChan d mask e.1))
    poison := s.poison.filter (fun e => !(inChan d mask (16 * e.1)))
    ctag := s.ctag.filter (fun e => !(inChan d mask (16 * e.1))) }

/-! ## CREATE and ENTER -/

/-- PARTITION_CREATE: the checks, then every target resource is zeroised and attached (R397, R400, R401). In NONE every other
command completes BADSTATE. -/
def execPartitionCreate (p : Nat) (s : State) : StepOut :=
  .next (match partCommand s p with
    | none => s
    | some c =>
      match tget s.parts p with
      | some x =>
        if c.cmd = 1 ∨ c.cmd = 0 ∨ 5 < c.cmd ∨ (c.cmd = 3 ∧ x.st ≠ .resizing) then
          partDone { s with parts := tmod s.parts p (fun x => { x with cseq := c.q }) } p 1 c.q
        else s
      | none =>
        let f (i : Nat) : Nat := (c.w.getD i 0).toNat
        let sl := readSlices c.w 288
        let ch := readChans c.w 296
        if c.cmd ≠ 1 then refuseNone s c 1
        else if badPcb s p c.w then refuseNone s c 2
        else if busy s p c.w then refuseNone s c 3
        else if sl.getD (f 3 / 16 % 4) 0 = 0 then refuseNone s c 7
        else
          let m := readMap c.w 160
          let s := (mapCores m).foldl zeroCore s
          let s := (List.range 4).foldl (fun s d => zeroChans s d (ch.getD d 0)) s
          let x : Part :=
            { st := .active, pcb := c.pcb, phase := 0, dseq := 0, capen := BitVec.ofNat 18 (f 2), ndie := f 3 / 16 % 4,
              qtab := c.w.getD 4 0, ctab := f 5, sqbase := f 6 % 2 ^ 12, sqlen := f 6 / 2 ^ 16 % 2 ^ 13, s2root := (c.w.drop 7).take 4,
              cmap := m, slices := sl, chans := ch, tmap := [], tslices := [], tchans := [], force := false, forced := false,
              sweep := [], moving := none, cmd := 0, cseq := c.q }
          let d : Disp := { decisions := 0, marks := 0, cycle := [], last := [], reserving := none, waiters := [], recs := [] }
          let s := setPart s p x
          let s := { s with
            disps := tset s.disps p d
            notify := mclear s.notify (p * 4096) (p * 4096 + 4096) }
          partDone (showHeld (measureS2 s p) p) p 0 c.q)

/-- Whether a record may become a context: its device-written words are zero (R369). -/
def recordFresh (w : List DWord) : Bool :=
  let f (i : Nat) : Nat := (w.getD i 0).toNat
  decide (f 0 = 0) && decide (f 14 = 0) && decide (f 15 = 0)
    && (List.range 8).all (fun k => decide (f (21 + 4 * k) % 2 ^ 32 = 0) && decide (f (23 + 4 * k) / 2 ^ 32 = 0))

/-- A context that has only been entered (R373). -/
def newCtx (addr : Nat) : Ctx :=
  { st := .created, addr := addr, dseq := 0, prot := false, pasid := 0, suph := 0, frame := 0, park := 0, npark := 0, spark := 0,
    ring := 0, swapbase := 0, nswap := 0, swapstride := 0, saverec := 0, restrec := 0, roots := [], frames := [], nv := false,
    nidx := 0, stopped := false, before := .created, sgrid := none, checks := [], cmd := 0, cseq := 0, ph := 0 }

/-- PARTITION_ENTER: a record of the context table becomes context ARG (R395). -/
def execPartitionEnter (p : Nat) (s : State) : StepOut :=
  .next (match partCommand s p, tget s.parts p with
    | some c, some x =>
      if c.cmd ≠ 5 ∨ x.st = .destroying then s
      else
        let arg := (c.w.getD 1 0).toNat / 2 ^ 16 % 2 ^ 16
        let s := takePcb { s with parts := tmod s.parts p (fun x => { x with cseq := c.q }) } p c.w
        let bad := partDone s p 11 c.q
        let inUse := match tget s.ctxs (p * 1024 + arg) with
          | some y => decide (y.st ≠ .destroyed)
          | none => false
        if 1024 ≤ arg ∨ inUse = true then bad
        else
          match svcRead s ((c.w.getD 5 0).toNat + 8 * arg) 1 with
          | some [e] =>
            let addr := e.toNat / 2 ^ 12 * 2 ^ 12 % 2 ^ 53
            (match recRead s p addr 0 512 with
              | .done w =>
                if e.getLsbD 0 && recordFresh w then
                  partDone { s with ctxs := tset s.ctxs (p * 1024 + arg) (newCtx addr) } p 0 c.q
                else bad
              | _ => bad)
          | _ => bad
    | _, _ => s)

/-! ## RESIZE (R399 to R403) -/

/-- CODE as word 0 has it (R393). -/
def shownCode (s : State) (p : Nat) : Nat :=
  match tget s.parts p with
  | some x => (match svcRead s x.pcb 1 with
      | some [w] => w.toNat / 2 ^ 8 % 2 ^ 8
      | _ => 0)
  | none => 0

/-- Sets the phase and shows it. -/
def toPhase (s : State) (p n : Nat) : State :=
  showPart { s with parts := tmod s.parts p (fun x => { x with phase := n }) } p (shownCode s p)

/-- Whether a context of a partition is in one of some states. -/
def anyCtx (s : State) (p : Nat) (f : CtxSt → Bool) : Bool := s.ctxs.any (fun c => decide (c.1 / 1024 = p) && f c.2.st)

/-- PLAN: the checks of R400; a resize that passes enters ADMIT with its joining resources in transit. -/
def plan (s : State) (p : Nat) (w : List DWord) : State :=
  match tget s.parts p with
  | none => s
  | some x =>
    let m := readMap w 160
    let sl := readSlices w 288
    let ch := readChans w 296
    let code := if badTarget s p w then 2 else if busy s p w then 3 else planCode s p x m sl ch
    if code ≠ 0 then
      partDone { s with parts := tset s.parts p { x with st := .active, phase := 0, cmd := 0 } } p code x.cseq
    else toPhase (setPart s p { x with tmap := m, tslices := sl, tchans := ch }) p 2

/-- PARTITION_RESIZE: RESIZE begins with PLAN, where it waits for saves and restores to end (R397, R399, R400). Without capability
0x0050 it is accepted only while no context runs (R21). -/
def execPartitionResize (p : Nat) (s : State) : StepOut :=
  .next (match tget s.parts p with
    | none => s
    | some x =>
      let busyCtx := anyCtx s p (fun st => decide (st = .preempting) || decide (st = .restoring))
      if x.st = .resizing ∧ x.phase = 1 then
        (if busyCtx then s
          else match svcRead s x.pcb 512 with
            | some w => plan s p w
            | none => s)
      else
        match partCommand s p with
        | none => s
        | some c =>
          if c.cmd ≠ 2 then s
          else if x.st ≠ .active ∨ (!(capOn s p capLive) && (busyCtx || anyCtx s p (fun st => decide (st = .running)))) then
            partDone { s with parts := tmod s.parts p (fun x => { x with cseq := c.q }) } p 1 c.q
          else
            let s := takePcb { s with parts := tmod s.parts p (fun x => { x with cseq := c.q }) } p c.w
            let s := toPhase { s with parts := tmod s.parts p (fun x =>
              { x with st := .resizing, cmd := 2, force := (c.w.getD 1 0).getLsbD 8, forced := false, tmap := [], tslices := [], tchans := [] }) } p 1
            if busyCtx then s else plan s p c.w)

/-- Virtual cores by how the maps differ (R400). -/
def addedV (x : Part) (v : Nat) : Bool := !((mget x.cmap v).getLsbD 15) && (mget x.tmap v).getLsbD 15
def remappedV (x : Part) (v : Nat) : Bool :=
  (mget x.cmap v).getLsbD 15 && (mget x.tmap v).getLsbD 15 && decide ((mget x.cmap v).toNat % 512 ≠ (mget x.tmap v).toNat % 512)

/-- The blocks that have a workgroup on a removed virtual core. -/
def onRemoved (s : State) (p : Nat) (x : Part) : List (Nat × Block) :=
  s.blocks.filter (fun b => decide (b.2.part = p) && !b.2.swapped && b.2.vcores.any (removedV x))

/-- RESIZE_ADMIT_END: the joining resources are zeroised and held, added cores are there, and DRAIN begins: blocks on removed
cores are asked to switch, and those that may leave do (R401, R402). -/
def execResizeAdmitEnd (p : Nat) (s : State) : StepOut :=
  .next (match tget s.parts p with
    | none => s
    | some x =>
      if x.st ≠ .resizing ∨ x.phase ≠ 2 then s
      else
        let join := (mapCores x.tmap).filter (fun c => !((mapCores x.cmap).contains c))
        let s := join.foldl zeroCore s
        let s := (List.range 4).foldl (fun s d => zeroChans s d (x.tchans.getD d 0 - Nat.land (x.tchans.getD d 0) (x.chans.getD d 0))) s
        let s := (List.range 512).foldl (fun s v => if addedV x v then { s with moved := mset s.moved (p * 512 + v) (mget x.tmap v) } else s) s
        let s := toPhase s p 3
        match tget s.parts p with
        | none => s
        | some y => (onRemoved s p y).foldl (fun s b => swapOut (postSwitch s b.1) b.1 false) s)

/-- RESIZE_DRAIN_END: blocks that have become able to leave do; when no workgroup and no operator is left on a removed virtual
core, REHASH begins (R399, R402, R404). -/
def execResizeDrainEnd (p : Nat) (s : State) : StepOut :=
  .next (match tget s.parts p with
    | none => s
    | some x =>
      if x.st ≠ .resizing ∨ x.phase ≠ 3 then s
      else
        let s := (onRemoved s p x).foldl (fun s b => swapOut s b.1 b.2.stop) s
        let ops := s.ops.any (fun o => (List.range 512).any (fun v => removedV x v && decide (physCore s p v = some (o.1 / 64))))
        if !(onRemoved s p x).isEmpty || ops then s
        else
          let olds := (List.range 4).flatMap (fun d =>
            if x.slices.getD d 0 = x.tslices.getD d 0 then []
            else ((List.range 80).filter (fun k => (x.slices.getD d 0).testBit k)).map (fun k => (d * 80 + k, 0)))
          toPhase { s with parts := tmod s.parts p (fun x => { x with sweep := olds }) } p (if olds.isEmpty then 5 else 4))

/-- RESIZE_FORCE: with FORCE, blocks on removed cores are swapped out whether they wait or not, and the grids of those that cannot
be are killed (R403). -/
def execResizeForce (p : Nat) (s : State) : StepOut :=
  .next (match tget s.parts p with
    | none => s
    | some x =>
      if x.st ≠ .resizing ∨ x.phase ≠ 3 ∨ x.force = false then s
      else
        (onRemoved s p x).foldl (fun s b =>
          if mayLeave s b.1 b.2 then swapOut s b.1 true
          else
            match tget s.blocks b.1 with
            | none => s
            | some y => stopAndEnd gridFuel { s with parts := tmod s.parts p (fun x => { x with forced := true }) } y.grid .killed 9 0 0 0) s)

/-! ## REHASH (R398, R404) -/

/-- The regions of 512 bytes of a die with any state: a directory entry or copy, a transaction, or an ARMED monitor. -/
def liveRegions (s : State) (d : Nat) : List Nat :=
  let lines := s.co.cst.map (fun e => e.1 / 2048) ++ s.co.dir.map (fun e => e.1 * 4) ++ s.co.ctxn.map (fun t => t.line)
  (lines.filter (fun l => decide (l * 128 / 2 ^ 53 = d))).map (fun l => l * 128 % 2 ^ 53 / 512)
    ++ s.blocks.flatMap (fun b => b.2.mons.filterMap (fun m => match m.2.tgt with
        | .hbm d' o => if d' = d then some (o / 512) else none
        | _ => none))

/-- REHASH_HANDOVER: the next old slice hands over its lowest region at or above SP, once no transaction is in progress on it,
and SP passes it; a slice with none left has finished its sweep (R404). -/
def execRehashHandover (p : Nat) (s : State) : StepOut :=
  .next (match tget s.parts p with
    | none => s
    | some x =>
      if x.st ≠ .resizing ∨ x.phase ≠ 4 then s
      else
        match x.sweep with
        | [] => toPhase s p 5
        | (k, sp) :: rest =>
          let d := k / 80
          let mine := (liveRegions s d).filter (fun r => decide (sp ≤ r * 512) && decide (homeSlice (x.slices.getD d 0) (r * 512) = k % 80))
          match mine with
          | [] =>
            let s := { s with parts := tmod s.parts p (fun x => { x with sweep := rest }) }
            if rest.isEmpty then toPhase s p 5 else s
          | r :: rs =>
            let r := rs.foldl min r
            if s.co.ctxn.any (fun t => decide (t.line * 128 / 2 ^ 53 = d) && decide (t.line * 128 % 2 ^ 53 / 512 = r)) then s
            else { s with parts := tmod s.parts p (fun x => { x with sweep := (k, (r + 1) * 512) :: rest }) })

/-! ## Moving cores (R405, R406) -/

/-- The new place of a core under a list of moves. -/
def movedCore (ms : List (Nat × Nat × Nat)) (c : Nat) : Nat :=
  match ms.find? (fun m => decide (m.2.1 = c)) with
  | some m => m.2.2
  | none => c

def moveTarget (ms : List (Nat × Nat × Nat)) (t : Target) : Target :=
  match t with
  | .spad c o => .spad (movedCore ms c) o
  | .window c o => .window (movedCore ms c) o
  | t => t

/-- A sparse map with `n` keys a core, moved. -/
def moveKeys {w : Nat} (ms : List (Nat × Nat × Nat)) (n : Nat) (m : SMap w) : SMap w :=
  let stay := m.filter (fun e => !(ms.any (fun x => decide (x.2.1 = e.1 / n) || decide (x.2.2 = e.1 / n))))
  (m.filter (fun e => ms.any (fun x => decide (x.2.1 = e.1 / n)))).foldl (fun t e => mset t (movedCore ms (e.1 / n) * n + e.1 % n) e.2) stay

/-- Whether everything on a core has ended (R405 step 1). -/
def coreQuiet (s : State) (p v c : Nat) : Bool :=
  let lo := (spadAddr v 0).toNat
  let here (gid : Nat) : Bool := match tget s.groups gid with
    | some g => decide (g.core = c)
    | none => false
  s.locks.all (fun l => decide (l.part ≠ p) || decide (lo + 0x200000 ≤ l.lo) || decide (l.hi < lo))
    && s.copies.all (fun x => !x.2.started || !(here x.2.gid)) && s.nbcmds.all (fun x => !x.2.started || !(here x.2.gid))
    && s.passes.all (fun x => match tget s.ops x.2.op with
        | some o => !(o.members.any (fun k => decide (k / 64 = c)))
        | none => true)
    && s.groups.all (fun g => decide (g.2.core ≠ c) || (ldStZero g.2 && decide (g.2.st ≠ .exiting)))

/-- Everything that lies on moved cores, at its new place (R405 step 3, R406). -/
def moveState (s : State) (ms : List (Nat × Nat × Nat)) : State :=
  let key (k : Nat) : Nat := movedCore ms (k / 64) * 64 + k % 64
  let lane (l : StLane) : StLane := { l with tgt := moveTarget ms l.tgt }
  let wait (w : Wait) : Wait := match w with
    | .opFree c i d => .opFree (movedCore ms c) i d
    | .opGrant c i x d => .opGrant (movedCore ms c) i x d
    | .opDisc c i x d => .opDisc (movedCore ms c) i x d
    | w => w
  let slot (sl : Slot) : Slot := { sl with wait := wait sl.wait }
  { s with
    spad := moveKeys ms (2 ^ 21) s.spad
    spoison := moveKeys ms (2 ^ 18) s.spoison
    swz := moveKeys ms (2 ^ 15) s.swz
    opReuse := moveKeys ms 64 s.opReuse
    ops := s.ops.foldl (fun (t : Tbl Oper) o => tset t (key o.1) { o.2 with root := o.2.root.map key, members := o.2.members.map key }) []
    passes := s.passes.map (fun x => (x.1, { x.2 with op := key x.2.op }))
    heldAcc := s.heldAcc.map (fun h => { h with core := movedCore ms h.core, lanes := h.lanes.map lane })
    svcreqs := s.svcreqs.map (fun r => (r.1, { r.2 with wake := moveTarget ms r.2.wake }))
    groups := s.groups.map (fun g => (g.1, { g.2 with
      core := movedCore ms g.2.core, a := slot g.2.a, b := slot g.2.b
      susp := g.2.susp.map (fun y => (y.1, y.2.1, y.2.2.1, wait y.2.2.2))
      out := g.2.out.map (fun o => { o with stores := o.stores.map lane }) })) }

/-- A group on a moved core is parked with REASON 4 and resumes at the new place; one that is parked already stays so. -/
def migrate (s : State) (gids : List Nat) (f : State → State) : State :=
  let s := f (gids.foldl (fun s g => parkGroup s g 4 0) s)
  gids.foldl (fun s g =>
    match tget s.groups g with
    | some x =>
      if x.st = .parked && x.reason = 4 then
        let (age, s) := fresh s
        unparkGroup s g x.core x.gslot age
      else s
    | none => s) s

/-- CORE_MOVE: a remapped virtual core stops and drains; when it is quiet it moves with its full state (R405, R406). -/
def execCoreMove (p v : Nat) (s : State) : StepOut :=
  .next (match tget s.parts p with
    | none => s
    | some x =>
      if x.st ≠ .resizing ∨ x.phase ≠ 5 ∨ remappedV x v = false ∨ mget s.moved (p * 512 + v) ≠ 0 ∨ (x.moving.isSome ∧ x.moving ≠ some v) then s
      else
        let ms := moveChain s p x 512 v
        let cores := ms.map (fun m => m.2.1)
        let here := (s.groups.filter (fun g => cores.contains g.2.core && decide (g.2.st = .resident))).map Prod.fst
        let blks := (s.blocks.filter (fun b => decide (b.2.part = p) && !b.2.swapped && (List.range b.2.vcores.length).any (fun i => cores.contains (wgCore s b.2 i)))).map Prod.fst
        let s := { s with
          parts := tmod s.parts p (fun x => { x with moving := some v })
          blocks := blks.foldl (fun t b => tmod t b (fun y => { y with stop := true })) s.blocks }
        let roots := (s.ops.filter (fun o => o.2.root.isNone && decide (o.2.st = .bound) && o.2.members.any (fun k => cores.contains (k / 64)))).map Prod.fst
        let s := roots.foldl (fun s k => opSetSt s k .moving) s
        let s := here.foldl drainLdSt s
        if !(ms.all (fun m => coreQuiet s p m.1 m.2.1)) then s
        else if (allReady (here.map (parkReady s))).waits s p then waitFor s p (allReady (here.map (parkReady s)))
        else
          let s := migrate s here (fun s =>
            let s := moveState s ms
            { s with moved := ms.foldl (fun t m => mset t (p * 512 + m.1) (mget x.tmap m.1)) s.moved })
          let s := { s with
            parts := tmod s.parts p (fun x => { x with moving := none })
            blocks := blks.foldl (fun t b => tmod t b (fun y => { y with stop := y.stop && !(ctxServed s p y.ctx) })) s.blocks
            disps := tmod s.disps p (fun d => match d.reserving with
              | some r => if r.cores.any cores.contains then { d with reserving := none, waiters := r.src :: d.waiters } else d
              | none => d) }
          let still := (List.range 512).any (fun u => remappedV x u && decide (mget s.moved (p * 512 + u) = 0))
          let done (o : Oper) : Bool := decide (o.members.length ≤ 1) || !still
          let s := (s.ops.filter (fun o => decide (o.2.part = p) && o.2.root.isNone && decide (o.2.st = .moving) && done o.2)).foldl
            (fun s o => opSetSt s o.1 .bound) s
          pumpIn s)

/-! ## Moving pages (R407) -/

/-- A target in a moved frame, at its new place. -/
def movePage (d old new n : Nat) (t : Target) : Target :=
  match t with
  | .hbm d' o => if d' = d ∧ old ≤ o ∧ o < old + n then .hbm d (o - old + new) else t
  | .hdm d' o => if d' = d ∧ old ≤ o ∧ o < old + n then .hdm d (o - old + new) else t
  | t => t

/-- The entries of a map in `[a, a + n)` copied to `b`. -/
def copyKeys {w : Nat} (a b n : Nat) (m : SMap w) : SMap w :=
  (m.filter (fun e => decide (a ≤ e.1) && decide (e.1 < a + n))).foldl (fun t e => mset t (e.1 - a + b) e.2) (mclear m b (b + n))

/-- Of the leaves that map a frame in a channel of the mask: the first of a run, else the first. -/
def pickLeaf (mask : Nat) (leaves : List (Nat × Nat × Nat × DWord)) : Option (Nat × Nat × Nat × DWord) :=
  let ls := leaves.filter (fun l => decide (0 < leafIn mask (pteOff l.2.2.2 / 8192) l.2.1))
  match ls.find? (fun l => pteRun l.2.2.2) with
  | some l => some l
  | none => ls.head?
/-- The channels of a die that a partition gives up. -/
def leavingMask (x : Part) (d : Nat) : Nat := x.chans.getD d 0 - Nat.land (x.chans.getD d 0) (x.tchans.getD d 0)

/-- A leaf of a die that maps a frame in a leaving channel. -/
def leavingLeaf (s : State) (p : Nat) (x : Part) (d : Nat) : Option (Nat × Nat × Nat × DWord) :=
  pickLeaf (leavingMask x d) (leavesOf s p d)

/-- A free run of `k` frames in the target channels. -/
def freeRunOf (s : State) (x : Part) (d k : Nat) : Option Nat :=
  ((List.range (dieFrames / k)).map (· * k)).find? (fun f =>
    (x.tchans.getD d 0).testBit (frameChan f) && (List.range k).all (fun i => !(frameUsed s d (f + i))))

/-- Whether an engine operation of a partition holds a lock on a page that maps an intermediate frame (R407 step 2). -/
def pageLocked (s : State) (p d ia n : Nat) : Bool :=
  s.locks.any (fun l => decide (l.part = p) && decide (l.die = d)
    && (List.range ((l.hi - l.lo) / 8192 + 2)).any (fun i =>
      match s1of s p l.ctx d ((l.lo % 2 ^ 53) / 8192 * 8192 + 8192 * i) with
      | .leaf e k _ =>
        let a := pteOff e + ((l.lo % 2 ^ 53) / 8192 * 8192 + 8192 * i) % leafSize k
        decide (ia ≤ a) && decide (a < ia + n)
      | _ => false))

/-- The leaves of a first-stage table that lies in intermediate memory (R212). -/
def s1leaves (s : State) (p die : Nat) : Nat → Nat → List DWord
  | 0, _ => []
  | k + 1, tbl =>
    (List.range 1024).flatMap (fun i =>
      match s2translate s p die (tbl + 8 * i) with
      | none => []
      | some (pa, _) =>
        let e := rdPte s.hbm die pa
        if !pteV e then []
        else if pteT e then s1leaves s p die k (pteOff e)
        else if pteBias e && decide (k < 3) then [BitVec.ofNat 64 (k * 2 ^ 60 + pteOff e)] else [])

/-- Whether a page of some context of a partition maps part of an intermediate frame under host bias (R407 step 3). -/
def hostBiased (s : State) (p die ia n : Nat) : Bool :=
  s.ctxs.any (fun c => decide (c.1 / 1024 = p) && (s1leaves s p die 4 (pteOff (c.2.roots.getD die 0))).any (fun e =>
    let a := e.toNat % 2 ^ 60
    decide (a < ia + n) && decide (ia < a + leafSize (e.toNat / 2 ^ 60))))

/-- Whether a near-bank command on a leaving channel of a die is under way (R343, R407). -/
def leavingNb (s : State) (p d mask : Nat) : Bool :=
  s.nbcmds.any (fun c => decide (c.2.part = p) && c.2.started && decide (nwDie c.2.word = d)
    && mask.testBit (32 * nwStack c.2.word + nwCh c.2.word))

/-- PAGE_MOVE: one page leaves a leaving channel (R407). -/
def execPageMove (p : Nat) (s : State) : StepOut :=
  .next (match tget s.parts p with
    | none => s
    | some x =>
      if x.st ≠ .resizing ∨ x.phase ≠ 5 then s
      else
        match (List.range 4).findSome? (fun d => (leavingLeaf s p x d).map (fun l => (d, l))) with
        | none => s
        | some (d, ia, _, slot, e) =>
          let k := if pteRun e then 8 else 1
          let ia := ia / (8192 * k) * (8192 * k)
          let slot := slot / (8 * k) * (8 * k)
          let old := pteOff (rdPte s.hbm d slot)
          let n := 8192 * k
          if pageLocked s p d ia n || leavingNb s p d (leavingMask x d) then s
          else
            match freeRunOf s x d k with
            | none => s
            | some f =>
              let new := f * 8192
              let s := flushLines s (rangeLines d old n) true
              let s := if hostBiased s p d ia n then { s with co := coTell s.co (.biSnpInv d old n) } else s
              let s := { s with
                s2old := s.s2old.filter (fun e => !(decide (hkey d slot ≤ e.1) && decide (e.1 < hkey d slot + 8 * k)))
                hbm := copyKeys (hkey d old) (hkey d new) n s.hbm
                poison := copyKeys (hkey d old / 16) (hkey d new / 16) (n / 16) s.poison
                ctag := copyKeys (hkey d old / 16) (hkey d new / 16) (n / 16) s.ctag }
              let s := (List.range k).foldl (fun s i =>
                let w := rdPte s.hbm d (slot + 8 * i)
                writeT s (.hbm d (slot + 8 * i)) 8 ((w &&& 0xFFE0000000001FFF#64) ||| BitVec.ofNat 64 ((f + i) * 2 ^ 13)).toNat) s
              let mv := movePage d old new n
              pumpIn { s with
                blocks := s.blocks.map (fun b => (b.1, { b.2 with mons := b.2.mons.map (fun m => (m.1, { m.2 with tgt := mv m.2.tgt })) }))
                svcreqs := s.svcreqs.map (fun r => (r.1, { r.2 with wake := mv r.2.wake }))
                groups := s.groups.map (fun g => (g.1, { g.2 with out := g.2.out.map (fun o => { o with stores := o.stores.map (fun l => { l with tgt := mv l.tgt }) }) })) })

/-! ## The end of a resize, ABORT, DESTROY -/

/-- Forgets a resize; the virtual cores of the partition are those of CMAP. -/
def clearResize (s : State) (p : Nat) : State :=
  { s with
    moved := mclear s.moved (p * 512) (p * 512 + 512)
    parts := tmod s.parts p (fun x => { x with
      st := .active, phase := 0, tmap := [], tslices := [], tchans := [], force := false, forced := false, sweep := [], moving := none, cmd := 0 }) }

/-- RESIZE_DETACH: MIGRATE is over; leaving resources are FREE and the targets take effect (R399, R408). -/
def execResizeDetach (p : Nat) (s : State) : StepOut :=
  .next (match tget s.parts p with
    | none => s
    | some x =>
      let left := (List.range 512).any (fun v => remappedV x v && decide (mget s.moved (p * 512 + v) = 0))
        || (List.range 4).any (fun d => (leavingLeaf s p x d).isSome)
      if x.st ≠ .resizing ∨ x.phase ≠ 5 ∨ left = true then s
      else
        let code := if x.forced then 10 else 0
        let s := { s with parts := tset s.parts p { x with cmap := x.tmap, slices := x.tslices, chans := x.tchans } }
        partDone (showHeld (measureS2 (clearResize s p) p) p) p code x.cseq)

/-- Ends a resize in PLAN, ADMIT or DRAIN: the joining resources are FREE again. Blocks that were placed on added cores leave them, or
their grids are killed (R397). -/
def abortResize (s : State) (p : Nat) : State :=
  match tget s.parts p with
  | none => s
  | some x =>
    let on := s.blocks.filter (fun b => decide (b.2.part = p) && !b.2.swapped && b.2.vcores.any (addedV x))
    let s := on.foldl (fun s b =>
      if mayLeave s b.1 b.2 then
        let s := swapOut s b.1 true
        match tget s.blocks b.1 with
        | some y => if y.swapped then s else stopAndEnd gridFuel s y.grid .killed 9 0 0 0
        | none => s
      else match tget s.blocks b.1 with
        | some y => stopAndEnd gridFuel s y.grid .killed 9 0 0 0
        | none => s) s
    clearResize { s with blocks := s.blocks.map (fun b => if b.2.part = p ∧ ctxServed s p b.2.ctx = true then (b.1, { b.2 with stop := false }) else b) } p

/-- PARTITION_ABORT: accepted in ADMIT and DRAIN (R395, R397). -/
def execPartitionAbort (p : Nat) (s : State) : StepOut :=
  .next (match partCommand s p, tget s.parts p with
    | some c, some x =>
      if c.cmd ≠ 3 ∨ x.st ≠ .resizing then s
      else
        let s := { s with parts := tmod s.parts p (fun x => { x with cseq := c.q }) }
        if x.phase = 2 ∨ x.phase = 3 then partDone (abortResize s p) p 9 c.q else partDone s p 1 c.q
    | _, _ => s)

/-- PARTITION_DESTROY: an early resize is abandoned and a late one runs to DONE first; then every context is destroyed and every
resource is FREE (R397). -/
def execPartitionDestroy (p : Nat) (s : State) : StepOut :=
  .next (match partCommand s p, tget s.parts p with
    | some c, some x =>
      if c.cmd ≠ 4 ∨ (x.st = .resizing ∧ 4 ≤ x.phase) then s
      else
        let s := if x.st = .resizing then partDone (abortResize s p) p 9 x.cseq else s
        let s := showPart { s with parts := tmod s.parts p (fun x => { x with st := .destroying }) } p (shownCode s p)
        let s := (s.ctxs.filter (fun y => decide (y.1 / 1024 = p))).foldl (fun s y =>
          let k := y.1 % 1024
          let s := if y.2.cmd ≠ 0 then ctxDone s p k 8 else s
          destroyCtx s p k) s
        let s := revokeIn s (fun r => decide (r.part = p))
        let s := showHeld { s with parts := tmod s.parts p (fun x => { x with cmap := [], slices := [0, 0, 0, 0], chans := [0, 0, 0, 0] }) } p
        let s := svcWrite s x.pcb 0 [BitVec.ofNat 64 (c.q.toNat * 2 ^ 32)]
        { s with
          parts := tdel s.parts p
          disps := tdel s.disps p
          ctxs := s.ctxs.filter (fun y => decide (y.1 / 1024 ≠ p))
          queues := s.queues.filter (fun y => decide (y.1 / 256 ≠ p))
          ops := s.ops.filter (fun o => decide (o.2.part ≠ p))
          s2wait := s.s2wait.filter (fun y => decide (y.1 ≠ p))
          s2refused := s.s2refused.filter (fun y => decide (y.1 ≠ p))
          moved := mclear s.moved (p * 512) (p * 512 + 512) }
    | _, _ => s)

end Sys2Proof.Machine
end

