-- ==== Sys2Proof/Machine/Power.lean ====
section
/-! DEFINITION. Power, temperature and reset (R457 to R461), the management block (R462), and writes of registers (R392, R414,
R419, R423, R424, R430). -/

namespace Sys2Proof.Machine

/-! ## Power and reset -/

/-- POWER_GOOD: every rail is within its limits (R457). -/
def execPowerGood (s : State) : StepOut := .next { s with pgood := true }

/-- POWER_REMOVED: the module falls back into power-on reset, and every wait for this ends (R449, R457, R460). -/
def execPowerRemoved (s : State) : StepOut := .next { moduleReset s .power with pgood := false }

/-- POWER_ON_RESET: with power good, module reset begins. The log survives one power cycle after an ERASE, and MSTAT.TRIP shows
that a thermal trip ended the last one (R449, R460, R461). -/
def execPowerOnReset (s : State) : StepOut :=
  .next (if s.pgood = true ∧ s.hold = .power then
      (let r := { moduleReset s .boot with trip := s.tripped, tripped := false, logKeep := false, elogSeq := 0 }
       if s.logKeep then r else { r with elog := [], elogLost := 0 })
    else s)

/-- PCIE_FUNDAMENTAL_RESET on port H (R461). -/
def execPcieFundamentalReset (s : State) : StepOut := .next (requestReset s)

/-- MRST: hart `h` writes 1 to MSTAT.MRST; only M level can (R461, R462). -/
def execMrst (h : Nat) (s : State) : StepOut := .next (if atM s h then requestReset s else s)

/-- THERMAL_TRIP: a sensor reads 110 °C or more: dies 0 to 3, the service die (4), stacks 0 to 7 (5 to 12) (R460). -/
def execThermalTrip (unit temp : Nat) (s : State) : StepOut :=
  .next (if unit < 13 ∧ 110 ≤ temp ∧ s.hold ≠ .power ∧ s.hold ≠ .erase then { moduleReset s .trip with tripped := true } else s)

/-- HBM_HOT: a stack at or above 95 °C doubles its refresh rate (R460). -/
def execHbmHot (stack temp : Nat) (s : State) : StepOut :=
  .next (if stack < 8 ∧ 95 ≤ temp ∧ temp < 256 then
      { s with refresh2 := s.refresh2 ||| (1#8 <<< stack),
               stemps := BitVec.ofNat 64 (s.stemps.toNat - s.stemps.toNat / 2 ^ (8 * stack) % 256 * 2 ^ (8 * stack) + temp * 2 ^ (8 * stack)) }
    else s)

/-- Byte `k` of the sensors of a comparison: dies 0 to 3, the service die, stacks 0 to 7. -/
def sensor (temps : BitVec 104) (k : Nat) : Nat := temps.toNat / 2 ^ (8 * k) % 256

/-- The power limit in force (R462). -/
def powerLimit (s : State) : Nat := min 2400 (max 600 s.plim.toNat)

/-- A die's step minus 1 after a comparison: lowered by one above the limit or while the die is warm, raised by one well
below the limit while nothing is warm, and kept within 4/16 and what CMAX allows (R458 to R460). -/
def nextStep (s : State) (meas : Nat) (temps : BitVec 104) (d : Nat) : Nat :=
  let cur := s.steps.toNat / 2 ^ (4 * d) % 16
  let hot := decide (s.twarn.toNat ≤ sensor temps d)
  let thermal := (List.range 4).any (fun k => decide (s.twarn.toNat ≤ sensor temps k))
    || (List.range 8).any (fun k => decide (95 ≤ sensor temps (5 + k)))
  let want := if powerLimit s < meas || hot then cur - 1
    else if decide (meas * 100 < powerLimit s * 95) && !thermal then cur + 1 else cur
  max 3 (min want s.cmax.toNat)

/-- POWER_COMPARISON: the measured power in W and the sensors (R459, R460, R462). -/
def execPowerComparison (meas : Nat) (temps : BitVec 104) (s : State) : StepOut :=
  .next (if s.hold ≠ .none ∨ 2 ^ 32 ≤ meas ∨ (List.range 13).any (fun k => decide (110 ≤ sensor temps k)) then s
    else
      { s with
        noww := BitVec.ofNat 32 meas
        maxw := if s.maxw.toNat < meas then BitVec.ofNat 32 meas else s.maxw
        steps := BitVec.ofNat 20 (s.steps.toNat / 2 ^ 16 * 2 ^ 16 + nextStep s meas temps 0 + nextStep s meas temps 1 * 2 ^ 4
          + nextStep s meas temps 2 * 2 ^ 8 + nextStep s meas temps 3 * 2 ^ 12)
        temps := temps.setWidth 40
        stemps := temps.extractLsb' 40 64
        refresh2 := BitVec.ofNat 8 ((List.range 8).foldl (fun a k => a + (if 95 ≤ sensor temps (5 + k) then 2 ^ k else 0)) 0) })

/-- MSTAT_TRIP_CLEAR: hart `h` writes MSTAT; a 1 in TRIP clears it (R462). -/
def execMstatTripClear (h : Nat) (v : BitVec 64) (s : State) : StepOut :=
  .next (if atM s h && v.getLsbD 16 then { s with trip := false } else s)

/-- MPOW_MAXW_CLEAR: hart `h` writes MPOW; ones in MAXW clear its bits (R9, R462). -/
def execMpowMaxwClear (h : Nat) (v : BitVec 64) (s : State) : StepOut :=
  .next (if atM s h then { s with maxw := s.maxw &&& ~~~(v.extractLsb' 32 32) } else s)

/-! ## Registers -/

/-- WINDOW_ENTRY_WRITE: an entry of the port C window table; a change puts a locked or running interface into ERROR (R416,
R419). -/
def execWindowEntryWrite (h idx : Nat) (v : BitVec 128) (s : State) : StepOut :=
  .next (if atHS s h && decide (idx < 16) then
      (let e : BitVec 128 := v &&& 0x3FFFFFFC00000000003#128
       if mget s.windows idx = e then s else tdiError { s with windows := mset s.windows idx e } idx)
    else s)

/-- PEERING_ENTRY_WRITE: an entry of the peering table; requests that the entry it replaces had admitted and that still wait
are REVOKED (R423, R427). -/
def execPeeringEntryWrite (h idx : Nat) (v : BitVec 64) (s : State) : StepOut :=
  .next (if atHS s h && decide (idx < 64) then
      (let e : BitVec 64 := v &&& 0x81FF0F0F000003FF#64
       let old := mget s.peers idx
       let s := { s with peers := mset s.peers idx e }
       if peerV old && decide (old ≠ e) then
         revokeIn s (fun r => decide (r.peer = idx) && (match r.origin with
           | .node _ => true
           | _ => false))
       else s)
    else s)

/-- Writes of MSI-X vector `k` of function `f`: its address (7), data (8) or mask (9); unmasking a pending vector sends it
(R414, R415). -/
def writeMsix (s : State) (f k reg : Nat) (v : BitVec 64) : State :=
  let key := f * 256 + k
  match reg with
  | 7 => { s with msix := mset s.msix key (v ++ (mget s.msix key).setWidth 32) }
  | 8 => { s with msix := mset s.msix key ((mget s.msix key).extractLsb' 32 64 ++ v.setWidth 32) }
  | _ =>
    let s := { s with msixOn := mset s.msixOn key (if v.getLsbD 0 then 0 else 1) }
    if v.getLsbD 0 = false ∧ mget s.msixPend key = 1 then sendMsix { s with msixPend := mset s.msixPend key 0 } f k else s

/-- REGISTER_WRITE by an agent: harts are 0 to 47, function `f` of port H is 48 + f. The registers are PLIMR (0), MCLK (1) and
MTEMP (2), which M level writes (R462); partition register `idx` (3), which M and HS write (R392); the second-stage root of
Quinmin's service space on die `idx` (4), which M writes (R430); the hart's own ICR (5), whose access at VS or VU raises a
virtual-instruction exception (R430); route table entry `idx` (6) (R424); and MSI-X vector `idx` of a function: address (7),
data (8), mask (9) (R414). Every other write is ignored. -/
def execRegisterWrite (agent reg idx : Nat) (v : BitVec 64) (s : State) : StepOut :=
  .next (match reg with
    | 0 => if atM s agent then { s with plim := v.setWidth 12 } else s
    | 1 => if atM s agent then { s with cmax := v.extractLsb' 32 4 } else s
    | 2 => if atM s agent then { s with twarn := v.extractLsb' 56 8 } else s
    | 3 => if atHS s agent && decide (idx < 16) then { s with pregs := mset s.pregs idx (v &&& 0xFFFFFFFFFFFFF001#64) } else s
    | 4 => if atM s agent && decide (idx < 4) then { s with svcRoots := s.svcRoots.set idx v } else s
    | 5 => (match tget s.harts agent with
        | none => s
        | some x =>
          if x.lvl = .m ∨ x.lvl = .hs then setHart s agent { x with icr := v &&& 0x7FF001F#64 }
          else takeException s agent x 22 (Config.illegalTval s.clock))
    | 6 => if atHS s agent && decide (idx < 384) then { s with routes := mset s.routes idx (v.setWidth 18) } else s
    | 7 => if 48 ≤ agent ∧ agent ≤ 64 ∧ idx < 256 ∧ portUp s portH = true then writeMsix s (agent - 48) idx 7 v else s
    | 8 => if 48 ≤ agent ∧ agent ≤ 64 ∧ idx < 256 ∧ portUp s portH = true then writeMsix s (agent - 48) idx 8 v else s
    | 9 => if 48 ≤ agent ∧ agent ≤ 64 ∧ idx < 256 ∧ portUp s portH = true then writeMsix s (agent - 48) idx 9 v else s
    | _ => s)

end Sys2Proof.Machine
end

