-- ==== Sys2Proof/Machine/Scalar.lean ====
section
/-! DEFINITION. Class 1: the scalar instructions (R94 to R99) and the special registers (R43, R44). -/

namespace Sys2Proof.Machine

/-- A class 1 binary operation with b or the literal (R95, R96). -/
def scalarBin (w : Word) (d a b : Nat) (f : DWord → DWord → DWord) (s : State) : StepOut :=
  issueWord w (Form.mk0 [opS d, opS a, opS b] none (.replaces (b = 0)) true)
    (fun is => is.putS d (f (sreg is.g a) (is.sb b))) s

/-- A class 1 operation on b alone (R96). -/
def scalarUn (w : Word) (d b : Nat) (f : DWord → DWord) (s : State) : StepOut :=
  issueWord w (Form.mk0 [opS d, opS b] none (.replaces (b = 0)) true)
    (fun is => is.putS d (f (is.sb b))) s

/-- 1 or 0. -/
def boolW (c : Bool) : DWord := if c then 1 else 0

/-- SADD (R96): A + B. -/
def execSadd (d a b : BitVec 7) (s : State) : StepOut :=
  scalarBin (encode (.sadd d a b)) d.toNat a.toNat b.toNat (fun x y => x + y) s

/-- SSUB (R96): A − B. -/
def execSsub (d a b : BitVec 7) (s : State) : StepOut :=
  scalarBin (encode (.ssub d a b)) d.toNat a.toNat b.toNat (fun x y => x - y) s

/-- SMUL (R96): low 64 bits of A × B. -/
def execSmul (d a b : BitVec 7) (s : State) : StepOut :=
  scalarBin (encode (.smul d a b)) d.toNat a.toNat b.toNat (fun x y => x * y) s

/-- SMULH (R96): high half of the signed product. -/
def execSmulh (d a b : BitVec 7) (s : State) : StepOut :=
  scalarBin (encode (.smulh d a b)) d.toNat a.toNat b.toNat (smulh) s

/-- SMULHU (R96): high half of the unsigned product. -/
def execSmulhu (d a b : BitVec 7) (s : State) : StepOut :=
  scalarBin (encode (.smulhu d a b)) d.toNat a.toNat b.toNat (umulh) s

/-- SDIV (R96): signed quotient (R97). -/
def execSdiv (d a b : BitVec 7) (s : State) : StepOut :=
  scalarBin (encode (.sdiv d a b)) d.toNat a.toNat b.toNat (sdivI) s

/-- SDIVU (R96): unsigned quotient (R97). -/
def execSdivu (d a b : BitVec 7) (s : State) : StepOut :=
  scalarBin (encode (.sdivu d a b)) d.toNat a.toNat b.toNat (udivI) s

/-- SREM (R96): signed remainder (R97). -/
def execSrem (d a b : BitVec 7) (s : State) : StepOut :=
  scalarBin (encode (.srem d a b)) d.toNat a.toNat b.toNat (sremI) s

/-- SREMU (R96): unsigned remainder (R97). -/
def execSremu (d a b : BitVec 7) (s : State) : StepOut :=
  scalarBin (encode (.sremu d a b)) d.toNat a.toNat b.toNat (uremI) s

/-- SAND (R96): bitwise AND. -/
def execSand (d a b : BitVec 7) (s : State) : StepOut :=
  scalarBin (encode (.sand d a b)) d.toNat a.toNat b.toNat (fun x y => x &&& y) s

/-- SOR (R96): bitwise OR. -/
def execSor (d a b : BitVec 7) (s : State) : StepOut :=
  scalarBin (encode (.sor d a b)) d.toNat a.toNat b.toNat (fun x y => x ||| y) s

/-- SXOR (R96): bitwise XOR. -/
def execSxor (d a b : BitVec 7) (s : State) : StepOut :=
  scalarBin (encode (.sxor d a b)) d.toNat a.toNat b.toNat (fun x y => x ^^^ y) s

/-- SSHL (R96): left shift by B[5:0]. -/
def execSshl (d a b : BitVec 7) (s : State) : StepOut :=
  scalarBin (encode (.sshl d a b)) d.toNat a.toNat b.toNat (fun x y => x <<< (y.toNat % 64)) s

/-- SSHR (R96): logical right shift by B[5:0]. -/
def execSshr (d a b : BitVec 7) (s : State) : StepOut :=
  scalarBin (encode (.sshr d a b)) d.toNat a.toNat b.toNat (fun x y => x >>> (y.toNat % 64)) s

/-- SSRA (R96): arithmetic right shift by B[5:0]. -/
def execSsra (d a b : BitVec 7) (s : State) : StepOut :=
  scalarBin (encode (.ssra d a b)) d.toNat a.toNat b.toNat (fun x y => x.sshiftRight (y.toNat % 64)) s

/-- SMIN (R96): signed minimum. -/
def execSmin (d a b : BitVec 7) (s : State) : StepOut :=
  scalarBin (encode (.smin d a b)) d.toNat a.toNat b.toNat (fun x y => if x.slt y then x else y) s

/-- SMAX (R96): signed maximum. -/
def execSmax (d a b : BitVec 7) (s : State) : StepOut :=
  scalarBin (encode (.smax d a b)) d.toNat a.toNat b.toNat (fun x y => if x.slt y then y else x) s

/-- SMINU (R96): unsigned minimum. -/
def execSminu (d a b : BitVec 7) (s : State) : StepOut :=
  scalarBin (encode (.sminu d a b)) d.toNat a.toNat b.toNat (fun x y => if x.ult y then x else y) s

/-- SMAXU (R96): unsigned maximum. -/
def execSmaxu (d a b : BitVec 7) (s : State) : StepOut :=
  scalarBin (encode (.smaxu d a b)) d.toNat a.toNat b.toNat (fun x y => if x.ult y then y else x) s

/-- SSETLT (R96): 1 if A < B signed. -/
def execSsetlt (d a b : BitVec 7) (s : State) : StepOut :=
  scalarBin (encode (.ssetlt d a b)) d.toNat a.toNat b.toNat (fun x y => boolW (x.slt y)) s

/-- SSETLTU (R96): 1 if A < B unsigned. -/
def execSsetltu (d a b : BitVec 7) (s : State) : StepOut :=
  scalarBin (encode (.ssetltu d a b)) d.toNat a.toNat b.toNat (fun x y => boolW (x.ult y)) s

/-- SSETEQ (R96): 1 if A = B. -/
def execSseteq (d a b : BitVec 7) (s : State) : StepOut :=
  scalarBin (encode (.sseteq d a b)) d.toNat a.toNat b.toNat (fun x y => boolW (decide (x = y))) s

/-- SMOV (R96): b or the literal. -/
def execSmov (d b : BitVec 7) (s : State) : StepOut :=
  scalarUn (encode (.smov d b)) d.toNat b.toNat (fun x => x) s

/-- SCLZ (R96): leading zero bits, 64 for zero. -/
def execSclz (d b : BitVec 7) (s : State) : StepOut :=
  scalarUn (encode (.sclz d b)) d.toNat b.toNat (fun x => BitVec.ofNat 64 (leadZeros x.toNat 64)) s

/-- SPOPC (R96): one bits. -/
def execSpopc (d b : BitVec 7) (s : State) : StepOut :=
  scalarUn (encode (.spopc d b)) d.toNat b.toNat (fun x => BitVec.ofNat 64 (popCount x.toNat 64)) s

/-- SLI (R96): the sign-extended imm16, or the literal. -/
def execSli (d : BitVec 7) (i : BitVec 16) (s : State) : StepOut :=
  issueWord (encode (.sli d i)) (Form.mk0 [opS d.toNat] none (.replaces (i = 0)) true)
    (fun is => is.putS d.toNat (is.imm i)) s

/-- SADDI (R96): S[a] plus the sign-extended imm9 or the literal. -/
def execSaddi (d a : BitVec 7) (i : BitVec 9) (s : State) : StepOut :=
  issueWord (encode (.saddi d a i)) (Form.mk0 [opS d.toNat, opS a.toNat] none (.replaces (i = 0)) true)
    (fun is => is.putS d.toNat (sreg is.g a.toNat + is.imm i)) s

/-! ## Special registers (R43, R44, R98) -/

/-- The special-register numbers of R43. -/
def specialNumbers : List Nat :=
  [0, 1, 2, 3, 4, 5, 6, 7, 8, 9, 10, 11, 16, 17, 18, 19, 20, 21, 22, 23, 24, 32, 33, 34, 35, 36, 37, 38, 39, 40, 41,
   48, 49, 50]

/-- ITEMS (R151): ranges in use and items left, saturated. -/
def itemsWord (q : List (Word × Word)) : DWord :=
  BitVec.ofNat 64 (q.length * 2 ^ 32 + min (q.foldl (fun a e => a + e.2.toNat) 0) 0xFFFFFFFF)

/-- The value of a special register that is neither LANEID nor CYCLE (R43). -/
def specialReg (is : Issue) (n : Nat) : DWord :=
  let g := is.g
  let b? := is.blk
  let nat (f : Block → Nat) : DWord := match b? with
    | some b => BitVec.ofNat 64 (f b)
    | none => 0
  match n with
  | 1 => BitVec.ofNat 64 g.grpid
  | 2 => BitVec.ofNat 64 g.wgid
  | 3 => nat (fun b => (variantOf b).groups)
  | 4 => nat (fun b => b.bx)
  | 5 => nat (fun b => b.by_)
  | 6 => nat (fun b => b.bz)
  | 7 => nat (fun b => match tget is.s.grids b.grid with
      | some gr => gr.gridid.toNat
      | none => 0)
  | 8 => nat (fun b => b.vcores.getD g.wgid 0)
  | 9 => nat (fun b => b.ctx)
  | 10 => nat (fun b => b.variant)
  | 11 => nat (fun b => if b.joint then 1 else 0)
  | 16 => BitVec.ofNat 64 is.sl.mr.toNat
  | 17 => BitVec.ofNat 64 is.sl.exec.toNat
  | 18 => BitVec.ofNat 64 ((if g.a.live then 1 else 0) + (if g.b.live then 2 else 0) + (if is.side = 0 then 0 else 4))
  | 19 => BitVec.ofNat 64 g.stack.length
  | 20 => BitVec.ofNat 64 (cntWord g)
  | 22 => match b? with
    | some b => itemsWord (b.items.getD g.wgid [])
    | none => 0
  | 23 => BitVec.ofNat 64 g.opst.toNat
  | 24 => g.nbwin
  | 32 => g.tcause
  | 33 => g.tpc
  | 34 => g.tmask
  | 35 => g.taddr
  | 36 => g.emuword
  | 37 => g.emuop
  | 38 => g.emud
  | 39 => g.emua
  | 40 => g.emub
  | 41 => g.emuimm
  | 48 => if g.hlev = 2 then 1 else 0
  | 49 => match b? with
    | some b => match tget is.s.ctxs (b.part * 1024 + b.ctx) with
      | some cx => cx.frame
      | none => 0
    | none => 0
  | 50 => match b? with
    | some b => match tget is.s.ctxs (b.part * 1024 + b.ctx) with
      | some cx => cx.park
      | none => 0
    | none => 0
  | _ => 0

/-- GETS (R44, R98): LANEID goes to the active lanes of a vector register, every other register to a
scalar register. Reading CYCLE brings the core's counter up to the reading (R44, log 4). -/
def execGets (d : BitVec 7) (i : BitVec 9) (s : State) : StepOut :=
  let n := i.toNat
  issueWord (encode (.gets d i))
    { Form.mk0 [if n = 0 then opV1 d.toNat else opS d.toNat] none .refused true with
      priv := fun _ => decide (n = 49) || decide (n = 50)
      bad := fun _ => !specialNumbers.contains n }
    (fun is =>
      if n = 0 then is.putLanes d.toNat 1 (fun l => l)
      else if n = 21 then
        let c := mget is.s.cycles is.g.core + BitVec.ofNat 64 (Config.cycleStep is.g.core is.s.clock)
        .done (setGroup { is.s with cycles := mset is.s.cycles is.g.core c } is.gid (setSreg is.g d.toNat c))
      else is.putS d.toNat (specialReg is n)) s

/-- PUTS (R44, R98): only OPST can be written, and a 1 clears. -/
def execPuts (a : BitVec 7) (i : BitVec 9) (s : State) : StepOut :=
  let n := i.toNat
  issueWord (encode (.puts a i))
    { Form.mk0 [opS a.toNat] none .refused true with
      priv := fun _ => decide (n = 49) || decide (n = 50)
      bad := fun _ => decide (n ≠ 23) }
    (fun is => is.put { is.g with opst := is.g.opst &&& ~~~(BitVec.ofNat 2 (sreg is.g a.toNat).toNat) }) s

/-- Every type but a96 (R99). -/
def allButA96 : List ET :=
  [.i32, .ui32, .i16x2, .ui16x2, .i8x4, .ui8x4, .f32, .f16x2, .bf16x2, .e4m3x4, .e5m2x4, .i64, .i4x8, .cb4x8]

/-- SBCAST (R99): S[b] to the active lanes, 64 bits under i64. -/
def execSbcast (d b : BitVec 7) (s : State) : StepOut :=
  issueWord (encode (.sbcast d b)) (Form.mk0 [opV d.toNat, opS b.toNat] (some allButA96) (.replaces (b = 0)) true)
    (fun is => is.putLanes d.toNat is.n (fun _ => (is.sb b.toNat).toNat)) s

/-- SLANE (R99): one lane of a vector register, whatever EXEC and the guard hold. -/
def execSlane (h : BitVec 2) (d a b : BitVec 7) (s : State) : StepOut :=
  issueWord (encode (.slane h d a b))
    (Form.mk0 [opS d.toNat, opV a.toNat, opS b.toNat] (some allButA96) (.replaces (b = 0)) true)
    (fun is => is.putS d.toNat (BitVec.ofNat 64 (vregs is.g a.toNat ((is.sb b.toNat).toNat % 32) is.n))) s

end Sys2Proof.Machine
end

