-- ==== Sys2Proof/Machine/Seal.lean ====
section
/-! DEFINITION. Class 5: the sealing instructions SEALST, SEALLD, SEALFIN and SEALCHK (R384, R385, R388 to R390). -/

namespace Sys2Proof.Machine

/-- The chunk limit of a session (R384). -/
def chunkLimit : Nat := 2 ^ 26

/-- The open session of a direction that a sealing instruction may act on (R388). -/
def openSession (g : Group) (save : Bool) : Option Seal :=
  match g.sess with
  | some x => if x.save = save ∧ x.ended = false then some x else none
  | none => none

/-- The targets that sealing accesses may name (R389). -/
def admSeal (t : Target) : Bool :=
  match t with
  | .window _ _ => false
  | .notify _ _ => false
  | .nbctl _ _ => false
  | _ => true

/-- The 8-byte pieces of a chunk or header, with the bytes that go to each. -/
def pieces (l : StLane) (n : Nat) (b : List Nat) : List StLane :=
  (List.range (n / 8)).map (fun i =>
    { l with addr := l.addr + BitVec.ofNat 64 (8 * i), tgt := l.tgt.plus (8 * i), size := 8
             data := BitVec.ofNat 128 (littleEndian ((b.drop (8 * i)).take 8)) })

/-- The 128 bytes of a vector register, lane 0 first. -/
def regBytes (g : Group) (d : Nat) : List Nat := (List.range 32).flatMap (fun l => bytesLittle (vreg g d l).toNat 4)

/-- The form of SEALST and SEALLD (R388). -/
def formSealMem (d : BitVec 7) (b : BitVec 5) : Form := Form.mk0 [opV1 d.toNat, opS b.toNat] none (.replaces true) true

/-- The form of SEALFIN and SEALCHK (R388). -/
def formSealEnd (d a : BitVec 7) : Form := Form.mk0 [opS d.toNat, opS a.toNat] none .refused true

/-- The one access of a sealing instruction: its checks, then what `f` does with its target (R389). -/
def sealAccess (is : Issue) (kind : AKind) (n : Nat) (va : DWord) (f : StLane → Eff) : Eff :=
  match gather is kind n false 2 admSeal [(lowLane is.sl.exec, va)] (some is.sl.exec) with
  | .trap t => .trap t
  | .s2 d ia => .leave (s2Fault is.s is.gid is.side d ia)
  | .wait => .again is.s
  | .ok [l] => if acqPending is.g then .again is.s else f l
  | .ok _ => .again is.s

/-- Changes the session of a group. -/
def setSess (s : State) (gid : Nat) (x : Seal) : State := { s with groups := tmod s.groups gid (fun g => { g with sess := some x }) }

/-- SEALST (R389). -/
def execSealst (d : BitVec 7) (b : BitVec 5) (s : State) : StepOut :=
  issueWord (encode (.sealst d b)) (formSealMem d b) (fun is =>
    match openSession is.g true with
    | none => .fatal
    | some x =>
      if chunkLimit ≤ x.issued then .fatal
      else
        let ct := sealCrypt x x.issued (regBytes is.g d.toNat)
        sealAccess is .store 128 (sreg is.g b.toNat + is.lit.getD 0) (fun l =>
          match storeEff is 0 (pieces l 128 ct) (some is.sl.exec) with
          | .done s => .done (setSess s is.gid
              { x with issued := x.issued + 1, cts := x.cts ++ [BitVec.ofNat 1024 (littleEndian ct)] })
          | e => e)) s

/-- Issues the load of a chunk whose checks have passed (R389). -/
def startSealLoad (s : State) (is : Issue) (x : Seal) (d : Nat) (ps : List StLane) : State :=
  let (uid, s) := fresh s
  let near := ps.filter (fun l => !(elsewhere l.tgt))
  let farL := ps.filter (fun l => elsewhere l.tgt)
  let lane (l : StLane) : Nat := l.addr.toNat % 128 / 4
  let o : Out := { Out.new uid .ld 0 with
    regs := [d]
    vw := near.flatMap (fun l =>
      let v := readT s l.tgt 8
      [(32 * d + lane l, BitVec.ofNat 32 v), (32 * d + lane l + 1, BitVec.ofNat 32 (v / 2 ^ 32))])
    pend := farL.length, sealed := true, lanes := some is.sl.exec }
  let s := setSess (pushOut (touchReads s is.g.core near) is.gid o) is.gid { x with issued := x.issued + 1 }
  farL.foldl (fun s l =>
    match l.tgt with
    | .remote node _ => newReq s (loadReq (reqOf s is.g) is.g.core node false l.addr 8 (.pair is.gid uid (lane l) d))
    | _ => newReq s (loadReq (reqOf s is.g) is.g.core 510 false l.addr 8 (.pair is.gid uid (lane l) d))) s

/-- SEALLD (R389). -/
def execSealld (d : BitVec 7) (b : BitVec 5) (s : State) : StepOut :=
  issueWord (encode (.sealld d b)) (formSealMem d b) (fun is =>
    match openSession is.g false with
    | none => .fatal
    | some x =>
      if chunkLimit ≤ x.issued then .fatal
      else
        sealAccess is .load 128 (sreg is.g b.toNat + is.lit.getD 0) (fun l =>
          let ps := pieces l 128 []
          if 63 ≤ cntOf is.g .ld then .stall .ld 1
          else
            match settle is.s is.gid ps with
            | none => .again (performStores is.s is.gid)
            | some s =>
              if poisonedT s l.tgt 128 then .trap (.plain 15 is.sl.exec l.addr)
              else .done (startSealLoad s is x d.toNat ps))) s

/-- Bytes 0 to 47 of a segment header (R385). -/
def segHead (x : Seal) (len : Nat) : List Nat :=
  bytesLittle (2 ^ 32 + 0x474553) 8 ++ bytesLittle x.ctr.toNat 8 ++ bytesLittle (x.ctx * 2 ^ 32 + x.seg) 8
    ++ bytesLittle len 8 ++ bytesLittle x.part 8 ++ bytesLittle 0 8

/-- The ciphertext of a session, in issue order. -/
def segText (x : Seal) : List Nat := x.cts.flatMap (fun c => bytesLittle c.toNat 128)

/-- The tag over a header and the session's ciphertext (R384). -/
def segTag (x : Seal) (aad : List Nat) : List Nat := gcmTag (bytesLittle x.key.toNat 32) (sealIV x) aad (segText x)

/-- Records the end of a session for the context (R385, R386). -/
def noteSegment (s : State) (g : Group) (x : Seal) (code : Nat) : State :=
  match tget s.blocks g.blk with
  | none => s
  | some b => { s with ctxs := tmod s.ctxs (b.part * 1024 + b.ctx) (fun c => { c with checks := c.checks ++ [(x.seg, code)] }) }

/-- Ends the session of an instruction with a code and a value for its register. -/
def endSession (s : State) (is : Issue) (x : Seal) (code d : Nat) (v : DWord) : Eff :=
  let s := noteSegment (setSess s is.gid { x with ended := true, code := code }) is.g x code
  .done { s with groups := tmod s.groups is.gid (fun g => setSreg { g with recs := [] } d v) }

/-- The words of a header that go to another node or the host: those not asked for yet are sent, and `none` says
that all are answered. -/
def sendHeader (s : State) (is : Issue) (ps : List StLane) : Option State :=
  match tget s.groups is.gid with
  | none => some s
  | some g =>
    if g.recs.isEmpty then
      let s := setGroup s is.gid { g with recs := ps.map (fun l => (l.addr, none)) }
      some (ps.foldl (fun s l =>
        let node := match l.tgt with
          | .remote k _ => k
          | _ => 510
        newReq s { src := g.core, part := (reqOf s g).part, ctx := (reqOf s g).ctx, node := node, addr := l.addr, kind := .wr, op := 0, size := 8, a := l.data, b := 0,
                   port := none, owner := .record is.gid is.sl.exec }) s)
    else if g.recs.all (fun r => r.2.isSome) then none
    else some s

/-- SEALFIN (R390). -/
def execSealfin (d a : BitVec 7) (s : State) : StepOut :=
  issueWord (encode (.sealfin d a)) (formSealEnd d a) (fun is =>
    match openSession is.g true with
    | none => .fatal
    | some x =>
      let va := sreg is.g a.toNat
      if va.toNat % 64 ≠ 0 then .trap (.plain 4 is.sl.exec va)
      else
        let s := performStores is.s is.gid
        let s := { s with groups := tmod s.groups is.gid retireStores }
        match tget s.groups is.gid with
        | none => .again s
        | some g =>
          if cntOf g .st ≠ 0 ∨ g.out.any unread = true then .again s
          else
            sealAccess { is with s := s, g := g } .store 64 va (fun l =>
              let len := 128 * x.issued
              let head := segHead x len
              let ps := pieces l 64 (head ++ segTag x head)
              if elsewhere l.tgt then
                match sendHeader s is ps with
                | some s => .again s
                | none => endSession s is x 0 d.toNat (BitVec.ofNat 64 len)
              else endSession (ps.foldl (fun s l => writeBy s g.core l.tgt 8 l.data.toNat) s) is x 0 d.toNat (BitVec.ofNat 64 len))) s

/-- The code of SEALCHK on a header: 2 BADHDR, 1 STALE, 3 TAG, 0 OK, the first that applies (R390). -/
def chkCode (x : Seal) (w : List DWord) : Nat :=
  let len := 128 * x.issued
  if w.getD 0 0 ≠ BitVec.ofNat 64 (2 ^ 32 + 0x474553) ∨ w.getD 2 0 ≠ BitVec.ofNat 64 (x.ctx * 2 ^ 32 + x.seg)
      ∨ w.getD 3 0 ≠ BitVec.ofNat 64 len ∨ w.getD 4 0 ≠ BitVec.ofNat 64 x.part ∨ w.getD 5 0 ≠ 0 then 2
  else if w.getD 1 0 ≠ x.ctr then 1
  else if bytesLittle (w.getD 6 0).toNat 8 ++ bytesLittle (w.getD 7 0).toNat 8 ≠ segTag x (segHead x len) then 3
  else 0

/-- SEALCHK (R390). -/
def execSealchk (d a : BitVec 7) (s : State) : StepOut :=
  issueWord (encode (.sealchk d a)) (formSealEnd d a) (fun is =>
    match openSession is.g false with
    | none => .fatal
    | some _ =>
      let va := sreg is.g a.toNat
      if va.toNat % 64 ≠ 0 then .trap (.plain 4 is.sl.exec va)
      else
        let s := { performStores is.s is.gid with groups := tmod (performStores is.s is.gid).groups is.gid returnLoads }
        match tget s.groups is.gid with
        | none => .again s
        | some g =>
          if cntOf g .ld ≠ 0 then .again s
          else
            match g.sess with
            | none => .fatal
            | some x =>
            sealAccess { is with s := s, g := g } .load 64 va (fun _ =>
              match readRecord s is.gid is.sl.exec (reqOf s g) va 8 with
              | .trap c ad => .trap (.plain c is.sl.exec ad)
              | .s2 die ia => .leave (s2Fault s is.gid is.side die ia)
              | .wait s => .again s
              | .words w =>
                let code := chkCode x w
                endSession s is x code d.toNat (BitVec.ofNat 64 code))) s

end Sys2Proof.Machine
end

