-- ==== Sys2Proof/Machine/Dispatch.lean ====
section
/-! DEFINITION. The meaning of every instruction: one arm per constructor, each one direct call. -/

namespace Sys2Proof.Machine

def exec (i : Instr) (s : State) : Host.Outcome State Fault Refusal :=
  match i with
  | .nop => Sys2Proof.Machine.execNop s
  | .bra i0 => Sys2Proof.Machine.execBra i0 s
  | .bc s0 p i0 => Sys2Proof.Machine.execBc s0 p i0 s
  | .bany s0 p i0 => Sys2Proof.Machine.execBany s0 p i0 s
  | .ball s0 p i0 => Sys2Proof.Machine.execBall s0 p i0 s
  | .jset i0 => Sys2Proof.Machine.execJset i0 s
  | .join => Sys2Proof.Machine.execJoin s
  | .call i0 => Sys2Proof.Machine.execCall i0 s
  | .ret => Sys2Proof.Machine.execRet s
  | .jr a i0 => Sys2Proof.Machine.execJr a i0 s
  | .exit => Sys2Proof.Machine.execExit s
  | .mode t r e g p => Sys2Proof.Machine.execMode t r e g p s
  | .lit i0 => Sys2Proof.Machine.execLit i0 s
  | .xacq n => Sys2Proof.Machine.execXacq n s
  | .xrel n => Sys2Proof.Machine.execXrel n s
  | .rgb s0 p i0 => Sys2Proof.Machine.execRgb s0 p i0 s
  | .refill d i0 => Sys2Proof.Machine.execRefill d i0 s
  | .itemp d a i0 => Sys2Proof.Machine.execItemp d a i0 s
  | .yield => Sys2Proof.Machine.execYield s
  | .brk i0 => Sys2Proof.Machine.execBrk i0 s
  | .sysc i0 => Sys2Proof.Machine.execSysc i0 s
  | .trapret k => Sys2Proof.Machine.execTrapret k s
  | .sret k => Sys2Proof.Machine.execSret k s
  | .vsw j => Sys2Proof.Machine.execVsw j s
  | .claunch d a i0 => Sys2Proof.Machine.execClaunch d a i0 s
  | .cwait => Sys2Proof.Machine.execCwait s
  | .capr d a i0 => Sys2Proof.Machine.execCapr d a i0 s
  | .smov d b => Sys2Proof.Machine.execSmov d b s
  | .sli d i0 => Sys2Proof.Machine.execSli d i0 s
  | .sadd d a b => Sys2Proof.Machine.execSadd d a b s
  | .saddi d a i0 => Sys2Proof.Machine.execSaddi d a i0 s
  | .ssub d a b => Sys2Proof.Machine.execSsub d a b s
  | .smul d a b => Sys2Proof.Machine.execSmul d a b s
  | .smulh d a b => Sys2Proof.Machine.execSmulh d a b s
  | .smulhu d a b => Sys2Proof.Machine.execSmulhu d a b s
  | .sdiv d a b => Sys2Proof.Machine.execSdiv d a b s
  | .sdivu d a b => Sys2Proof.Machine.execSdivu d a b s
  | .srem d a b => Sys2Proof.Machine.execSrem d a b s
  | .sremu d a b => Sys2Proof.Machine.execSremu d a b s
  | .sand d a b => Sys2Proof.Machine.execSand d a b s
  | .sor d a b => Sys2Proof.Machine.execSor d a b s
  | .sxor d a b => Sys2Proof.Machine.execSxor d a b s
  | .sshl d a b => Sys2Proof.Machine.execSshl d a b s
  | .sshr d a b => Sys2Proof.Machine.execSshr d a b s
  | .ssra d a b => Sys2Proof.Machine.execSsra d a b s
  | .smin d a b => Sys2Proof.Machine.execSmin d a b s
  | .smax d a b => Sys2Proof.Machine.execSmax d a b s
  | .sminu d a b => Sys2Proof.Machine.execSminu d a b s
  | .smaxu d a b => Sys2Proof.Machine.execSmaxu d a b s
  | .sclz d b => Sys2Proof.Machine.execSclz d b s
  | .spopc d b => Sys2Proof.Machine.execSpopc d b s
  | .ssetlt d a b => Sys2Proof.Machine.execSsetlt d a b s
  | .ssetltu d a b => Sys2Proof.Machine.execSsetltu d a b s
  | .sseteq d a b => Sys2Proof.Machine.execSseteq d a b s
  | .gets d i0 => Sys2Proof.Machine.execGets d i0 s
  | .puts a i0 => Sys2Proof.Machine.execPuts a i0 s
  | .sbcast d b => Sys2Proof.Machine.execSbcast d b s
  | .slane h d a b => Sys2Proof.Machine.execSlane h d a b s
  | .vmov h d b => Sys2Proof.Machine.execVmov h d b s
  | .vadd h d a b => Sys2Proof.Machine.execVadd h d a b s
  | .vsub h d a b => Sys2Proof.Machine.execVsub h d a b s
  | .vmul h d a b => Sys2Proof.Machine.execVmul h d a b s
  | .vmulh h d a b => Sys2Proof.Machine.execVmulh h d a b s
  | .vmad h d a b => Sys2Proof.Machine.execVmad h d a b s
  | .vmin h d a b => Sys2Proof.Machine.execVmin h d a b s
  | .vmax h d a b => Sys2Proof.Machine.execVmax h d a b s
  | .vabs h d a => Sys2Proof.Machine.execVabs h d a s
  | .vneg h d a => Sys2Proof.Machine.execVneg h d a s
  | .vand h d a b => Sys2Proof.Machine.execVand h d a b s
  | .vor h d a b => Sys2Proof.Machine.execVor h d a b s
  | .vxor h d a b => Sys2Proof.Machine.execVxor h d a b s
  | .vnot h d a => Sys2Proof.Machine.execVnot h d a s
  | .vshl h d a b => Sys2Proof.Machine.execVshl h d a b s
  | .vshr h d a b => Sys2Proof.Machine.execVshr h d a b s
  | .vsra h d a b => Sys2Proof.Machine.execVsra h d a b s
  | .vclz h d a => Sys2Proof.Machine.execVclz h d a s
  | .vpopc h d a => Sys2Proof.Machine.execVpopc h d a s
  | .vbfx h d a b => Sys2Proof.Machine.execVbfx h d a b s
  | .vbfi h d a b => Sys2Proof.Machine.execVbfi h d a b s
  | .vsel h d a b => Sys2Proof.Machine.execVsel h d a b s
  | .vcmpeq h d a b => Sys2Proof.Machine.execVcmpeq h d a b s
  | .vcmplt h d a b => Sys2Proof.Machine.execVcmplt h d a b s
  | .vcmple h d a b => Sys2Proof.Machine.execVcmple h d a b s
  | .vpand d a b => Sys2Proof.Machine.execVpand d a b s
  | .vpor d a b => Sys2Proof.Machine.execVpor d a b s
  | .vpxor d a b => Sys2Proof.Machine.execVpxor d a b s
  | .vpnot d a => Sys2Proof.Machine.execVpnot d a s
  | .vshfl h d a b => Sys2Proof.Machine.execVshfl h d a b s
  | .vradd h d a => Sys2Proof.Machine.execVradd h d a s
  | .vrmin h d a => Sys2Proof.Machine.execVrmin h d a s
  | .vrmax h d a => Sys2Proof.Machine.execVrmax h d a s
  | .vscan h d a => Sys2Proof.Machine.execVscan h d a s
  | .vlane h d a b => Sys2Proof.Machine.execVlane h d a b s
  | .vaddi d a i0 => Sys2Proof.Machine.execVaddi d a i0 s
  | .fadd h d a b => Sys2Proof.Machine.execFadd h d a b s
  | .fsub h d a b => Sys2Proof.Machine.execFsub h d a b s
  | .fmul h d a b => Sys2Proof.Machine.execFmul h d a b s
  | .fma h d a b => Sys2Proof.Machine.execFma h d a b s
  | .fms h d a b => Sys2Proof.Machine.execFms h d a b s
  | .fnma h d a b => Sys2Proof.Machine.execFnma h d a b s
  | .fmin h d a b => Sys2Proof.Machine.execFmin h d a b s
  | .fmax h d a b => Sys2Proof.Machine.execFmax h d a b s
  | .fabs h d a => Sys2Proof.Machine.execFabs h d a s
  | .fneg h d a => Sys2Proof.Machine.execFneg h d a s
  | .fcmpeq h d a b => Sys2Proof.Machine.execFcmpeq h d a b s
  | .fcmplt h d a b => Sys2Proof.Machine.execFcmplt h d a b s
  | .fcmple h d a b => Sys2Proof.Machine.execFcmple h d a b s
  | .fcmpun h d a b => Sys2Proof.Machine.execFcmpun h d a b s
  | .fdiv h d a b => Sys2Proof.Machine.execFdiv h d a b s
  | .fsqrt h d a => Sys2Proof.Machine.execFsqrt h d a s
  | .frcp h d a => Sys2Proof.Machine.execFrcp h d a s
  | .frsq h d a => Sys2Proof.Machine.execFrsq h d a s
  | .fexp2 h d a => Sys2Proof.Machine.execFexp2 h d a s
  | .flog2 h d a => Sys2Proof.Machine.execFlog2 h d a s
  | .fsin h d a => Sys2Proof.Machine.execFsin h d a s
  | .fcos h d a => Sys2Proof.Machine.execFcos h d a s
  | .ftanh h d a => Sys2Proof.Machine.execFtanh h d a s
  | .fclass h d a => Sys2Proof.Machine.execFclass h d a s
  | .frint h d a => Sys2Proof.Machine.execFrint h d a s
  | .fradd h d a => Sys2Proof.Machine.execFradd h d a s
  | .fdota h d a b => Sys2Proof.Machine.execFdota h d a b s
  | .aadd h d a b => Sys2Proof.Machine.execAadd h d a b s
  | .areda h d a => Sys2Proof.Machine.execAreda h d a s
  | .cvt t d a => Sys2Proof.Machine.execCvt t d a s
  | .cvti t d a => Sys2Proof.Machine.execCvti t d a s
  | .pack h d a b => Sys2Proof.Machine.execPack h d a b s
  | .unpk h d a b => Sys2Proof.Machine.execUnpk h d a b s
  | .qnt s0 w k d a => Sys2Proof.Machine.execQnt s0 w k d a s
  | .dqnt s0 w k d a => Sys2Proof.Machine.execDqnt s0 w k d a s
  | .hadr s0 b d a => Sys2Proof.Machine.execHadr s0 b d a s
  | .hadi s0 b d a => Sys2Proof.Machine.execHadi s0 b d a s
  | .amax h d a b => Sys2Proof.Machine.execAmax h d a b s
  | .adrn s0 c d a => Sys2Proof.Machine.execAdrn s0 c d a s
  | .afrom s0 e d a => Sys2Proof.Machine.execAfrom s0 e d a s
  | .fslt d w s0 => Sys2Proof.Machine.execFslt d w s0 s
  | .vld8 s0 d b o => Sys2Proof.Machine.execVld8 s0 d b o s
  | .vld16 s0 d b o => Sys2Proof.Machine.execVld16 s0 d b o s
  | .vld32 s0 d b o => Sys2Proof.Machine.execVld32 s0 d b o s
  | .vld64 s0 d b o => Sys2Proof.Machine.execVld64 s0 d b o s
  | .vld128 s0 d b o => Sys2Proof.Machine.execVld128 s0 d b o s
  | .vst8 s0 d b o => Sys2Proof.Machine.execVst8 s0 d b o s
  | .vst16 s0 d b o => Sys2Proof.Machine.execVst16 s0 d b o s
  | .vst32 s0 d b o => Sys2Proof.Machine.execVst32 s0 d b o s
  | .vst64 s0 d b o => Sys2Proof.Machine.execVst64 s0 d b o s
  | .vst128 s0 d b o => Sys2Proof.Machine.execVst128 s0 d b o s
  | .sld s0 d b => Sys2Proof.Machine.execSld s0 d b s
  | .sst s0 d b => Sys2Proof.Machine.execSst s0 d b s
  | .vldc s0 d b o => Sys2Proof.Machine.execVldc s0 d b o s
  | .pft b o => Sys2Proof.Machine.execPft b o s
  | .cpy d a b => Sys2Proof.Machine.execCpy d a b s
  | .cpyb d a b => Sys2Proof.Machine.execCpyb d a b s
  | .wait n p c s0 l => Sys2Proof.Machine.execWait n p c s0 l s
  | .fence s0 => Sys2Proof.Machine.execFence s0 s
  | .flush b o => Sys2Proof.Machine.execFlush b o s
  | .invl b o => Sys2Proof.Machine.execInvl b o s
  | .zero b o => Sys2Proof.Machine.execZero b o s
  | .sealst d b => Sys2Proof.Machine.execSealst d b s
  | .sealld d b => Sys2Proof.Machine.execSealld d b s
  | .sealfin d a => Sys2Proof.Machine.execSealfin d a s
  | .sealchk d a => Sys2Proof.Machine.execSealchk d a s
  | .amoadd s0 d b o => Sys2Proof.Machine.execAmoadd s0 d b o s
  | .amomin s0 d b o => Sys2Proof.Machine.execAmomin s0 d b o s
  | .amomax s0 d b o => Sys2Proof.Machine.execAmomax s0 d b o s
  | .amominu s0 d b o => Sys2Proof.Machine.execAmominu s0 d b o s
  | .amomaxu s0 d b o => Sys2Proof.Machine.execAmomaxu s0 d b o s
  | .amoand s0 d b o => Sys2Proof.Machine.execAmoand s0 d b o s
  | .amoor s0 d b o => Sys2Proof.Machine.execAmoor s0 d b o s
  | .amoxor s0 d b o => Sys2Proof.Machine.execAmoxor s0 d b o s
  | .amoswp s0 d b o => Sys2Proof.Machine.execAmoswp s0 d b o s
  | .amofadd s0 d b o => Sys2Proof.Machine.execAmofadd s0 d b o s
  | .amoaadd s0 d b o => Sys2Proof.Machine.execAmoaadd s0 d b o s
  | .cas s0 d b o => Sys2Proof.Machine.execCas s0 d b o s
  | .redadd s0 d b o => Sys2Proof.Machine.execRedadd s0 d b o s
  | .redmin s0 d b o => Sys2Proof.Machine.execRedmin s0 d b o s
  | .redmax s0 d b o => Sys2Proof.Machine.execRedmax s0 d b o s
  | .redfadd s0 d b o => Sys2Proof.Machine.execRedfadd s0 d b o s
  | .redaadd s0 d b o => Sys2Proof.Machine.execRedaadd s0 d b o s
  | .watch d a q z c => Sys2Proof.Machine.execWatch d a q z c s
  | .bara d i0 => Sys2Proof.Machine.execBara d i0 s
  | .barw i0 => Sys2Proof.Machine.execBarw i0 s
  | .bars d i0 => Sys2Proof.Machine.execBars d i0 s
  | .opbind d a s0 => Sys2Proof.Machine.execOpbind d a s0 s
  | .opunb d a => Sys2Proof.Machine.execOpunb d a s
  | .opgnt d a w => Sys2Proof.Machine.execOpgnt d a w s
  | .oprev d a w => Sys2Proof.Machine.execOprev d a w s
  | .opstat d a e f w => Sys2Proof.Machine.execOpstat d a e f w s
  | .opdisc d a l w => Sys2Proof.Machine.execOpdisc d a l w s
  | .opgang d a n p s0 => Sys2Proof.Machine.execOpgang d a n p s0 s
  | .nbld d a => Sys2Proof.Machine.execNbld d a s
  | .nbexec h d a b => Sys2Proof.Machine.execNbexec h d a b s
  | .nbcpy h d a b => Sys2Proof.Machine.execNbcpy h d a b s
  | .nbz h d a b => Sys2Proof.Machine.execNbz h d a b s
  | .nbstat d a e => Sys2Proof.Machine.execNbstat d a e s
  | .pmap d a p r l => Sys2Proof.Machine.execPmap d a p r l s
  | .punmap d a r l => Sys2Proof.Machine.execPunmap d a r l s
  | .tlbi a l z => Sys2Proof.Machine.execTlbi a l z s
  | .poolget d a r p e z => Sys2Proof.Machine.execPoolget d a r p e z s
  | .nbEnd => Sys2Proof.Machine.execNbEnd s
  | .nbSel add row sj => Sys2Proof.Machine.execNbSel add row sj s
  | .nbCmp cm mask key => Sys2Proof.Machine.execNbCmp cm mask key s
  | .nbWr mask key => Sys2Proof.Machine.execNbWr mask key s
  | .nbTag cm => Sys2Proof.Machine.execNbTag cm s
  | .nbCnt imm => Sys2Proof.Machine.execNbCnt imm s
  | .nbDjnz imm => Sys2Proof.Machine.execNbDjnz imm s
  | .csetbnd b a d => Sys2Proof.Machine.execCsetbnd b a d s
  | .candperm b a d => Sys2Proof.Machine.execCandperm b a d s
  | .cincoff b a d => Sys2Proof.Machine.execCincoff b a d s
  | .csetoff b a d => Sys2Proof.Machine.execCsetoff b a d s
  | .cseal b a d => Sys2Proof.Machine.execCseal b a d s
  | .cunseal b a d => Sys2Proof.Machine.execCunseal b a d s
  | .csubset b a d => Sys2Proof.Machine.execCsubset b a d s
  | .cjalr b a d => Sys2Proof.Machine.execCjalr b a d s
  | .cgetbase e a d => Sys2Proof.Machine.execCgetbase e a d s
  | .cgetlen a d => Sys2Proof.Machine.execCgetlen a d s
  | .cgetperm a d => Sys2Proof.Machine.execCgetperm a d s
  | .cgettag a d => Sys2Proof.Machine.execCgettag a d s
  | .cclrtag a d => Sys2Proof.Machine.execCclrtag a d s
  | .clc i0 a d => Sys2Proof.Machine.execClc i0 a d s
  | .csc i0 b a j => Sys2Proof.Machine.execCsc i0 b a j s
  | .wfn b a d => Sys2Proof.Machine.execWfn b a d s
  | .ntfy b a d => Sys2Proof.Machine.execNtfy b a d s
  | .ntfySet b a d => Sys2Proof.Machine.execNtfySet b a d s
  | .loadReturn g => Sys2Proof.Machine.execLoadReturn g s
  | .storePerformed g => Sys2Proof.Machine.execStorePerformed g s
  | .refusalArrival g cls addr lanes => Sys2Proof.Machine.execRefusalArrival g cls addr lanes s
  | .engineLockRegister die => Sys2Proof.Machine.execEngineLockRegister die s
  | .copyComplete id => Sys2Proof.Machine.execCopyComplete id s
  | .waitSatisfied g side => Sys2Proof.Machine.execWaitSatisfied g side s
  | .fenceComplete g side => Sys2Proof.Machine.execFenceComplete g side s
  | .cwaitComplete g side => Sys2Proof.Machine.execCwaitComplete g side s
  | .xacqGrant core => Sys2Proof.Machine.execXacqGrant core s
  | .allocatorPark core => Sys2Proof.Machine.execAllocatorPark core s
  | .allocatorReturn core => Sys2Proof.Machine.execAllocatorReturn core s
  | .barrierWaitEnd g side => Sys2Proof.Machine.execBarrierWaitEnd g side s
  | .monitorResume g => Sys2Proof.Machine.execMonitorResume g s
  | .watchReread g => Sys2Proof.Machine.execWatchReread g s
  | .groupExitComplete g => Sys2Proof.Machine.execGroupExitComplete g s
  | .notifyDependenceMet grid => Sys2Proof.Machine.execNotifyDependenceMet grid s
  | .dispatchAdmit p => Sys2Proof.Machine.execDispatchAdmit p s
  | .dispatchPlaceBlock p => Sys2Proof.Machine.execDispatchPlaceBlock p s
  | .dispatchReturnBlock p => Sys2Proof.Machine.execDispatchReturnBlock p s
  | .gangReserve p => Sys2Proof.Machine.execGangReserve p s
  | .queueEnable p q => Sys2Proof.Machine.execQueueEnable p q s
  | .queueDisable p q => Sys2Proof.Machine.execQueueDisable p q s
  | .queueTailRaise p q => Sys2Proof.Machine.execQueueTailRaise p q s
  | .queueRecordRead p q => Sys2Proof.Machine.execQueueRecordRead p q s
  | .serviceWake g => Sys2Proof.Machine.execServiceWake g s
  | .serviceResume g => Sys2Proof.Machine.execServiceResume g s
  | .stage2Resolve p ia leaf ok => Sys2Proof.Machine.execStage2Resolve p ia leaf ok s
  | .biasFlipEnd id => Sys2Proof.Machine.execBiasFlipEnd id s
  | .atsInvalidation pasid addr => Sys2Proof.Machine.execAtsInvalidation pasid addr s
  | .operatorInputStore core => Sys2Proof.Machine.execOperatorInputStore core s
  | .heldStoreApply core => Sys2Proof.Machine.execHeldStoreApply core s
  | .operatorResultLoad core => Sys2Proof.Machine.execOperatorResultLoad core s
  | .tileStep core mac => Sys2Proof.Machine.execTileStep core mac s
  | .trussCellsArrive core stripe => Sys2Proof.Machine.execTrussCellsArrive core stripe s
  | .passEnd core pass => Sys2Proof.Machine.execPassEnd core pass s
  | .nbQueueHead stack bank => Sys2Proof.Machine.execNbQueueHead stack bank s
  | .nbPreparationDone cmd => Sys2Proof.Machine.execNbPreparationDone cmd s
  | .nbUnitEnd cmd lane => Sys2Proof.Machine.execNbUnitEnd cmd lane s
  | .nbIssueLimit cmd => Sys2Proof.Machine.execNbIssueLimit cmd s
  | .nbCommandComplete cmd => Sys2Proof.Machine.execNbCommandComplete cmd s
  | .rds cache line => Sys2Proof.Machine.execRds cache line s
  | .rdx cache line => Sys2Proof.Machine.execRdx cache line s
  | .upg cache line => Sys2Proof.Machine.execUpg cache line s
  | .wbd cache line => Sys2Proof.Machine.execWbd cache line s
  | .evc cache line => Sys2Proof.Machine.execEvc cache line s
  | .prbshr cache line => Sys2Proof.Machine.execPrbshr cache line s
  | .prbinv cache line => Sys2Proof.Machine.execPrbinv cache line s
  | .data cache line => Sys2Proof.Machine.execData cache line s
  | .datax cache line => Sys2Proof.Machine.execDatax cache line s
  | .prbrsp cache line => Sys2Proof.Machine.execPrbrsp cache line s
  | .invack cache line => Sys2Proof.Machine.execInvack cache line s
  | .cmp cache line => Sys2Proof.Machine.execCmp cache line s
  | .wback cache line => Sys2Proof.Machine.execWback cache line s
  | .snpdata line => Sys2Proof.Machine.execSnpdata line s
  | .snpinv line => Sys2Proof.Machine.execSnpinv line s
  | .snpcur line => Sys2Proof.Machine.execSnpcur line s
  | .hostCacheCompletion id => Sys2Proof.Machine.execHostCacheCompletion id s
  | .hostMemRead addr size => Sys2Proof.Machine.execHostMemRead addr size s
  | .hostMemWrite addr size data => Sys2Proof.Machine.execHostMemWrite addr size data s
  | .notifyPageWrite p i0 v => Sys2Proof.Machine.execNotifyPageWrite p i0 v s
  | .notifyPageAdd p i0 v => Sys2Proof.Machine.execNotifyPageAdd p i0 v s
  | .queue0TailWrite p v => Sys2Proof.Machine.execQueue0TailWrite p v s
  | .biasreq p v => Sys2Proof.Machine.execBiasreq p v s
  | .pcerrClr p v => Sys2Proof.Machine.execPcerrClr p v s
  | .linkEnable h port => Sys2Proof.Machine.execLinkEnable h port s
  | .linkDisable h port => Sys2Proof.Machine.execLinkDisable h port s
  | .linkClear h port => Sys2Proof.Machine.execLinkClear h port s
  | .linkTrained port width => Sys2Proof.Machine.execLinkTrained port width s
  | .trainingAttemptFail port => Sys2Proof.Machine.execTrainingAttemptFail port s
  | .linkTrainingFailed port => Sys2Proof.Machine.execLinkTrainingFailed port s
  | .linkLockLost port => Sys2Proof.Machine.execLinkLockLost port s
  | .flitRetry port => Sys2Proof.Machine.execFlitRetry port s
  | .urradRd snode spart addr size consume => Sys2Proof.Machine.execUrradRd snode spart addr size consume s
  | .urradWr snode spart addr mask data => Sys2Proof.Machine.execUrradWr snode spart addr mask data s
  | .urradAmo snode spart addr op size a b => Sys2Proof.Machine.execUrradAmo snode spart addr op size a b s
  | .urradNtf snode spart idx add v => Sys2Proof.Machine.execUrradNtf snode spart idx add v s
  | .urradAnswer id status poison data => Sys2Proof.Machine.execUrradAnswer id status poison data s
  | .hartDeviceAccess h store size addr reg => Sys2Proof.Machine.execHartDeviceAccess h store size addr reg s
  | .contextLoad p c => Sys2Proof.Machine.execContextLoad p c s
  | .contextRun p c => Sys2Proof.Machine.execContextRun p c s
  | .contextSave p c => Sys2Proof.Machine.execContextSave p c s
  | .saveQuiesced p c => Sys2Proof.Machine.execSaveQuiesced p c s
  | .saveGridEnd p c => Sys2Proof.Machine.execSaveGridEnd p c s
  | .contextRestore p c => Sys2Proof.Machine.execContextRestore p c s
  | .restoreGridEnd p c => Sys2Proof.Machine.execRestoreGridEnd p c s
  | .contextDrain p c => Sys2Proof.Machine.execContextDrain p c s
  | .contextDestroy p c => Sys2Proof.Machine.execContextDestroy p c s
  | .partitionCreate p => Sys2Proof.Machine.execPartitionCreate p s
  | .partitionResize p => Sys2Proof.Machine.execPartitionResize p s
  | .partitionAbort p => Sys2Proof.Machine.execPartitionAbort p s
  | .partitionDestroy p => Sys2Proof.Machine.execPartitionDestroy p s
  | .partitionEnter p => Sys2Proof.Machine.execPartitionEnter p s
  | .resizeAdmitEnd p => Sys2Proof.Machine.execResizeAdmitEnd p s
  | .resizeDrainEnd p => Sys2Proof.Machine.execResizeDrainEnd p s
  | .resizeForce p => Sys2Proof.Machine.execResizeForce p s
  | .rehashHandover p => Sys2Proof.Machine.execRehashHandover p s
  | .coreMove p v => Sys2Proof.Machine.execCoreMove p v s
  | .pageMove p => Sys2Proof.Machine.execPageMove p s
  | .resizeDetach p => Sys2Proof.Machine.execResizeDetach p s
  | .bootStageVerify stage ok svn pk digest => Sys2Proof.Machine.execBootStageVerify stage ok svn pk digest s
  | .getVersion r => Sys2Proof.Machine.execGetVersion r s
  | .getCapabilities r => Sys2Proof.Machine.execGetCapabilities r s
  | .negotiateAlgorithms r => Sys2Proof.Machine.execNegotiateAlgorithms r s
  | .getDigests r => Sys2Proof.Machine.execGetDigests r s
  | .getCertificate r => Sys2Proof.Machine.execGetCertificate r s
  | .challenge r nonce => Sys2Proof.Machine.execChallenge r nonce s
  | .getMeasurements r nonce => Sys2Proof.Machine.execGetMeasurements r nonce s
  | .keyExchange r data => Sys2Proof.Machine.execKeyExchange r data s
  | .ideKmMessage r stream op key => Sys2Proof.Machine.execIdeKmMessage r stream op key s
  | .tdispMessage r f msg arg => Sys2Proof.Machine.execTdispMessage r f msg arg s
  | .tagRefusalLimit p c => Sys2Proof.Machine.execTagRefusalLimit p c s
  | .keystoneKillRequest p c => Sys2Proof.Machine.execKeystoneKillRequest p c s
  | .keyStoreError p c other => Sys2Proof.Machine.execKeyStoreError p c other s
  | .eraseAlarm src => Sys2Proof.Machine.execEraseAlarm src s
  | .correctedError hop unit addr => Sys2Proof.Machine.execCorrectedError hop unit addr s
  | .repeatedCorrection hop unit addr => Sys2Proof.Machine.execRepeatedCorrection hop unit addr s
  | .powerGood => Sys2Proof.Machine.execPowerGood s
  | .powerOnReset => Sys2Proof.Machine.execPowerOnReset s
  | .pcieFundamentalReset => Sys2Proof.Machine.execPcieFundamentalReset s
  | .mrst h => Sys2Proof.Machine.execMrst h s
  | .powerComparison meas temps => Sys2Proof.Machine.execPowerComparison meas temps s
  | .hbmHot stack temp => Sys2Proof.Machine.execHbmHot stack temp s
  | .thermalTrip unit temp => Sys2Proof.Machine.execThermalTrip unit temp s
  | .mstatTripClear h v => Sys2Proof.Machine.execMstatTripClear h v s
  | .mpowMaxwClear h v => Sys2Proof.Machine.execMpowMaxwClear h v s
  | .registerWrite agent reg idx v => Sys2Proof.Machine.execRegisterWrite agent reg idx v s
  | .powerRemoved => Sys2Proof.Machine.execPowerRemoved s
  | .uncorrectableError hop unit addr => Sys2Proof.Machine.execUncorrectableError hop unit addr s
  | .ideStreamFailure stream => Sys2Proof.Machine.execIdeStreamFailure stream s
  | .windowEntryWrite h idx v => Sys2Proof.Machine.execWindowEntryWrite h idx v s
  | .peeringEntryWrite h idx v => Sys2Proof.Machine.execPeeringEntryWrite h idx v s
  | .secondStageInvalidation p ia => Sys2Proof.Machine.execSecondStageInvalidation p ia s
  | .tenantImageLoad p digest => Sys2Proof.Machine.execTenantImageLoad p digest s
  | .hartTrap h cause tval => Sys2Proof.Machine.execHartTrap h cause tval s
  | .hartSret h => Sys2Proof.Machine.execHartSret h s

end Sys2Proof.Machine
end

