-- ==== Sys2Proof/Machine/Fetch.lean ====
section
/-! DEFINITION. Fetching: the word at a PC slot's PC and what a word that does not decode raises (R25, R47, R168, R216); the
word at a hart's PC (R431, R436); and the next microinstruction of a near-bank command (R337, R338). -/

namespace Sys2Proof.Machine

/-- How a fetch ends: with a word, or with what happens instead of it. -/
inductive Fetched (α : Type) where
  | word (w : α)
  | moves (s : State)

/-! ## PC slots -/

/-- The fetch of a word by the instruction cache of a core (R245), or through port C (R224). -/
def noteFetch (s : State) (core : Nat) (t : Target) : State := touch s (some (516 + core)) t 4 false

/-- The word at the PC of a slot that may issue, and the state after its fetch. A fetch is checked as an access is; only paged memory
of this module serves it, and poisoned bytes are a fatal error (R168, R216, R453). A slot that is entering a trap goes on with
that (R253). -/
def fetchSlot (s : State) (gid side : Nat) (g : Group) : Fetched (State × Word) :=
  let sl := slotOf g side
  let pc := sl.pc
  let trap (cause : Nat) : Fetched (State × Word) := .moves (takeTrap s gid side (.plain cause sl.exec pc))
  let word (t : Target) : Fetched (State × Word) :=
    if poisonedT s t 4 then .moves (groupFatal s gid pc) else .word (noteFetch s g.core t, BitVec.ofNat 32 (readT s t 4))
  if mayEnter s g sl then
    match sl.wait with
    | .trap t => .moves (takeTrap s gid side t)
    | _ => .moves s
  else if mayIssue s g sl then
    match checkAcc s (reqOf s g) .fetch pc 4 pc.toNat 4 with
    | .ok (.hbm d pa) _ => word (.hbm d pa)
    | .ok (.hdm d pa) _ => word (.hdm d pa)
    | .ok _ _ => trap 18
    | .bad order cause => trap (if order = 3 ∨ order = 4 then 18 else cause)
    | .s2 d ia => .moves (s2Fault s gid side d ia)
    | .flip _ => .moves s
  else .moves s

/-- Whether the only reserved bits that a word has set are those of its sem field, or of MODE: they are reserved operands
(R30, R41, R47 step 4). -/
def operandBits (w : Word) : Bool :=
  match w.toNat / 2 ^ 23 with
  | 11 => true
  | 333 => decide (w &&& 0x0007F000#32 = 0)
  | 338 => decide (w &&& 0x0007F000#32 = 0)
  | 339 => decide (w &&& 0x0007F000#32 = 0)
  | 340 => decide (w &&& 0x0007F000#32 = 0)
  | 341 => decide (w &&& 0x0000007F#32 = 0)
  | 342 => decide (w &&& 0x0000007F#32 = 0)
  | _ => false

/-- Whether GETS or PUTS names FRAME or PARK (R44, R47 step 2). -/
def namesFrame (w : Word) : Bool :=
  match w.toNat / 2 ^ 23 with
  | 91 => decide (w.toNat % 512 = 49) || decide (w.toNat % 512 = 50)
  | 92 => decide (w.toNat % 512 = 49) || decide (w.toNat % 512 = 50)
  | _ => false

/-- The trap of a word that does not decode, in the order of R47: a reserved opcode or a disabled capability, privilege,
reserved fields, reserved operands. -/
def undecoded (s : State) (gid side : Nat) (g : Group) (w : Word) (reserved : Bool) : State :=
  let sl := slotOf g side
  let op := w.toNat / 2 ^ 23
  if reserved || !((capsOfOp op).all (capOn s (reqOf s g).part)) then takeTrap s gid side (emuTrap sl w 0)
  else if userLevel g && (supOp op || namesFrame w) then takeTrap s gid side (.plain 19 sl.exec 0)
  else takeTrap s gid side (emuTrap sl w (if operandBits w then 1 else 2))

/-! ## Harts -/

/-- A fetch request of a hart. WCOK is as for its other requests, with KP the authority (R437). -/
def fetchReq (h : Nat) (x : Hart) (size : Nat) (addr : DWord) : InReq :=
  hartIn x h .rd size addr 0 (hartWadm x && (decide (x.lvl ≠ .vu) || capHas x.kp 8)) 65

/-- Reads part of a word. No word comes from the aperture (R216); a poisoned or refused fetch is an access fault (R431,
R453). -/
def fetchPart (s : State) (h : Nat) (x : Hart) (size : Nat) (addr : DWord) : Fetched Nat :=
  let fault : Fetched Nat := .moves (takeException s h x 1 addr)
  if vaNode addr ≠ 510 ∧ DA ≤ vaOff addr then fault
  else
    match hartReq s x (fetchReq h x size addr) with
    | .done _ data => .word data
    | .refused => fault
    | .again s => .moves s
    | .sent s => .moves s

/-- The authority check of a fetch of `n` bytes at VU (R436). -/
def fetchCheck (s : State) (h : Nat) (x : Hart) (n : Nat) (f : Fetched Word) : Fetched Word :=
  if x.lvl = .vu then
    match capCheck x.kp [2] x.pc.toNat n with
    | some code => .moves (takeException s h x 28 (BitVec.ofNat 64 code))
    | none => f
  else f

/-- Whether the first half of a word says that it has a second one. -/
def longWord (w : Nat) : Bool := decide (w % 4 = 3)

/-- The word at a hart's PC, unless an interrupt comes first; a word of host memory stands in `fetched` once it has come. -/
def fetchHart (s : State) (h : Nat) (x : Hart) : Fetched Word :=
  if x.busy then .moves s
  else
    match x.refused with
    | some (cause, addr) => .moves (takeException s h { x with refused := none } cause addr)
    | none =>
      match hartInt x with
      | some (k, lvl) => .moves (takeInterrupt s h x k lvl)
      | none =>
      if x.pc.toNat % 2 = 1 then .moves (takeException s h x 0 x.pc)
      else
        let whole (w : Nat) : Fetched Word :=
          if longWord w then fetchCheck s h x 4 (.word (BitVec.ofNat 32 w)) else .word (BitVec.ofNat 32 (w % 2 ^ 16))
        fetchCheck s h x 2
          (match x.fetched with
            | some (a, w) => if a = x.pc then whole w.toNat else .moves (setHart s h { x with fetched := none })
            | none =>
              if vaNode x.pc = 510 ∨ x.pc.toNat % 4 = 0 then
                match fetchPart s h x 4 x.pc with
                | .word w => whole w
                | .moves s => .moves s
              else
                match fetchPart s h x 2 x.pc with
                | .moves s => .moves s
                | .word lo =>
                  if longWord lo then
                    fetchCheck s h x 4 (match fetchPart s h x 2 (x.pc + 2) with
                      | .moves s => .moves s
                      | .word hi => .word (BitVec.ofNat 32 (lo + hi * 2 ^ 16)))
                  else .word (BitVec.ofNat 32 lo))

/-- Whether a word is of one of the two major opcodes of the capability extension (R440). -/
def capOpcode (w : Word) : Bool := decide (w.toNat % 128 = 0x7B) || decide (w.toNat % 128 = 0x2B)

/-! ## Near-bank commands -/

/-- A microinstruction with a reserved operation or field: every running unit ends UFAULT (R337). -/
def nbReserved (s : State) (id : Nat) (c : NbCmd) (ip : Nat) : State :=
  nbFault s id (issueNb s c ip) ip

end Sys2Proof.Machine
end

