-- ==== Sys2Proof/Machine/Idle.lean ====
section
/-! DEFINITION. Whose turn it is when no move is given: the arbiter of a core (R146), the running near-bank commands, the harts,
and the steps that the device takes of itself (log 1, log 2). -/

namespace Sys2Proof.Machine

/-! ## Cores -/

/-- The slots of a core that are ready: group, side, group record. `can` says whether a slot's next step does anything: one that is
stalled at issue takes no port (R146). -/
def readySlots (s : State) (can : Nat → Nat → Bool) (core : Nat) : List (Nat × Nat × Group) :=
  s.groups.flatMap (fun g =>
    if g.2.core = core then
      ([0, 1].filter (fun side =>
        (mayIssue s g.2 (slotOf g.2 side) || mayEnter s g.2 (slotOf g.2 side)) && can g.1 side)).map (fun side => (g.1, side, g.2))
    else [])

/-- Whether a slot goes before another: one passed over 64 times first, then the older group, then slot A (R146). -/
def before (x y : Nat × Nat × Group) : Bool :=
  let px := decide (64 ≤ (slotOf x.2.2 x.2.1).passed)
  let py := decide (64 ≤ (slotOf y.2.2 y.2.1).passed)
  if px != py then px else decide (x.2.2.age < y.2.2.age) || (decide (x.2.2.age = y.2.2.age) && decide (x.2.1 < y.2.1))

/-- The first of some slots in the order of the arbiter. -/
def firstSlot (l : List (Nat × Nat × Group)) : Option (Nat × Nat) :=
  match l with
  | [] => none
  | x :: xs => let y := xs.foldl (fun a b => if before b a then b else a) x
    some (y.1, y.2.1)

/-- The slot that a core's arbiter chooses. -/
def chosen (s : State) (can : Nat → Nat → Bool) (core : Nat) : Option (Nat × Nat) := firstSlot (readySlots s can core)

/-- Counts for each ready slot of a core that a choice passes it over; the run of a slot that was not ready ends (R146). -/
def passOver64 (s : State) (can : Nat → Nat → Bool) (core gid side : Nat) : State :=
  let ready := (readySlots s can core).map (fun x => (x.1, x.2.1))
  { s with groups := s.groups.map (fun g =>
      if g.2.core = core then
        (g.1, [0, 1].foldl (fun x k =>
          if g.1 = gid ∧ k = side then x
          else setSlot x k { slotOf x k with passed := if ready.contains (g.1, k) then (slotOf x k).passed + 1 else 0 }) g.2)
      else g) }

/-- The next core from `turn` on that has a ready slot. -/
def nextCore (s : State) (can : Nat → Nat → Bool) : Option Nat :=
  let cores := ((s.groups.map (fun g => g.2.core)).eraseDups).filter (fun c => !(readySlots s can c).isEmpty)
  let lowest (l : List Nat) : Option Nat := match l with
    | [] => none
    | x :: xs => some (xs.foldl min x)
  match lowest (cores.filter (fun c => decide (s.turn < c))) with
  | some c => some c
  | none => lowest cores

/-! ## The device's own steps -/

/-- A step of the device as a function of the state. -/
abbrev OwnStep := State → StepOut

/-- The steps of a group's operations and waits. -/
def groupSteps (s : State) : List OwnStep :=
  s.groups.flatMap (fun g =>
    let k := g.1
    [execLoadReturn k, execStorePerformed k, execMonitorResume k, execWatchReread k, execGroupExitComplete k, execServiceWake k, execServiceResume k]
    ++ [0, 1].flatMap (fun d => [execWaitSatisfied k d, execFenceComplete k d, execCwaitComplete k d, execBarrierWaitEnd k d]))

/-- The steps of cores: the allocator, operators and their passes. -/
def coreSteps (s : State) : List OwnStep :=
  let all : List Nat := s.groups.map (fun (g : Nat × Group) => g.2.core) ++ s.heldAcc.map (fun (h : HeldAcc) => h.core)
    ++ s.passes.map (fun (p : Nat × Pass) => p.2.op / 64) ++ s.ops.map (fun (o : Nat × Oper) => o.1 / 64)
  let cores : List Nat := all.eraseDups
  cores.flatMap (fun c =>
    [execXacqGrant c, execAllocatorPark c, execAllocatorReturn c, execOperatorInputStore c, execHeldStoreApply c, execOperatorResultLoad c]
    ++ (if s.passes.isEmpty then [] else (List.range 32).map (fun m => execTileStep c m) ++ (List.range 64).map (fun j => execTrussCellsArrive c j)))
  ++ s.passes.map (fun p => execPassEnd (p.2.op / 64) p.1)

/-- The steps of engines, near-bank units, flips and coherence messages. -/
def engineSteps (s : State) : List OwnStep :=
  (List.range 4).map execEngineLockRegister
  ++ s.copies.map (fun c => execCopyComplete c.1)
  ++ s.nbcmds.flatMap (fun c =>
    [execNbPreparationDone c.1, execNbIssueLimit c.1, execNbCommandComplete c.1]
    ++ c.2.units.flatMap (fun u => [execNbUnitEnd c.1 u.lane, execNbQueueHead (bankNo c.2.word u.lane / 2048) (bankNo c.2.word u.lane % 2048)]))
  ++ s.flips.map (fun f => execBiasFlipEnd f.1)
  ++ s.co.cmsgs.map (fun m => match m.kind with
    | .prbShr => execPrbshr m.cache m.line
    | .prbInv => execPrbinv m.cache m.line
    | .data => execData m.cache m.line
    | .dataX => execDatax m.cache m.line
    | .prbRsp => execPrbrsp m.cache m.line
    | .invAck => execInvack m.cache m.line
    | .cmp => execCmp m.cache m.line
    | .wbAck => execWback m.cache m.line)

/-- The steps of the dispatchers, queues, grids and contexts. -/
def dispatchSteps (s : State) : List OwnStep :=
  s.grids.map (fun g => execNotifyDependenceMet g.1)
  ++ s.parts.flatMap (fun p =>
    [execDispatchAdmit p.1, execDispatchPlaceBlock p.1, execDispatchReturnBlock p.1, execGangReserve p.1]
    ++ (List.range 256).flatMap (fun q => [execQueueEnable p.1 q, execQueueDisable p.1 q, execQueueTailRaise p.1 q, execQueueRecordRead p.1 q]))
  ++ s.ctxs.flatMap (fun c =>
    let p := c.1 / 1024
    let k := c.1 % 1024
    [execContextDestroy p k, execContextLoad p k, execContextRun p k, execContextDrain p k, execContextSave p k, execSaveQuiesced p k, execSaveGridEnd p k,
     execContextRestore p k, execRestoreGridEnd p k, execTagRefusalLimit p k])

/-- The steps of partition commands. -/
def partSteps (s : State) : List OwnStep :=
  (List.range 16).flatMap (fun p =>
    [execPartitionCreate p, execPartitionResize p, execPartitionAbort p, execPartitionDestroy p, execPartitionEnter p, execResizeAdmitEnd p,
     execResizeDrainEnd p, execResizeForce p, execRehashHandover p, execPageMove p, execResizeDetach p])
  ++ s.parts.flatMap (fun p => if p.2.phase = 0 then [] else (List.range 512).map (fun v => execCoreMove p.1 v))

/-- The steps that the device may take of itself; which of them change anything their meanings say. -/
def deviceSteps (s : State) : List OwnStep :=
  match s.hold with
  | .none => groupSteps s ++ coreSteps s ++ engineSteps s ++ dispatchSteps s ++ partSteps s
  | .power => [execPowerOnReset]
  | .boot => []
  | .erase => []
  | .trip => []

/-- A list begun at another place. -/
def turned (l : List OwnStep) (n : Nat) : List OwnStep := l.drop (n % (l.length + 1)) ++ l.take (n % (l.length + 1))

/-! ## Events while the module does not run -/

/-- The events that a module in reset takes: power and the boot chain (R445, R449, R457, R460, R461). -/
def inReset (i : Instr) : Bool :=
  match i with
  | .powerGood => true
  | .powerRemoved => true
  | .powerOnReset => true
  | .pcieFundamentalReset => true
  | .bootStageVerify _ _ _ _ _ => true
  | .eraseAlarm _ => true
  | .keyStoreError _ _ _ => true
  | .thermalTrip _ _ => true
  | .getVersion _ => true
  | .getCapabilities _ => true
  | .negotiateAlgorithms _ => true
  | .getDigests _ => true
  | .getCertificate _ => true
  | .challenge _ _ => true
  | .getMeasurements _ _ => true
  | .keyExchange _ _ => true
  | .linkTrained _ _ => true
  | .trainingAttemptFail _ => true
  | .linkTrainingFailed _ => true
  | .linkLockLost _ => true
  | .flitRetry _ => true
  | _ => false

/-! ## Near-bank commands and harts -/

/-- The commands whose next microinstruction may issue. -/
def nbReady (s : State) : List Nat := (s.nbcmds.filter (fun c => c.2.at?.isSome)).map Prod.fst

/-- Whether a hart does something at its turn: its next word runs, or its fetch has another outcome. -/
def hartReady (s : State) (h : Nat) (x : Hart) : Bool :=
  !x.busy && (match fetchHart s h x with
    | .word _ => true
    | .moves t => decide (t ≠ s))

/-- Element `n` of a list, counted round. -/
def pick (l : List Nat) (n : Nat) : Option Nat := if l.isEmpty then none else l[n % l.length]?

end Sys2Proof.Machine
end

