-- ==== Sys2Proof/Machine/Riscv.lean ====
section
/-! DEFINITION. The base words of a Blutos hart: RV64GC with the H and V extensions (R429), as the RISC-V specifications that R429
names give them (log 116). Integer, multiply, atomic, compressed and system words run here, and loads and stores of float
registers; of the other float, vector and hypervisor-access words the results are free values. -/

namespace Sys2Proof.Machine

/-! ## Fields of a word -/

def rvf (w : Word) (k n : Nat) : Nat := w.toNat / 2 ^ k % 2 ^ n
def rvRd (w : Word) : Nat := rvf w 7 5
def rvRs1 (w : Word) : Nat := rvf w 15 5
def rvRs2 (w : Word) : Nat := rvf w 20 5
def rvSext (n x : Nat) : DWord := (BitVec.ofNat n x).signExtend 64
def rvImmI (w : Word) : DWord := rvSext 12 (rvf w 20 12)
def rvImmS (w : Word) : DWord := rvSext 12 (rvf w 25 7 * 32 + rvf w 7 5)
def rvImmB (w : Word) : DWord := rvSext 13 (rvf w 31 1 * 2 ^ 12 + rvf w 7 1 * 2 ^ 11 + rvf w 25 6 * 2 ^ 5 + rvf w 8 4 * 2)
def rvImmU (w : Word) : DWord := rvSext 32 (rvf w 12 20 * 2 ^ 12)
def rvImmJ (w : Word) : DWord := rvSext 21 (rvf w 31 1 * 2 ^ 20 + rvf w 12 8 * 2 ^ 12 + rvf w 20 1 * 2 ^ 11 + rvf w 21 10 * 2)

/-! ## Compressed words -/

def rvI (op f3 rd rs1 imm : Nat) : Nat := imm % 2 ^ 12 * 2 ^ 20 + rs1 * 2 ^ 15 + f3 * 2 ^ 12 + rd * 2 ^ 7 + op
def rvR (op f3 f7 rd rs1 rs2 : Nat) : Nat := f7 * 2 ^ 25 + rs2 * 2 ^ 20 + rs1 * 2 ^ 15 + f3 * 2 ^ 12 + rd * 2 ^ 7 + op
def rvS (op f3 rs1 rs2 imm : Nat) : Nat :=
  imm / 32 % 2 ^ 7 * 2 ^ 25 + rs2 * 2 ^ 20 + rs1 * 2 ^ 15 + f3 * 2 ^ 12 + imm % 32 * 2 ^ 7 + op
def rvB (f3 rs1 imm : Nat) : Nat :=
  imm / 2 ^ 12 % 2 * 2 ^ 31 + imm / 2 ^ 5 % 2 ^ 6 * 2 ^ 25 + rs1 * 2 ^ 15 + f3 * 2 ^ 12 + imm / 2 % 16 * 2 ^ 8 + imm / 2 ^ 11 % 2 * 2 ^ 7 + 0x63
def rvJ (imm : Nat) : Nat :=
  imm / 2 ^ 20 % 2 * 2 ^ 31 + imm / 2 % 2 ^ 10 * 2 ^ 21 + imm / 2 ^ 11 % 2 * 2 ^ 20 + imm / 2 ^ 12 % 2 ^ 8 * 2 ^ 12 + 0x6F

/-- A value of `n` bits with its sign carried into 21 bits. -/
def rvSign (n x : Nat) : Nat := if x.testBit (n - 1) then x + 2 ^ 21 - 2 ^ n else x

/-- The 32-bit word that a compressed word stands for. -/
def rvExpand (c : Nat) : Option Nat :=
  let b (k n : Nat) : Nat := c / 2 ^ k % 2 ^ n
  let rd' := b 2 3 + 8
  let rs' := b 7 3 + 8
  let rd := b 7 5
  let rs2 := b 2 5
  let i6 := rvSign 6 (b 12 1 * 32 + b 2 5)
  let sh := b 12 1 * 32 + b 2 5
  let oD := b 10 3 * 8 + b 5 2 * 64
  let oW := b 10 3 * 8 + b 6 1 * 4 + b 5 1 * 64
  let oDsp := b 12 1 * 32 + b 5 2 * 8 + b 2 3 * 64
  let oSsp := b 10 3 * 8 + b 7 3 * 64
  match c % 4, b 13 3 with
  | 0, 0 => let i := b 11 2 * 16 + b 7 4 * 64 + b 6 1 * 4 + b 5 1 * 8
            if i = 0 then none else some (rvI 0x13 0 rd' 2 i)
  | 0, 1 => some (rvI 0x07 3 rd' rs' oD)
  | 0, 2 => some (rvI 0x03 2 rd' rs' oW)
  | 0, 3 => some (rvI 0x03 3 rd' rs' oD)
  | 0, 5 => some (rvS 0x27 3 rs' rd' oD)
  | 0, 6 => some (rvS 0x23 2 rs' rd' oW)
  | 0, 7 => some (rvS 0x23 3 rs' rd' oD)
  | 1, 0 => some (rvI 0x13 0 rd rd i6)
  | 1, 1 => if rd = 0 then none else some (rvI 0x1B 0 rd rd i6)
  | 1, 2 => some (rvI 0x13 0 rd 0 i6)
  | 1, 3 =>
    if sh = 0 then none
    else if rd = 2 then some (rvI 0x13 0 2 2 (rvSign 10 (b 12 1 * 512 + b 6 1 * 16 + b 5 1 * 64 + b 3 2 * 128 + b 2 1 * 32)))
    else some (i6 % 2 ^ 20 * 2 ^ 12 + rd * 2 ^ 7 + 0x37)
  | 1, 4 =>
    (match b 10 2, b 12 1, b 5 2 with
      | 0, _, _ => some (rvI 0x13 5 rs' rs' sh)
      | 1, _, _ => some (rvI 0x13 5 rs' rs' (sh + 0x400))
      | 2, _, _ => some (rvI 0x13 7 rs' rs' i6)
      | _, 0, 0 => some (rvR 0x33 0 0x20 rs' rs' rd')
      | _, 0, 1 => some (rvR 0x33 4 0 rs' rs' rd')
      | _, 0, 2 => some (rvR 0x33 6 0 rs' rs' rd')
      | _, 0, _ => some (rvR 0x33 7 0 rs' rs' rd')
      | _, _, 0 => some (rvR 0x3B 0 0x20 rs' rs' rd')
      | _, _, 1 => some (rvR 0x3B 0 0 rs' rs' rd')
      | _, _, _ => none)
  | 1, 5 => some (rvJ (rvSign 12 (b 12 1 * 2048 + b 11 1 * 16 + b 9 2 * 256 + b 8 1 * 1024 + b 7 1 * 64 + b 6 1 * 128 + b 3 3 * 2 + b 2 1 * 32)))
  | 1, f => some (rvB (f - 6) rs' (rvSign 9 (b 12 1 * 256 + b 10 2 * 8 + b 5 2 * 64 + b 3 2 * 2 + b 2 1 * 32)))
  | 2, 0 => some (rvI 0x13 1 rd rd sh)
  | 2, 1 => some (rvI 0x07 3 rd 2 oDsp)
  | 2, 2 => if rd = 0 then none else some (rvI 0x03 2 rd 2 (b 12 1 * 32 + b 4 3 * 4 + b 2 2 * 64))
  | 2, 3 => if rd = 0 then none else some (rvI 0x03 3 rd 2 oDsp)
  | 2, 4 =>
    if b 12 1 = 0 then
      if rs2 = 0 then (if rd = 0 then none else some (rvI 0x67 0 0 rd 0)) else some (rvR 0x33 0 0 rd 0 rs2)
    else if rs2 = 0 then some (if rd = 0 then 0x00100073 else rvI 0x67 0 1 rd 0)
    else some (rvR 0x33 0 0 rd rd rs2)
  | 2, 5 => some (rvS 0x27 3 2 rs2 oSsp)
  | 2, 6 => some (rvS 0x23 2 2 rs2 (b 9 4 * 4 + b 7 2 * 64))
  | 2, 7 => some (rvS 0x23 3 2 rs2 oSsp)
  | _, _ => none

/-! ## Integer arithmetic -/

/-- The register operations of RV64I and M on `n` bits; `sh` is the shift amount. -/
def rvOp {n : Nat} (f7 f3 : Nat) (a b : BitVec n) (sh : Nat) : Option (BitVec n) :=
  match f7, f3 with
  | 0, 0 => some (a + b)
  | 0x20, 0 => some (a - b)
  | 0, 1 => some (a <<< sh)
  | 0, 2 => some (if a.slt b then BitVec.ofNat n 1 else 0)
  | 0, 3 => some (if a.ult b then BitVec.ofNat n 1 else 0)
  | 0, 4 => some (a ^^^ b)
  | 0, 5 => some (a >>> sh)
  | 0x20, 5 => some (a.sshiftRight sh)
  | 0, 6 => some (a ||| b)
  | 0, 7 => some (a &&& b)
  | 1, 0 => some (a * b)
  | 1, 1 => some (BitVec.ofInt n (a.toInt * b.toInt / 2 ^ n))
  | 1, 2 => some (BitVec.ofInt n (a.toInt * Int.ofNat b.toNat / 2 ^ n))
  | 1, 3 => some (BitVec.ofNat n (a.toNat * b.toNat / 2 ^ n))
  | 1, 4 => some (if b = 0 then BitVec.allOnes n else a.sdiv b)
  | 1, 5 => some (if b = 0 then BitVec.allOnes n else a / b)
  | 1, 6 => some (if b = 0 then a else a.srem b)
  | 1, 7 => some (if b = 0 then a else a % b)
  | _, _ => none

/-- The operations on words: the low 32 bits, sign-extended. -/
def rvOpW (f7 f3 : Nat) (a b : DWord) : Option DWord :=
  if f3 = 0 ∨ (f7 = 1 ∧ 4 ≤ f3) ∨ (f7 ≠ 1 ∧ (f3 = 1 ∨ f3 = 5)) then
    (rvOp f7 f3 (a.setWidth 32) (b.setWidth 32) (b.toNat % 32)).map (fun x => x.signExtend 64)
  else none

/-- Whether a branch is taken. -/
def rvTaken (f3 : Nat) (a b : DWord) : Option Bool :=
  match f3 with
  | 0 => some (decide (a = b))
  | 1 => some (decide (a ≠ b))
  | 4 => some (a.slt b)
  | 5 => some (!(a.slt b))
  | 6 => some (a.ult b)
  | 7 => some (!(a.ult b))
  | _ => none

/-! ## Memory (R431, R436, R437) -/

/-- The register code under which the answer to a base word's access comes back: register, what is done with the bytes, and
whether the word is a compressed one. -/
def rvReg (ext r len : Nat) : Nat := 2048 + (if len = 2 then 1024 else 0) + 32 * ext + r

/-- A data access of a base word: the check of k15 at VU, alignment, then the request (R431, R436). -/
def rvAccess (s : State) (h : Nat) (x : Hart) (perms : List Nat) (r : InReq) (done : State → Nat → HartEff) : HartEff :=
  let load := decide (r.kind = .rd)
  match (if x.lvl = .vu then capCheck (kget x 15) perms r.addr.toNat r.size else none) with
  | some code => .exc 28 (BitVec.ofNat 64 code)
  | none =>
    if r.addr.toNat % r.size ≠ 0 then .exc (if load then 4 else 6) r.addr
    else
      match hartReq s x r with
      | .done s d => done s d
      | .refused => .exc (if load then 5 else 7) r.addr
      | .again s => .next s x
      | .sent s => .next s (hartOf s h)

/-- The request of a base word. -/
def rvReq (x : Hart) (h : Nat) (kind : RKind) (size : Nat) (addr : DWord) (data reg : Nat) : InReq :=
  hartIn x h kind size addr data (hartWadm x && (decide (x.lvl ≠ .vu) || capHas (kget x 15) 8)) reg

/-- A load or store whose answer goes to register code `reg`. -/
def rvMem (s : State) (h : Nat) (x : Hart) (kind : RKind) (size : Nat) (addr : DWord) (data reg : Nat) : HartEff :=
  rvAccess s h x [if kind = .rd then 0 else 1] (rvReq x h kind size addr data reg)
    (fun s d => .next s (hartPut x reg addr (decide (kind = .rd)) d))

/-- The operation of an AMO, as `rmw` numbers it. -/
def rvAmoOp (f5 : Nat) : Option Nat :=
  match f5 with
  | 0 => some 0 | 1 => some 8 | 4 => some 7 | 8 => some 6 | 12 => some 5 | 16 => some 1 | 20 => some 2 | 24 => some 3 | 28 => some 4
  | _ => none

/-- LR, SC and the AMOs: one access in one step. An SC stores only if the bytes are still what its LR read; whether it then
succeeds is open. -/
def rvAmo (s : State) (h : Nat) (x : Hart) (w : Word) : HartEff :=
  let size := if rvf w 12 3 = 2 then 4 else 8
  let addr := xget x (rvRs1 w)
  let data := (xget x (rvRs2 w)).toNat % 2 ^ (8 * size)
  let ext (d : Nat) : DWord := if size = 4 then rvSext 32 d else BitVec.ofNat 64 d
  let on (x : Hart) : Hart := hartPast x
  if rvf w 12 3 ≠ 2 ∧ rvf w 12 3 ≠ 3 then illegal s
  else
    match rvf w 27 5 with
    | 2 =>
      if rvRs2 w ≠ 0 then illegal s
      else if vaNode addr = 510 then .exc 5 addr
      else rvAccess s h x [0] (rvReq x h .rd size addr 0 0) (fun s d =>
        .next s (on { xput x (rvRd w) (ext d) with resv := some (addr, d) }))
    | 3 =>
      let fail : HartEff := .next s (on { xput x (rvRd w) 1 with resv := none })
      (match x.resv with
        | some (a, d) =>
          if a = addr ∧ Config.hartReserved s.clock = true then
            rvAccess s h x [1] { rvReq x h .amo size addr 0 0 with op := 11, a := BitVec.ofNat 128 d, b := BitVec.ofNat 128 data } (fun s old =>
              .next s (on { xput x (rvRd w) (if old = d then 0 else 1) with resv := none }))
          else fail
        | none => fail)
    | f =>
      match rvAmoOp f with
      | some op => rvAccess s h x [0, 1] { rvReq x h .amo size addr 0 0 with op := op, a := BitVec.ofNat 128 data } (fun s old =>
          .next s (on (xput x (rvRd w) (ext old))))
      | none => illegal s

/-! ## Control and status registers -/

/-- The bits that a write to mstatus and to sstatus changes, and those that sstatus shows. -/
def mstatusBits : DWord := 0xC0007E7FAA
def sstatusBits : DWord := 0xC6722
def sstatusView : DWord := 0x80000003000DE762

/-- The CSRs of RV64GC with H and V, and ICR. -/
def csrThere (n : Nat) : Bool :=
  [0x001, 0x002, 0x003, 0x008, 0x009, 0x00A, 0x00F, 0x100, 0x104, 0x105, 0x106, 0x10A, 0x140, 0x141, 0x142, 0x143, 0x144, 0x180, 0x200, 0x204, 0x205,
    0x240, 0x241, 0x242, 0x243, 0x244, 0x280, 0x300, 0x301, 0x302, 0x303, 0x304, 0x305, 0x306, 0x30A, 0x320, 0x340, 0x341, 0x342, 0x343, 0x344,
    0x34A, 0x34B, 0x5C0, 0x600, 0x602, 0x603, 0x604, 0x605, 0x606, 0x607, 0x60A, 0x643, 0x644, 0x645, 0x64A, 0x680, 0xC20, 0xC21, 0xC22, 0xE12,
    0xF11, 0xF12, 0xF13, 0xF14, 0xF15].contains n
  || (decide (0x323 ≤ n) && decide (n < 0x340)) || (decide (0x3A0 ≤ n) && decide (n < 0x3F0))
  || (decide (0xB00 ≤ n) && decide (n < 0xB20) && decide (n ≠ 0xB01)) || (decide (0xC00 ≤ n) && decide (n < 0xC20))

/-- The register that a number names: at VS the supervisor registers are those of the guest. -/
def csrName (x : Hart) (n : Nat) : Nat :=
  if hartVirt x && [0x100, 0x104, 0x105, 0x140, 0x141, 0x142, 0x143, 0x144, 0x180].contains n then n + 0x100 else n

/-- The exception that an access to a CSR raises: 2 illegal instruction, 22 virtual instruction (R430). -/
def csrTrap (x : Hart) (n : Nat) (write : Bool) : Option Nat :=
  let lv := n / 256 % 4
  let counts := decide (0xC00 ≤ n) && decide (n < 0xC20)
  let off (c : Nat) : Bool := !((csrGet x c).getLsbD (n % 32))
  if !(csrThere n) || (write && decide (n / 1024 = 3)) then some 2
  else if n = 0x5C0 ∧ hartVirt x = true then some 22
  else if x.lvl = .m then none
  else if lv = 3 ∨ (counts && off 0x306) = true then some 2
  else if hartVirt x && (decide (lv = 2) || (decide (lv = 1) && decide (x.lvl = .vu)) || (counts && off 0x606)
      || (counts && decide (x.lvl = .vu) && off 0x106)) then some 22
  else none

/-- What a CSR reads as: satp, vsatp and hgatp are zero, time is the hart's own cycle counter (R429). -/
def csrValue (s : State) (h : Nat) (x : Hart) (n : Nat) : DWord :=
  match csrName x n with
  | 0x001 => csrGet x 3 &&& 0x1F
  | 0x002 => csrGet x 3 >>> 5 &&& 7
  | 0x100 => csrGet x 0x300 &&& sstatusView
  | 0x303 => csrGet x 0x303 ||| 0x1444
  | 0x344 => hartMip x
  | 0x104 => csrGet x 0x304 &&& csrGet x 0x303
  | 0x144 => hartMip x &&& csrGet x 0x303
  | 0x604 => csrGet x 0x304 &&& 0x1444
  | 0x644 => hartMip x &&& 0x1444
  | 0x204 => (csrGet x 0x304 &&& csrGet x 0x603 &&& 0x444) >>> 1
  | 0x244 => (hartMip x &&& csrGet x 0x603 &&& 0x444) >>> 1
  | 0x180 => 0
  | 0x280 => 0
  | 0x680 => 0
  | 0x5C0 => x.icr
  | 0xC22 => 32
  | 0xF14 => BitVec.ofNat 64 h
  | k => if (0xC00 ≤ k ∧ k < 0xC20) ∨ k = 0xB00 ∨ k = 0xB02 then Config.hartCount s.clock else csrGet x k

/-- Puts bits into a register under a mask. -/
def csrMerge (x : Hart) (n : Nat) (mask v : DWord) : Hart := csrPut x n ((csrGet x n &&& ~~~mask) ||| (v &&& mask))

/-- A write of a CSR. -/
def csrStore (x : Hart) (n : Nat) (v : DWord) : Hart :=
  match csrName x n with
  | 0x001 => csrMerge x 3 0x1F v
  | 0x002 => csrMerge x 3 0xE0 (v <<< 5)
  | 0x003 => csrMerge x 3 0xFF v
  | 0x100 => csrMerge x 0x300 sstatusBits v
  | 0x200 => csrMerge x 0x200 sstatusBits v
  | 0x300 => csrMerge x 0x300 mstatusBits v
  | 0x303 => csrPut x 0x303 (v &&& 0x222)
  | 0x344 => csrMerge (csrMerge x 0x344 0x222 v) 0x645 4 v
  | 0x104 => csrMerge x 0x304 (csrGet x 0x303) v
  | 0x144 => csrMerge x 0x344 (csrGet x 0x303 &&& 2) v
  | 0x604 => csrMerge x 0x304 0x1444 v
  | 0x644 => csrMerge x 0x645 4 v
  | 0x645 => csrMerge x 0x645 0x444 v
  | 0x204 => csrMerge x 0x304 (csrGet x 0x603 &&& 0x444) (v <<< 1)
  | 0x244 => csrMerge x 0x645 (csrGet x 0x603 &&& 4) (v <<< 1)
  | 0x141 => csrPut x 0x141 (v &&& ~~~1#64)
  | 0x241 => csrPut x 0x241 (v &&& ~~~1#64)
  | 0x341 => csrPut x 0x341 (v &&& ~~~1#64)
  | 0x180 => x
  | 0x280 => x
  | 0x680 => x
  | 0x301 => x
  | 0x5C0 => { x with icr := v &&& 0x7FF001F#64 }
  | k => csrPut x k v

/-- CSRRW, CSRRS, CSRRC and their immediate forms. -/
def rvCsr (s : State) (h : Nat) (x : Hart) (w : Word) : HartEff :=
  let f3 := rvf w 12 3
  let n := rvf w 20 12
  let src : DWord := if 4 ≤ f3 then BitVec.ofNat 64 (rvRs1 w) else xget x (rvRs1 w)
  let write := decide (f3 % 4 = 1) || decide (rvRs1 w ≠ 0)
  match csrTrap x n write with
  | some c => .exc c (Config.illegalTval s.clock)
  | none =>
    let old := csrValue s h x n
    let v := if f3 % 4 = 1 then src else if f3 % 4 = 2 then old ||| src else old &&& ~~~src
    .next s (hartPast (xput (if write then csrStore x n v else x) (rvRd w) old))

/-! ## Returns and other system words -/

/-- A level from a previous privilege and whether it was virtualised. -/
def rvLevel (pp : Nat) (virt : Bool) : HLevel :=
  if virt then (if pp = 0 then .vu else .vs) else if pp = 3 then .m else .hs

/-- Goes to a level at an address. -/
def rvGo (x : Hart) (lvl : HLevel) (pc : DWord) : Hart := { x with lvl := lvl, pc := pc, fetched := none }

/-- MRET. -/
def rvMret (s : State) (x : Hart) : HartEff :=
  if x.lvl ≠ .m then illegal s
  else
    let st := csrGet x 0x300
    let pp := st.toNat / 2 ^ 11 % 4
    let v := decide (pp ≠ 3) && st.getLsbD 39
    let st' := (st &&& ~~~0x8000001888#64) ||| (if st.getLsbD 7 then 0x88#64 else 0x80#64)
    let st' := if pp = 3 then st' else st' &&& ~~~0x20000#64
    .next s (rvGo (csrPut x 0x300 st') (rvLevel pp v) (csrGet x 0x341))

/-- The status register after an SRET: SIE is SPIE, SPIE is 1, SPP is 0. -/
def sretStatus (st : DWord) : DWord := (st &&& ~~~0x122#64) ||| (if st.getLsbD 5 then 0x22#64 else 0x20#64)

/-- Where an SRET returns to: at VU the program capability is k14 with its cursor there, or a capability fault (R435). -/
def sretTo (x y : Hart) (lvl : HLevel) (pc : DWord) (s : State) : HartEff :=
  let k14 := kget x 14
  if lvl ≠ .vu then .next s (rvGo y lvl pc)
  else if !capTag k14 then .exc 28 1
  else if capType k14 ≠ 0 then .exc 28 2
  else if !(capHas k14 2) then .exc 28 3
  else .next s { rvGo y .vu pc with kp := capAt k14 pc }

/-- SRET. -/
def rvSret (s : State) (x : Hart) : HartEff :=
  if hartVirt x then
    if x.lvl = .vu ∨ (csrGet x 0x600).getLsbD 22 = true then .exc 22 (Config.illegalTval s.clock)
    else
      let st := csrGet x 0x200
      sretTo x (csrPut x 0x200 (sretStatus st)) (rvLevel (st.toNat / 2 ^ 8 % 2) true) (csrGet x 0x241) s
  else if x.lvl = .hs ∧ (csrGet x 0x300).getLsbD 22 = true then illegal s
  else
    let st := csrGet x 0x300
    let hs := csrGet x 0x600
    let y := csrPut (csrPut x 0x300 (sretStatus st)) 0x600 (hs &&& ~~~0x80#64)
    sretTo x y (rvLevel (st.toNat / 2 ^ 8 % 2) (hs.getLsbD 7)) (csrGet x 0x141) s

/-- The exception code of ECALL by level. -/
def rvEcall (x : Hart) : Nat :=
  match x.lvl with
  | .vu => 8
  | .hs => 9
  | .vs => 10
  | .m => 11

/-- The words of opcode SYSTEM with funct3 0: environment calls, returns, waits (which may end at once), and fences of address
translation, of which there is none (R429). -/
def rvSystem (s : State) (x : Hart) (w : Word) : HartEff :=
  let virtual : HartEff := .exc 22 (Config.illegalTval s.clock)
  if w = 0x00000073#32 then .exc (rvEcall x) 0
  else if w = 0x00100073#32 then .exc 3 x.pc
  else if w = 0x30200073#32 then rvMret s x
  else if w = 0x10200073#32 then rvSret s x
  else if w = 0x10500073#32 then (if x.lvl = .vu then virtual else .next s (hartPast x))
  else if rvRd w ≠ 0 then illegal s
  else
    match rvf w 25 7 with
    | 0x09 => if x.lvl = .vu then virtual else .next s (hartPast x)
    | 0x11 => if hartVirt x then virtual else .next s (hartPast x)
    | 0x31 => if hartVirt x then virtual else .next s (hartPast x)
    | _ => illegal s

/-! ## Float and vector words -/

/-- Whether a unit is off: its field of mstatus, or of vsstatus while virtualised, is 0. -/
def unitOff (x : Hart) (k : Nat) : Bool :=
  decide ((csrGet x 0x300).toNat / 2 ^ k % 4 = 0) || (hartVirt x && decide ((csrGet x 0x200).toNat / 2 ^ k % 4 = 0))

/-- A unit whose registers were written is dirty. -/
def unitDirty (x : Hart) (k : Nat) : Hart :=
  let set (x : Hart) (n : Nat) : Hart := csrPut x n (csrGet x n ||| BitVec.ofNat 64 (2 ^ 63 + 3 * 2 ^ k))
  if hartVirt x then set (set x 0x300) 0x200 else set x 0x300

/-- A float word: the result, which goes to an integer or a float register, and the flags are free values. -/
def rvFloat (s : State) (x : Hart) (w : Word) : HartEff :=
  let f5 := rvf w 27 5
  if unitOff x 13 then illegal s
  else
    let y := csrPut (unitDirty x 13) 3 (Config.hartX s.clock 32 &&& 0xFF)
    let r := Config.hartX s.clock (rvRd w)
    .next s (hartPast (if rvf w 0 7 = 0x53 ∧ (f5 = 0x14 ∨ f5 = 0x18 ∨ f5 = 0x1C) then xput y (rvRd w) r
      else { y with f := mset y.f (rvRd w) r }))

/-- A vector word: what it writes is free; its accesses to memory are made by HART_DEVICE_ACCESS (log 67). -/
def rvVector (s : State) (x : Hart) (w : Word) : HartEff :=
  if unitOff x 9 then illegal s
  else
    let d := rvRd w
    let r := Config.hartX s.clock
    let y := xput (unitDirty x 9) d (r d)
    let y := [0x003, 0x008, 0x009, 0x00F, 0xC20, 0xC21].foldl (fun y n => csrPut y n (r (64 + n))) y
    .next s (hartPast { y with
      f := mset y.f d (r d)
      v := (List.range 8).foldl (fun v i => mset v ((d + i) % 32) (Config.hartV s.clock ((d + i) % 32))) y.v })

/-- A hypervisor load or store: the value loaded is free; the access is made by HART_DEVICE_ACCESS (log 67). -/
def rvHyper (s : State) (x : Hart) (w : Word) : HartEff :=
  if hartVirt x then .exc 22 (Config.illegalTval s.clock)
  else .next s (hartPast (xput x (rvRd w) (Config.hartX s.clock (rvRd w))))

/-! ## A base word -/

/-- Runs a base word of `len` bytes. -/
def rvRun (s : State) (h : Nat) (x : Hart) (w : Word) (len : Nat) : HartEff :=
  let step_ := BitVec.ofNat 64 len
  let f3 := rvf w 12 3
  let f7 := rvf w 25 7
  let a := xget x (rvRs1 w)
  let b := xget x (rvRs2 w)
  let on (y : Hart) : HartEff := .next s { y with pc := x.pc + step_, fetched := none }
  let jump (y : Hart) (pc : DWord) : HartEff := .next s { y with pc := pc, fetched := none }
  let put (v : Option DWord) : HartEff := match v with
    | some v => on (xput x (rvRd w) v)
    | none => illegal s
  match rvf w 0 7 with
  | 0x37 => put (some (rvImmU w))
  | 0x17 => put (some (x.pc + rvImmU w))
  | 0x6F => jump (xput x (rvRd w) (x.pc + step_)) (x.pc + rvImmJ w)
  | 0x67 => if f3 = 0 then jump (xput x (rvRd w) (x.pc + step_)) ((a + rvImmI w) &&& ~~~1#64) else illegal s
  | 0x63 =>
    (match rvTaken f3 a b with
      | some t => if t then jump x (x.pc + rvImmB w) else on x
      | none => illegal s)
  | 0x03 => if f3 = 7 then illegal s else rvMem s h x .rd (2 ^ (f3 % 4)) (a + rvImmI w) 0 (rvReg f3 (rvRd w) len)
  | 0x23 => if 4 ≤ f3 then illegal s else rvMem s h x .wr (2 ^ f3) (a + rvImmS w) b.toNat (rvReg 9 0 len)
  | 0x13 =>
    put (if f3 = 1 then (if rvf w 26 6 = 0 then some (a <<< rvf w 20 6) else none)
      else if f3 = 5 then (if rvf w 26 6 = 0 then some (a >>> rvf w 20 6) else if rvf w 26 6 = 16 then some (a.sshiftRight (rvf w 20 6)) else none)
      else rvOp 0 f3 a (rvImmI w) 0)
  | 0x1B => put (if f3 = 0 then rvOpW 0 0 a (rvImmI w) else if f3 = 1 ∨ f3 = 5 then (if f7 = 1 then none else rvOpW f7 f3 a (BitVec.ofNat 64 (rvRs2 w))) else none)
  | 0x33 => put (rvOp f7 f3 a b (b.toNat % 64))
  | 0x3B => put (rvOpW f7 f3 a b)
  | 0x0F => if f3 ≤ 1 then on x else illegal s
  | 0x2F => rvAmo s h x w
  | 0x07 =>
    if f3 = 2 ∨ f3 = 3 then
      (if unitOff x 13 then illegal s else rvMem s h (unitDirty x 13) .rd (2 ^ f3) (a + rvImmI w) 0 (rvReg (5 + f3) (rvRd w) len))
    else rvVector s x w
  | 0x27 =>
    if f3 = 2 ∨ f3 = 3 then
      (if unitOff x 13 then illegal s else rvMem s h x .wr (2 ^ f3) (a + rvImmS w) (mget x.f (rvRs2 w)).toNat (rvReg 9 0 len))
    else rvVector s x w
  | 0x43 => rvFloat s x w
  | 0x47 => rvFloat s x w
  | 0x4B => rvFloat s x w
  | 0x4F => rvFloat s x w
  | 0x53 => rvFloat s x w
  | 0x57 => rvVector s x w
  | 0x73 => if f3 = 0 then rvSystem s x w else if f3 = 4 then rvHyper s x w else rvCsr s h x w
  | _ => illegal s

/-- A word of a hart that is none of the capability extension (R429, log 116). -/
def baseStep (s : State) (h : Nat) (x : Hart) (w : Word) : State :=
  let eff := if w.toNat % 4 = 3 then rvRun s h x w 4
    else match rvExpand (w.toNat % 2 ^ 16) with
      | some v => rvRun s h x (BitVec.ofNat 32 v) 2
      | none => illegal s
  match eff with
  | .next s x => setHart s h x
  | .exc cause tval => takeException s h x cause tval

end Sys2Proof.Machine
end

