-- ==== Sys2Proof/Machine/Stage.lean ====
section
/-! DEFINITION. What `State.withFetchWord` places: a module whose boot chain has run, with one partition, one context, one
block and one group, or a hart or a near-bank command, about to fetch the given word. It stands for the loading that the
host, Quinmin and the dispatcher do before a program runs (log 23). -/

namespace Sys2Proof.Machine

/-- Where the code lies. -/
def stagePc : DWord := va509 0 0x10000

/-- A table entry of die 0 that names a table, and a leaf of 8 GiB that allows everything (R213). -/
def stageTable (off : Nat) : DWord := BitVec.ofNat 64 (off + 3)
def stageLeaf : DWord := 0x3D

/-- Both stages map the first 8 GiB of die 0 to themselves: tables at 0x2000 and 0x4000, and at 0x6000 and 0x8000. -/
def stageMem (m : SMap 8) : SMap 8 :=
  msetBytes (msetBytes (msetBytes (msetBytes m 0x2000 8 (stageTable 0x4000).toNat) 0x4000 8 stageLeaf.toNat)
    0x6000 8 (stageTable 0x8000).toNat) 0x8000 8 stageLeaf.toNat

/-- A partition that holds core 0 and every capability. -/
def stagePart : Part :=
  { st := .active, pcb := 0, phase := 0, dseq := 0, capen := BitVec.allOnes 18, ndie := 0, qtab := va509 0 0x40000, ctab := 0,
    sqbase := 0, sqlen := 4096, s2root := [0x2000, 0, 0, 0], cmap := [(0, 0x8000)], slices := [0, 0, 0, 0], chans := [0, 0, 0, 0],
    tmap := [], tslices := [], tchans := [], force := false, forced := false, sweep := [], moving := none, cmd := 0, cseq := 0 }

/-- A running context with handlers and frames. -/
def stageCtx : Ctx :=
  { st := .running, addr := 0, dseq := 0, prot := false, pasid := 0, suph := va509 0 0x20000, frame := va509 0 0x100000,
    park := va509 0 0x200000, npark := 64, spark := 0x4000, ring := 0, swapbase := 0, nswap := 0, swapstride := 0, saverec := 0,
    restrec := 0, roots := [0x6000, 0, 0, 0], frames := [], nv := false, nidx := 0, stopped := false, before := .running,
    sgrid := none, checks := [], cmd := 0, cseq := 0, ph := 0 }

def stageVariant : Variant := { wgs := 1, groups := 1, xblk := 0, rank := 0, spad := 0x10000, entry := stagePc }

def stageDesc : KDesc :=
  { threads := 32, ophnd := 0, barriers := 0, monitors := 0, itemq := 0, rlocks := 0, emupc := va509 0 0x28000,
    variants := [stageVariant], joints := [] }

def stageBlock : Block :=
  { grid := 0, part := 0, ctx := 0, lin := 0, bx := 0, by_ := 0, bz := 0, variant := 0, desc := stageDesc,
    slots := List.replicate 128 0, vcores := [0], spadOff := [0], bars := [], items := [[]], mons := [], ophnd := 0, rlocks := 0,
    itemq := 0, monitors := 0, joint := false, swapped := false, marked := none, passed := 0, kids := 0, order := 0, prio := 0,
    resident := false, nosw := false, service := false, stop := false, released := false, claimed := false, mdies := [] }

def stageGrid : Grid :=
  { st := .running, part := 0, ctx := 0, src := .queue 0, addr := va509 0 0x50000,
    lrec := [0x0001000100000001, 0x0001000100000001] ++ List.replicate 14 0,
    gridid := 1, depth := 1, next := 1, blkdone := 0, live := 1, code := 0, detail := 0, finfo := 0, later := none, kids := 0, passed := 0 }

/-- The group, at the level of a handler for a supervisor-only word (R46). -/
def stageGroup (hlev : BitVec 2) : Group :=
  { blk := 0, idx := 0, wgid := 0, grpid := 0, core := 0, gslot := 0, age := 0, st := .resident,
    a := { Slot.free with live := true, pc := stagePc, exec := BitVec.allOnes 32, mr := 7 }, b := Slot.free,
    v := [], s := [], p := [], held := 0, stack := [], out := [], posted := 0, ref := none,
    hlev := hlev, tcause := 0, tpc := 0, tmask := 0, taddr := 0, emuword := 0, emuop := 0, emud := 0,
    emua := 0, emub := 0, emuimm := 0, opst := 0, nbwin := 0, tslot1 := 0, tslot2 := 0, plev2 := 0, pidx := 0, reason := 0,
    seq := 0, xreq := none, susp := [], kids := 0, sess := none, recs := [], s2at := none }

/-- The module after its boot chain, with the partition and the context, and a word in its code page. -/
def staged (s : State) (w : Word) : State :=
  { s with hold := .none, stage := 4, bootSt := 15, uid := s.uid + 1, parts := tset s.parts 0 stagePart,
           ctxs := tset s.ctxs 0 stageCtx, hbm := msetBytes (stageMem s.hbm) 0x10000 4 w.toNat }

/-- A group about to fetch a word. -/
def stageSlot (s : State) (w : Word) : State :=
  let s := staged s w
  { s with blocks := tset s.blocks 0 stageBlock, grids := tset s.grids 0 stageGrid,
           groups := tset s.groups 0 (stageGroup (if supOp (w.toNat / 2 ^ 23) then 2 else 0)),
           inputs := .slot 0 0 :: s.inputs }

/-- Hart 0, at M level, about to fetch a word of Quinmin's service space. -/
def stageHart (s : State) (w : Word) : State :=
  let t := staged s w
  let x : Hart := { Hart.reset with pc := stagePc }
  { t with svcRoots := t.svcRoots.set 0 0x2000, harts := tset t.harts 0 x, inputs := .hart 0 :: t.inputs }

/-- A command of the staged group with one running unit. -/
def stageCmd : NbCmd :=
  { kind := 0, part := 0, ctx := 0, blk := 0, gid := 0, user := false, word := 0, spans := [(0, stagePc, 0)], status := none,
    locks := [], started := true, out := 0, units := [{ NbUnit.new 0 0 with st := .running, src := [0x20000] }], issued := 0,
    past := [], first := 0, last := 0 }

/-- The command, with the given next microinstruction. -/
def stageNb (s : State) (u : DWord) : State :=
  let t := staged s 0
  { t with seqst := mset t.seqst 0 u, nbcmds := tset t.nbcmds 0 stageCmd, inputs := .nb 0 :: t.inputs }

/-- Places an instruction of `nbits` bits where the next step fetches it (log 23). -/
def stageWord (s : State) (nbits w : Nat) : State :=
  if nbits ≤ 32 then
    let x : Word := BitVec.ofNat 32 w
    if isHartWord x then stageHart s x else stageSlot s x
  else stageNb s (BitVec.ofNat 64 w)

end Sys2Proof.Machine
end

