-- ==== Sys2Proof/Machine/Step.lean ====
section
/-! DEFINITION. One step of the machine: the move that is given, or the one whose turn it is. -/

namespace Sys2Proof.Machine

/-- A step of a PC slot: its word runs, or what the fetch gave instead happens. -/
def slotStep (s : State) (gid side : Nat) : Host.Outcome State Fault Refusal :=
  let s := { s with issuer := .slot gid side }
  match tget s.groups gid with
  | none => .next s
  | some g =>
    match fetchSlot s gid side g with
    | .moves s => .next s
    | .word (s, w) =>
      match decodeHarran w with
      | .ok i => exec i s
      | .reservedOpcode => .next (undecoded s gid side g w true)
      | .reservedBits => .next (undecoded s gid side g w false)

/-- A step of a hart: a word of the capability extension runs, or raises an illegal-instruction exception; another is a base
RISC-V word (R429). -/
def hartStep (s : State) (h : Nat) : Host.Outcome State Fault Refusal :=
  let s := { s with issuer := .hart h }
  match tget s.harts h with
  | none => .next s
  | some x =>
    match fetchHart s h x with
    | .moves s => .next s
    | .word w =>
      match decodeHart w with
      | some i => exec i s
      | none => .next (if capOpcode w then takeException s h x 2 (Config.illegalTval s.clock) else baseStep s h x w)

/-- A step of a near-bank command: its next microinstruction issues (R337). -/
def nbMove (s : State) (id : Nat) : Host.Outcome State Fault Refusal :=
  let s := { s with issuer := .nb id }
  match tget s.nbcmds id with
  | none => .next s
  | some c =>
    match c.at? with
    | none => .next s
    | some ip =>
      match decodeNb (fetchNb s c ip) with
      | some i => exec i s
      | none => .next (nbReserved s id c ip)

/-- Takes a move. While the module is held in reset it takes only the events of power, boot and the keystone (R445, R461). -/
def takeMove (s : State) (m : Move) : Host.Outcome State Fault Refusal :=
  match m with
  | .event i => if s.hold = .none ∨ inReset i = true then exec i { s with issuer := .device } else .next s
  | .slot gid side => if s.hold = .none then slotStep s gid side else .next s
  | .hart h => if s.hold = .none then hartStep s h else .next s
  | .nb id => if s.hold = .none then nbMove s id else .next s
  | .bar fn off size => .next (if s.hold = .none then barRead { s with issuer := .device } fn off size else s)

/-- The first of the device's own steps that changes the machine. -/
def progress (s : State) : List OwnStep → Option State
  | [] => none
  | f :: is =>
    match f s with
    | .next t => if t = s then progress s is else some t
    | .fault _ => progress s is
    | .refused _ => progress s is

/-- The device's turn. -/
def deviceTurn (s : State) : Option (Host.Outcome State Fault Refusal) :=
  let s := { s with issuer := .device }
  (progress s (turned (deviceSteps s) s.clock)).map .next

/-- Whether the next step of a slot does anything: a slot that is stalled at issue only tries again (R146). -/
def slotMoves (s : State) (gid side : Nat) : Bool :=
  match slotStep s gid side with
  | .next t => decide (t ≠ { s with issuer := .slot gid side })
  | .fault _ => true
  | .refused _ => true

/-- A core's turn: its arbiter chooses a slot (R146). -/
def coreTurn (s : State) : Option (Host.Outcome State Fault Refusal) :=
  match nextCore s (slotMoves s) with
  | none => none
  | some c =>
    match chosen s (slotMoves s) c with
    | none => none
    | some (gid, side) => some (slotStep { passOver64 s (slotMoves s) c gid side with turn := c } gid side)

/-- A near-bank command's turn. -/
def nbTurn (s : State) : Option (Host.Outcome State Fault Refusal) := (pick (nbReady s) s.clock).map (nbMove s)

/-- A hart's turn. -/
def hartTurn (s : State) : Option (Host.Outcome State Fault Refusal) :=
  (pick ((s.harts.filter (fun h => hartReady s h.1 h.2)).map Prod.fst) s.clock).map (hartStep s)

/-- The first turn that somebody takes; with nobody, the step passes. -/
def firstTurn (s : State) : List (State → Option (Host.Outcome State Fault Refusal)) → Host.Outcome State Fault Refusal
  | [] => .next s
  | f :: fs =>
    match f s with
    | some o => o
    | none => firstTurn s fs

/-- The turns of a running module in the order of this step. -/
def turns (n : Nat) : List (State → Option (Host.Outcome State Fault Refusal)) :=
  let l := [coreTurn, deviceTurn, nbTurn, hartTurn]
  l.drop (n % 4) ++ l.take (n % 4)

/-- One step: the first move given is taken; without one, the agents take turns. The count of steps goes on with each. -/
def step (s : State) : Host.Outcome State Fault Refusal :=
  match s.inputs with
  | m :: ms => takeMove { s with inputs := ms, clock := s.clock + 1 } m
  | [] =>
    let s := { s with clock := s.clock + 1 }
    if s.hold = .none then firstTurn s (turns s.clock) else firstTurn s [deviceTurn]

/-- The state with an instruction of `nbits` bits `w` where the next step fetches it. -/
def State.withFetchWord (s : State) (nbits w : Nat) : State := stageWord s nbits w

end Sys2Proof.Machine
end

