-- ==== Sys2Proof/Safety.lean ====
section
/-! DEFINITION. What a safe run is, the canonical form of memory, and the words that the statements about single
instructions are made of. -/

namespace Sys2Proof.Machine

/-! ## Memory and runs -/

/-- Every memory of the machine is in canonical form: addresses strictly rising and no entry that reads as an
unlisted address does (log 6). -/
def Memory.wf (s : State) : Bool :=
  mwf s.hbm && mwf s.spad && mwf s.host && mwf s.notify && mwf s.seqst && mwf s.ctag && mwf s.poison && mwf s.spoison
    && mwf s.hostPoison

/-- A run of `n` steps that never stops. -/
def SafeRun : Nat → State → State → Prop
  | 0, s, t => s = t
  | n + 1, s, t => ∃ u, step s = .next u ∧ SafeRun n u t

/-- The next state of an outcome, if it has one. -/
def nextOf (o : StepOut) : Option State :=
  match o with
  | .next t => some t
  | .fault _ => none
  | .refused _ => none

/-! ## One instruction of a slot -/

/-- Slot `side` of the resident group `gid`, which is `g`, issues: it is live and waits for nothing, and the device
does not hold its block back (R142, R146). -/
structure Issues (s : State) (gid side : Nat) (g : Group) : Prop where
  issuer : s.issuer = .slot gid side
  group : tget s.groups gid = some g
  ready : mayIssue s g (slotOf g side) = true

/-- The other slot of a group. -/
def otherSide (side : Nat) : Nat := if side = 0 then 1 else 0

/-- Nothing but group `gid` differs, and it is now `g'`. -/
structure OnlyGroup (s t : State) (gid : Nat) (g' : Group) : Prop where
  rest : { t with groups := s.groups } = s
  now : tget t.groups gid = some g'
  others : ∀ k, k ≠ gid → tget t.groups k = tget s.groups k

/-- The slot moved on past its word: PC + 4, no pending literal, everything else of it and all of the other slot as
before (R26, R36). -/
structure MovedOn (g g' : Group) (side : Nat) : Prop where
  mine : slotOf g' side = { slotOf g side with pc := (slotOf g side).pc + 4, lc := 0, wait := .none, passed := 0 }
  other : slotOf g' (otherSide side) = slotOf g (otherSide side)

/-- Scalar register `d` now reads `x`, every other as before; as register 24 `d` discards the write (R28). -/
def ScalarIs (g g' : Group) (d : Nat) (x : DWord) : Prop :=
  ∀ r, sreg g' r = if r = d ∧ r < 24 then x else sreg g r

/-- The lanes of `m` of the `n` vector registers from `d` now hold the words of `f`, lowest word first; every other
lane and register reads as before (R29, R34). -/
def LanesAre (g g' : Group) (m : Word) (d n : Nat) (f : Nat → Nat) : Prop :=
  ∀ r l, l < 32 → vreg g' r l =
    if m.getLsbD l = true ∧ d ≤ r ∧ r < d + n then BitVec.ofNat 32 (f l / 2 ^ (32 * (r - d))) else vreg g r l

/-- The lanes of `m` of predicate `d` are now those of `x`, every other bit and predicate as before; p7 discards the
write (R28). -/
def PredIs (g g' : Group) (m : Word) (d : Nat) (x : Word) : Prop :=
  ∀ r, preg g' r = if r = d ∧ r < 7 then (preg g r &&& ~~~m) ||| (x &&& m) else preg g r

/-- Instruction `i` completes and does nothing but write scalar register `d` and move its slot on. -/
def SetsScalar (s : State) (i : Instr) (gid side : Nat) (g : Group) (d : Nat) (x : DWord) : Prop :=
  ∃ t g', exec i s = .next t ∧ OnlyGroup s t gid g' ∧ MovedOn g g' side ∧ ScalarIs g g' d x
    ∧ g' = { g with s := g'.s, a := g'.a, b := g'.b }

/-- Instruction `i` completes and does nothing but write active lanes of `n` vector registers from `d` and move its
slot on. -/
def SetsLanes (s : State) (i : Instr) (gid side : Nat) (g : Group) (m : Word) (d n : Nat) (f : Nat → Nat) : Prop :=
  ∃ t g', exec i s = .next t ∧ OnlyGroup s t gid g' ∧ MovedOn g g' side ∧ LanesAre g g' m d n f
    ∧ g' = { g with v := g'.v, a := g'.a, b := g'.b }

/-- As `SetsLanes`, said by elements: element `k` of lane `l` becomes `v l k` modulo 2^w (R72, R100). -/
def SetsElems (s : State) (i : Instr) (gid side : Nat) (g : Group) (et : ET) (d : Nat) (v : Nat → Nat → Int) : Prop :=
  ∃ f, SetsLanes s i gid side g (activeMask g (slotOf g side)) d (etRegs et) f
    ∧ ∀ l k, k < etCount et → elemU (etBits et) k (f l) = (v l k % 2 ^ etBits et).toNat

/-- Instruction `i` completes and does nothing but write the lanes of `m` of predicate `d` and move its slot on. -/
def SetsPred (s : State) (i : Instr) (gid side : Nat) (g : Group) (m : Word) (d : Nat) (x : Word) : Prop :=
  ∃ t g', exec i s = .next t ∧ OnlyGroup s t gid g' ∧ MovedOn g g' side ∧ PredIs g g' m d x
    ∧ g' = { g with p := g'.p, a := g'.a, b := g'.b }

/-! ## What an instruction asks of the state before it issues (R36, R47, R172) -/

/-- Slot `side` of `g` has a pending literal. -/
def LitPending (g : Group) (side : Nat) : Prop := (slotOf g side).lc ≠ 0

/-- No outstanding load of the group returns to a register of the list; scalar register `r` is listed as 200 + r. -/
def NotOwed (g : Group) (regs : List Nat) : Prop :=
  ∀ o ∈ g.out, o.cls = .ld → ∀ r ∈ o.regs, r ∉ regs

/-- The scalar operand in field b: the pending literal, or the register (R36). -/
def scalarB (g : Group) (side b : Nat) : DWord :=
  if (slotOf g side).lc = 0 then sreg g b else (slotOf g side).lat

/-- The element type in force (R31). -/
def typeOf (g : Group) (side : Nat) : Option ET := etOfCode (mrET (slotOf g side).mr)

/-- The value that Fit keeps: clamped to the range of the type under MR.SAT (R100). -/
def satTo (g : Group) (side : Nat) (et : ET) (x : Int) : Int :=
  if mrSAT (slotOf g side).mr then max (intMin (etSigned et) (etBits et)) (min (intMax (etSigned et) (etBits et)) x)
  else x

/-- The active lanes of a slot: EXEC under the guard (R12, R33). -/
def activeOf (g : Group) (side : Nat) : Word := activeMask g (slotOf g side)

/-- The group has the `n` vector registers from `r`, and `r` is aligned to them (R28, R29). -/
def HasVectors (g : Group) (r n : Nat) : Prop := r % n = 0 ∧ r + n ≤ 32 + 32 * g.held

/-- A word of slot `side` that names the predicates `ps`, the scalar registers `ss` and the vector registers `vs` (each
with how many it takes) can run: it issues, the group has those registers (R28, R29), and no
outstanding load still owes one of them (R172). -/
structure Ready (s : State) (gid side : Nat) (g : Group) (ps ss : List Nat) (vs : List (Nat × Nat)) : Prop where
  issues : Issues s gid side g
  preds : ∀ r ∈ ps, r ≤ 7
  scalars : ∀ r ∈ ss, r ≤ 24
  vectors : ∀ v ∈ vs, HasVectors g v.1 v.2
  free : NotOwed g (ss.map (· + 200) ++ vs.flatMap (fun v => (List.range v.2).map (· + v.1)))

/-- The word of lane `l` in the `n` registers that operand b names, or of the pending literal (R36). -/
def vectorB (g : Group) (side b n l : Nat) : Nat :=
  if (slotOf g side).lc = 0 then vregs g b l n else (slotOf g side).lat.toNat % 2 ^ (32 * n)

/-- Word `w` of the block's copy of format slot `k` (R80). -/
def slotWordOf (s : State) (g : Group) (k w : Nat) : DWord :=
  match tget s.blocks g.blk with
  | some b => b.slots.getD (8 * k + w) 0
  | none => 0

/-- An immediate, or the pending literal in its place (R36). -/
def immOf {n : Nat} (g : Group) (side : Nat) (i : BitVec n) : DWord :=
  if (slotOf g side).lc = 0 then i.signExtend 64 else (slotOf g side).lat

/-- A slot that goes on at `pc`: no literal is pending and it waits for nothing (R36). -/
def slotAt (sl : Slot) (pc : DWord) : Slot := { sl with pc := pc, lc := 0, wait := .none, passed := 0 }

/-- Instruction `i` completes and leaves group `gid` as `g'`; nothing else differs. -/
def Becomes (s : State) (i : Instr) (gid : Nat) (g' : Group) : Prop :=
  ∃ t, exec i s = .next t ∧ OnlyGroup s t gid g'

/-- The read-modify-writes of a list of lanes, one after the other at their places (R284, R287): the state after them and
each lane's old value. `f` gives the new value of a lane from its old one. -/
def rmwLanes (n : Nat) (at_ : Nat → Target) (f : Nat → Nat → Nat) : State → List Nat → State × List (Nat × Nat)
  | s, [] => (s, [])
  | s, l :: r =>
    let old := readT s (at_ l) n
    let q := rmwLanes n at_ f (writeT s (at_ l) n (f l old)) r
    (q.1, (l, old) :: q.2)

/-! ## The kinds of instruction -/

/-- What an instruction is: a word of a group (R25), a near-bank microinstruction (R336), a word of a hart (R440), or an event that
the device or its surroundings make (R462 and the step table). -/
inductive InstrKind where
  | harran | nearBank | hart | event
deriving DecidableEq, Repr

/-- The kind of an instruction. -/
def kindOf (i : Instr) : InstrKind :=
  match i with
  | .nop | .bra _ | .bc _ _ _ | .bany _ _ _ | .ball _ _ _ | .jset _ | .join | .call _ | .ret | .jr _ _ | .exit | .mode _ _ _ _ _ | .lit _
  | .xacq _ | .xrel _ | .rgb _ _ _ | .refill _ _ | .itemp _ _ _ | .yield | .brk _ | .sysc _ | .trapret _ | .sret _ | .vsw _
  | .claunch _ _ _ | .cwait | .capr _ _ _ | .smov _ _ | .sli _ _ | .sadd _ _ _ | .saddi _ _ _ | .ssub _ _ _ | .smul _ _ _ | .smulh _ _ _
  | .smulhu _ _ _ | .sdiv _ _ _ | .sdivu _ _ _ | .srem _ _ _ | .sremu _ _ _ | .sand _ _ _ | .sor _ _ _ | .sxor _ _ _ | .sshl _ _ _
  | .sshr _ _ _ | .ssra _ _ _ | .smin _ _ _ | .smax _ _ _ | .sminu _ _ _ | .smaxu _ _ _ | .sclz _ _ | .spopc _ _ | .ssetlt _ _ _
  | .ssetltu _ _ _ | .sseteq _ _ _ | .gets _ _ | .puts _ _ | .sbcast _ _ | .slane _ _ _ _ | .vmov _ _ _ | .vadd _ _ _ _ | .vsub _ _ _ _
  | .vmul _ _ _ _ | .vmulh _ _ _ _ | .vmad _ _ _ _ | .vmin _ _ _ _ | .vmax _ _ _ _ | .vabs _ _ _ | .vneg _ _ _ | .vand _ _ _ _
  | .vor _ _ _ _ | .vxor _ _ _ _ | .vnot _ _ _ | .vshl _ _ _ _ | .vshr _ _ _ _ | .vsra _ _ _ _ | .vclz _ _ _ | .vpopc _ _ _ | .vbfx _ _ _ _
  | .vbfi _ _ _ _ | .vsel _ _ _ _ | .vcmpeq _ _ _ _ | .vcmplt _ _ _ _ | .vcmple _ _ _ _ | .vpand _ _ _ | .vpor _ _ _ | .vpxor _ _ _
  | .vpnot _ _ | .vshfl _ _ _ _ | .vradd _ _ _ | .vrmin _ _ _ | .vrmax _ _ _ | .vscan _ _ _ | .vlane _ _ _ _ | .vaddi _ _ _ | .fadd _ _ _ _
  | .fsub _ _ _ _ | .fmul _ _ _ _ | .fma _ _ _ _ | .fms _ _ _ _ | .fnma _ _ _ _ | .fmin _ _ _ _ | .fmax _ _ _ _ | .fabs _ _ _ | .fneg _ _ _
  | .fcmpeq _ _ _ _ | .fcmplt _ _ _ _ | .fcmple _ _ _ _ | .fcmpun _ _ _ _ | .fdiv _ _ _ _ | .fsqrt _ _ _ | .frcp _ _ _ | .frsq _ _ _
  | .fexp2 _ _ _ | .flog2 _ _ _ | .fsin _ _ _ | .fcos _ _ _ | .ftanh _ _ _ | .fclass _ _ _ | .frint _ _ _ | .fradd _ _ _ | .fdota _ _ _ _
  | .aadd _ _ _ _ | .areda _ _ _ | .cvt _ _ _ | .cvti _ _ _ | .pack _ _ _ _ | .unpk _ _ _ _ | .qnt _ _ _ _ _ | .dqnt _ _ _ _ _
  | .hadr _ _ _ _ | .hadi _ _ _ _ | .amax _ _ _ _ | .adrn _ _ _ _ | .afrom _ _ _ _ | .fslt _ _ _ | .vld8 _ _ _ _ | .vld16 _ _ _ _
  | .vld32 _ _ _ _ | .vld64 _ _ _ _ | .vld128 _ _ _ _ | .vst8 _ _ _ _ | .vst16 _ _ _ _ | .vst32 _ _ _ _ | .vst64 _ _ _ _ | .vst128 _ _ _ _
  | .sld _ _ _ | .sst _ _ _ | .vldc _ _ _ _ | .pft _ _ | .cpy _ _ _ | .cpyb _ _ _ | .wait _ _ _ _ _ | .fence _ | .flush _ _ | .invl _ _
  | .zero _ _ | .sealst _ _ | .sealld _ _ | .sealfin _ _ | .sealchk _ _ | .amoadd _ _ _ _ | .amomin _ _ _ _ | .amomax _ _ _ _
  | .amominu _ _ _ _ | .amomaxu _ _ _ _ | .amoand _ _ _ _ | .amoor _ _ _ _ | .amoxor _ _ _ _ | .amoswp _ _ _ _ | .amofadd _ _ _ _
  | .amoaadd _ _ _ _ | .cas _ _ _ _ | .redadd _ _ _ _ | .redmin _ _ _ _ | .redmax _ _ _ _ | .redfadd _ _ _ _ | .redaadd _ _ _ _
  | .watch _ _ _ _ _ | .bara _ _ | .barw _ | .bars _ _ | .opbind _ _ _ | .opunb _ _ | .opgnt _ _ _ | .oprev _ _ _ | .opstat _ _ _ _ _
  | .opdisc _ _ _ _ | .opgang _ _ _ _ _ | .nbld _ _ | .nbexec _ _ _ _ | .nbcpy _ _ _ _ | .nbz _ _ _ _ | .nbstat _ _ _ | .pmap _ _ _ _ _
  | .punmap _ _ _ _ | .tlbi _ _ _ | .poolget _ _ _ _ _ _ => .harran
  | .nbEnd | .nbSel _ _ _ | .nbCmp _ _ _ | .nbWr _ _ | .nbTag _ | .nbCnt _ | .nbDjnz _ => .nearBank
  | .csetbnd _ _ _ | .candperm _ _ _ | .cincoff _ _ _ | .csetoff _ _ _ | .cseal _ _ _ | .cunseal _ _ _ | .csubset _ _ _ | .cjalr _ _ _
  | .cgetbase _ _ _ | .cgetlen _ _ | .cgetperm _ _ | .cgettag _ _ | .cclrtag _ _ | .clc _ _ _ | .csc _ _ _ _ | .wfn _ _ _ | .ntfy _ _ _
  | .ntfySet _ _ _ => .hart
  | .loadReturn _ | .storePerformed _ | .refusalArrival _ _ _ _ | .engineLockRegister _ | .copyComplete _ | .waitSatisfied _ _
  | .fenceComplete _ _ | .cwaitComplete _ _ | .xacqGrant _ | .allocatorPark _ | .allocatorReturn _ | .barrierWaitEnd _ _ | .monitorResume _
  | .watchReread _ | .groupExitComplete _ | .notifyDependenceMet _ | .dispatchAdmit _ | .dispatchPlaceBlock _ | .dispatchReturnBlock _
  | .gangReserve _ | .queueEnable _ _ | .queueDisable _ _ | .queueTailRaise _ _ | .queueRecordRead _ _ | .serviceWake _ | .serviceResume _
  | .stage2Resolve _ _ _ _ | .biasFlipEnd _ | .atsInvalidation _ _ | .operatorInputStore _ | .heldStoreApply _ | .operatorResultLoad _
  | .tileStep _ _ | .trussCellsArrive _ _ | .passEnd _ _ | .nbQueueHead _ _ | .nbPreparationDone _ | .nbUnitEnd _ _ | .nbIssueLimit _
  | .nbCommandComplete _ | .rds _ _ | .rdx _ _ | .upg _ _ | .wbd _ _ | .evc _ _ | .prbshr _ _ | .prbinv _ _ | .data _ _ | .datax _ _
  | .prbrsp _ _ | .invack _ _ | .cmp _ _ | .wback _ _ | .snpdata _ | .snpinv _ | .snpcur _ | .hostCacheCompletion _ | .hostMemRead _ _
  | .hostMemWrite _ _ _ | .notifyPageWrite _ _ _ | .notifyPageAdd _ _ _ | .queue0TailWrite _ _ | .biasreq _ _ | .pcerrClr _ _
  | .linkEnable _ _ | .linkDisable _ _ | .linkClear _ _ | .linkTrained _ _ | .trainingAttemptFail _ | .linkTrainingFailed _
  | .linkLockLost _ | .flitRetry _ | .urradRd _ _ _ _ _ | .urradWr _ _ _ _ _ | .urradAmo _ _ _ _ _ _ _ | .urradNtf _ _ _ _ _
  | .urradAnswer _ _ _ _ | .hartDeviceAccess _ _ _ _ _ | .contextLoad _ _ | .contextRun _ _ | .contextSave _ _ | .saveQuiesced _ _
  | .saveGridEnd _ _ | .contextRestore _ _ | .restoreGridEnd _ _ | .contextDrain _ _ | .contextDestroy _ _ | .partitionCreate _
  | .partitionResize _ | .partitionAbort _ | .partitionDestroy _ | .partitionEnter _ | .resizeAdmitEnd _ | .resizeDrainEnd _
  | .resizeForce _ | .rehashHandover _ | .coreMove _ _ | .pageMove _ | .resizeDetach _ | .bootStageVerify _ _ _ _ _ | .getVersion _
  | .getCapabilities _ | .negotiateAlgorithms _ | .getDigests _ | .getCertificate _ | .challenge _ _ | .getMeasurements _ _
  | .keyExchange _ _ | .ideKmMessage _ _ _ _ | .tdispMessage _ _ _ _ | .tagRefusalLimit _ _ | .keystoneKillRequest _ _
  | .keyStoreError _ _ _ | .eraseAlarm _ | .correctedError _ _ _ | .repeatedCorrection _ _ _ | .powerGood | .powerOnReset
  | .pcieFundamentalReset | .mrst _ | .powerComparison _ _ | .hbmHot _ _ | .thermalTrip _ _ | .mstatTripClear _ _ | .mpowMaxwClear _ _
  | .registerWrite _ _ _ _ | .powerRemoved | .uncorrectableError _ _ _ | .ideStreamFailure _ | .windowEntryWrite _ _ _
  | .peeringEntryWrite _ _ _ | .secondStageInvalidation _ _ | .tenantImageLoad _ _ | .hartTrap _ _ _ | .hartSret _ => .event

end Sys2Proof.Machine
end

