-- ==== Sys2Proof/WellFormed.lean ====
section
/-! DEFINITION. Well-formed instructions: every register field names a register of its role (R28), fixed pairs and quads are
aligned (R29), MODE holds a mode (R30), a capability role names one of sixteen registers (R435), TAG has no reserved CM (R337),
and an event names objects that the module has. What depends on the state is checked when a word issues (R47). -/

namespace Sys2Proof

/-- A scalar register (R28). -/
def okS {n : Nat} (r : BitVec n) : Bool := decide (r.toNat ≤ 24)
/-- A predicate register (R28). -/
def okP (r : BitVec 7) : Bool := decide (r.toNat ≤ 7)
/-- A vector register at a multiple of a fixed span (R29). -/
def okA (r : BitVec 7) (k : Nat) : Bool := decide (r.toNat % k = 0)
/-- A capability register (R435). -/
def okK (r : BitVec 5) : Bool := decide (r.toNat < 16)
/-- An object number below a count. -/
def okN (n k : Nat) : Bool := decide (n < k)

/-- Whether an instruction is well formed. -/
def Instr.wf (i : Instr) : Bool :=
  match i with
  | .nop => true
  | .bra _ => true
  | .bc _ _ _ => true
  | .bany _ _ _ => true
  | .ball _ _ _ => true
  | .jset _ => true
  | .join => true
  | .call _ => true
  | .ret => true
  | .jr a _ => okS a
  | .exit => true
  | .mode _ _ e g p => decide (e ≠ 15) && !(decide (p = 7) && decide (g = 1))
  | .lit _ => true
  | .xacq _ => true
  | .xrel _ => true
  | .rgb _ _ _ => true
  | .refill _ _ => true
  | .itemp d a _ => okS d && okS a
  | .yield => true
  | .brk _ => true
  | .sysc _ => true
  | .trapret _ => true
  | .sret _ => true
  | .vsw _ => true
  | .claunch d a _ => okS d && okS a
  | .cwait => true
  | .capr d a _ => okS d && okS a
  | .smov d b => okS d && okS b
  | .sli d _ => okS d
  | .sadd d a b => okS d && okS a && okS b
  | .saddi d a _ => okS d && okS a
  | .ssub d a b => okS d && okS a && okS b
  | .smul d a b => okS d && okS a && okS b
  | .smulh d a b => okS d && okS a && okS b
  | .smulhu d a b => okS d && okS a && okS b
  | .sdiv d a b => okS d && okS a && okS b
  | .sdivu d a b => okS d && okS a && okS b
  | .srem d a b => okS d && okS a && okS b
  | .sremu d a b => okS d && okS a && okS b
  | .sand d a b => okS d && okS a && okS b
  | .sor d a b => okS d && okS a && okS b
  | .sxor d a b => okS d && okS a && okS b
  | .sshl d a b => okS d && okS a && okS b
  | .sshr d a b => okS d && okS a && okS b
  | .ssra d a b => okS d && okS a && okS b
  | .smin d a b => okS d && okS a && okS b
  | .smax d a b => okS d && okS a && okS b
  | .sminu d a b => okS d && okS a && okS b
  | .smaxu d a b => okS d && okS a && okS b
  | .sclz d b => okS d && okS b
  | .spopc d b => okS d && okS b
  | .ssetlt d a b => okS d && okS a && okS b
  | .ssetltu d a b => okS d && okS a && okS b
  | .sseteq d a b => okS d && okS a && okS b
  | .gets d i => (decide (i = 0) || okS d)
  | .puts a _ => okS a
  | .sbcast _ b => okS b
  | .slane _ d _ b => okS d && okS b
  | .vmov _ _ _ => true
  | .vadd _ _ _ _ => true
  | .vsub _ _ _ _ => true
  | .vmul _ _ _ _ => true
  | .vmulh _ _ _ _ => true
  | .vmad _ _ _ _ => true
  | .vmin _ _ _ _ => true
  | .vmax _ _ _ _ => true
  | .vabs _ _ _ => true
  | .vneg _ _ _ => true
  | .vand _ _ _ _ => true
  | .vor _ _ _ _ => true
  | .vxor _ _ _ _ => true
  | .vnot _ _ _ => true
  | .vshl _ _ _ _ => true
  | .vshr _ _ _ _ => true
  | .vsra _ _ _ _ => true
  | .vclz _ _ _ => true
  | .vpopc _ _ _ => true
  | .vbfx _ _ _ _ => true
  | .vbfi _ _ _ _ => true
  | .vsel _ _ _ _ => true
  | .vcmpeq _ d _ _ => okP d
  | .vcmplt _ d _ _ => okP d
  | .vcmple _ d _ _ => okP d
  | .vpand d a b => okP d && okP a && okP b
  | .vpor d a b => okP d && okP a && okP b
  | .vpxor d a b => okP d && okP a && okP b
  | .vpnot d a => okP d && okP a
  | .vshfl _ _ _ _ => true
  | .vradd _ _ _ => true
  | .vrmin _ _ _ => true
  | .vrmax _ _ _ => true
  | .vscan _ _ _ => true
  | .vlane _ _ _ b => okS b
  | .vaddi _ _ _ => true
  | .fadd _ _ _ _ => true
  | .fsub _ _ _ _ => true
  | .fmul _ _ _ _ => true
  | .fma _ _ _ _ => true
  | .fms _ _ _ _ => true
  | .fnma _ _ _ _ => true
  | .fmin _ _ _ _ => true
  | .fmax _ _ _ _ => true
  | .fabs _ _ _ => true
  | .fneg _ _ _ => true
  | .fcmpeq _ d _ _ => okP d
  | .fcmplt _ d _ _ => okP d
  | .fcmple _ d _ _ => okP d
  | .fcmpun _ d _ _ => okP d
  | .fdiv _ _ _ _ => true
  | .fsqrt _ _ _ => true
  | .frcp _ _ _ => true
  | .frsq _ _ _ => true
  | .fexp2 _ _ _ => true
  | .flog2 _ _ _ => true
  | .fsin _ _ _ => true
  | .fcos _ _ _ => true
  | .ftanh _ _ _ => true
  | .fclass _ _ _ => true
  | .frint _ _ _ => true
  | .fradd _ _ _ => true
  | .fdota _ d _ _ => okA d 4
  | .aadd _ _ _ _ => true
  | .areda _ _ _ => true
  | .cvt _ _ _ => true
  | .cvti _ _ _ => true
  | .pack _ _ _ _ => true
  | .unpk _ _ _ _ => true
  | .qnt _ _ _ _ _ => true
  | .dqnt _ _ _ _ _ => true
  | .hadr _ _ _ _ => true
  | .hadi _ _ _ _ => true
  | .amax _ _ _ _ => true
  | .adrn _ _ _ a => okA a 4
  | .afrom _ _ d _ => okA d 4
  | .fslt d _ _ => okS d
  | .vld8 _ _ b _ => okS b
  | .vld16 _ _ b _ => okS b
  | .vld32 _ _ b _ => okS b
  | .vld64 _ d b _ => okA d 2 && okS b
  | .vld128 _ d b _ => okA d 4 && okS b
  | .vst8 _ _ b _ => okS b
  | .vst16 _ _ b _ => okS b
  | .vst32 _ _ b _ => okS b
  | .vst64 _ d b _ => okA d 2 && okS b
  | .vst128 _ d b _ => okA d 4 && okS b
  | .sld _ d b => okS d && okS b
  | .sst _ d b => okS d && okS b
  | .vldc _ _ b _ => okS b
  | .pft b _ => okS b
  | .cpy d a b => okS d && okS a && okS b
  | .cpyb d a b => okS d && okS a && okS b
  | .wait _ _ _ _ _ => true
  | .fence _ => true
  | .flush b _ => okS b
  | .invl b _ => okS b
  | .zero b _ => okS b
  | .sealst _ b => okS b
  | .sealld _ b => okS b
  | .sealfin d a => okS d && okS a
  | .sealchk d a => okS d && okS a
  | .amoadd _ _ b _ => okS b
  | .amomin _ _ b _ => okS b
  | .amomax _ _ b _ => okS b
  | .amominu _ _ b _ => okS b
  | .amomaxu _ _ b _ => okS b
  | .amoand _ _ b _ => okS b
  | .amoor _ _ b _ => okS b
  | .amoxor _ _ b _ => okS b
  | .amoswp _ _ b _ => okS b
  | .amofadd _ _ b _ => okS b
  | .amoaadd _ _ b _ => okS b
  | .cas _ _ b _ => okS b
  | .redadd _ _ b _ => okS b
  | .redmin _ _ b _ => okS b
  | .redmax _ _ b _ => okS b
  | .redfadd _ _ b _ => okS b
  | .redaadd _ _ b _ => okS b
  | .watch d a _ _ _ => okS d && okS a
  | .bara d _ => okS d
  | .barw _ => true
  | .bars d _ => okS d
  | .opbind d a _ => okS d && okS a
  | .opunb d a => okS d && okS a
  | .opgnt d a _ => okS d && okS a
  | .oprev d a _ => okS d && okS a
  | .opstat d a _ _ _ => okS d && okS a
  | .opdisc d a _ _ => okS d && okS a
  | .opgang d a _ _ _ => okS d && okS a
  | .nbld d a => okS d && okS a
  | .nbexec _ _ _ b => okA b 2
  | .nbcpy _ d a b => okS d && okS a && okA b 4
  | .nbz _ d a b => okS d && okS a && okA b 2
  | .nbstat d a _ => okS d && okS a
  | .pmap d a _ _ _ => okS d && okS a
  | .punmap d a _ _ => okS d && okS a
  | .tlbi a _ _ => okS a
  | .poolget d a _ _ _ _ => okS d && okS a
  | .nbEnd => true
  | .nbSel _ _ _ => true
  | .nbCmp _ _ _ => true
  | .nbWr _ _ => true
  | .nbTag cm => decide (cm ≠ 3)
  | .nbCnt _ => true
  | .nbDjnz _ => true
  | .csetbnd _ a d => okK a && okK d
  | .candperm _ a d => okK a && okK d
  | .cincoff _ a d => okK a && okK d
  | .csetoff _ a d => okK a && okK d
  | .cseal b a d => okK b && okK a && okK d
  | .cunseal b a d => okK b && okK a && okK d
  | .csubset b a _ => okK b && okK a
  | .cjalr b a d => okK b && okK a && okK d
  | .cgetbase _ a _ => okK a
  | .cgetlen a _ => okK a
  | .cgetperm a _ => okK a
  | .cgettag a _ => okK a
  | .cclrtag a d => okK a && okK d
  | .clc _ a d => okK a && okK d
  | .csc _ b a _ => okK b && okK a
  | .wfn _ _ _ => true
  | .ntfy _ _ _ => true
  | .ntfySet _ _ _ => true
  | .loadReturn _ => true
  | .storePerformed _ => true
  | .refusalArrival _ _ _ _ => true
  | .engineLockRegister die => okN die 4
  | .copyComplete _ => true
  | .waitSatisfied _ side => okN side 2
  | .fenceComplete _ side => okN side 2
  | .cwaitComplete _ side => okN side 2
  | .xacqGrant core => okN core 512
  | .allocatorPark core => okN core 512
  | .allocatorReturn core => okN core 512
  | .barrierWaitEnd _ side => okN side 2
  | .monitorResume _ => true
  | .watchReread _ => true
  | .groupExitComplete _ => true
  | .notifyDependenceMet _ => true
  | .dispatchAdmit p => okN p 16
  | .dispatchPlaceBlock p => okN p 16
  | .dispatchReturnBlock p => okN p 16
  | .gangReserve p => okN p 16
  | .queueEnable p q => okN p 16 && okN q 256
  | .queueDisable p q => okN p 16 && okN q 256
  | .queueTailRaise p q => okN p 16 && okN q 256
  | .queueRecordRead p q => okN p 16 && okN q 256
  | .serviceWake _ => true
  | .serviceResume _ => true
  | .stage2Resolve p _ _ _ => okN p 16
  | .biasFlipEnd _ => true
  | .atsInvalidation _ _ => true
  | .operatorInputStore core => okN core 512
  | .heldStoreApply core => okN core 512
  | .operatorResultLoad core => okN core 512
  | .tileStep core mac => okN core 512 && okN mac 32
  | .trussCellsArrive core stripe => okN core 512 && okN stripe 64
  | .passEnd core _ => okN core 512
  | .nbQueueHead stack bank => okN stack 8 && okN bank 2048
  | .nbPreparationDone _ => true
  | .nbUnitEnd _ _ => true
  | .nbIssueLimit _ => true
  | .nbCommandComplete _ => true
  | .rds _ _ => true
  | .rdx _ _ => true
  | .upg _ _ => true
  | .wbd _ _ => true
  | .evc _ _ => true
  | .prbshr _ _ => true
  | .prbinv _ _ => true
  | .data _ _ => true
  | .datax _ _ => true
  | .prbrsp _ _ => true
  | .invack _ _ => true
  | .cmp _ _ => true
  | .wback _ _ => true
  | .snpdata _ => true
  | .snpinv _ => true
  | .snpcur _ => true
  | .hostCacheCompletion _ => true
  | .hostMemRead _ _ => true
  | .hostMemWrite _ _ _ => true
  | .notifyPageWrite p _ _ => okN p 16
  | .notifyPageAdd p _ _ => okN p 16
  | .queue0TailWrite p _ => okN p 16
  | .biasreq p _ => okN p 16
  | .pcerrClr p _ => okN p 16
  | .linkEnable h port => okN h 48 && okN port 20
  | .linkDisable h port => okN h 48 && okN port 20
  | .linkClear h port => okN h 48 && okN port 20
  | .linkTrained port _ => okN port 20
  | .trainingAttemptFail port => okN port 20
  | .linkTrainingFailed port => okN port 20
  | .linkLockLost port => okN port 20
  | .flitRetry port => okN port 20
  | .urradRd snode spart _ _ _ => okN snode 384 && okN spart 16
  | .urradWr snode spart _ _ _ => okN snode 384 && okN spart 16
  | .urradAmo snode spart _ _ _ _ _ => okN snode 384 && okN spart 16
  | .urradNtf snode spart _ _ _ => okN snode 384 && okN spart 16
  | .urradAnswer _ _ _ _ => true
  | .hartDeviceAccess h _ _ _ _ => okN h 48
  | .contextLoad p c => okN p 16 && okN c 1024
  | .contextRun p c => okN p 16 && okN c 1024
  | .contextSave p c => okN p 16 && okN c 1024
  | .saveQuiesced p c => okN p 16 && okN c 1024
  | .saveGridEnd p c => okN p 16 && okN c 1024
  | .contextRestore p c => okN p 16 && okN c 1024
  | .restoreGridEnd p c => okN p 16 && okN c 1024
  | .contextDrain p c => okN p 16 && okN c 1024
  | .contextDestroy p c => okN p 16 && okN c 1024
  | .partitionCreate p => okN p 16
  | .partitionResize p => okN p 16
  | .partitionAbort p => okN p 16
  | .partitionDestroy p => okN p 16
  | .partitionEnter p => okN p 16
  | .resizeAdmitEnd p => okN p 16
  | .resizeDrainEnd p => okN p 16
  | .resizeForce p => okN p 16
  | .rehashHandover p => okN p 16
  | .coreMove p _ => okN p 16
  | .pageMove p => okN p 16
  | .resizeDetach p => okN p 16
  | .bootStageVerify stage _ _ _ _ => decide (1 ≤ stage) && okN stage 5
  | .getVersion _ => true
  | .getCapabilities _ => true
  | .negotiateAlgorithms _ => true
  | .getDigests _ => true
  | .getCertificate _ => true
  | .challenge _ _ => true
  | .getMeasurements _ _ => true
  | .keyExchange _ _ => true
  | .ideKmMessage _ _ _ _ => true
  | .tdispMessage _ _ _ _ => true
  | .tagRefusalLimit p c => okN p 16 && okN c 1024
  | .keystoneKillRequest p c => okN p 16 && okN c 1024
  | .keyStoreError p c _ => okN p 16 && okN c 1024
  | .eraseAlarm _ => true
  | .correctedError _ _ _ => true
  | .repeatedCorrection _ _ _ => true
  | .powerGood => true
  | .powerOnReset => true
  | .pcieFundamentalReset => true
  | .mrst h => okN h 48
  | .powerComparison _ _ => true
  | .hbmHot stack _ => okN stack 8
  | .thermalTrip _ _ => true
  | .mstatTripClear h _ => okN h 48
  | .mpowMaxwClear h _ => okN h 48
  | .registerWrite _ _ _ _ => true
  | .powerRemoved => true
  | .uncorrectableError _ _ _ => true
  | .ideStreamFailure _ => true
  | .windowEntryWrite h _ _ => okN h 48
  | .peeringEntryWrite h _ _ => okN h 48
  | .secondStageInvalidation p _ => okN p 16
  | .tenantImageLoad p _ => okN p 16
  | .hartTrap h _ _ => okN h 48
  | .hartSret h => okN h 48

end Sys2Proof
end

