-- ==== Sys2Proof/Certificates/Slice0/Obligations.lean ====
section
/-! DEFINITION. The statements for the provers. Each says what an instruction or the machine does, in the words of
Safety.lean; the docstring names the rules it formalises. -/

open Sys2Proof Sys2Proof.Machine

/-! ## Class 1 -/

/-- R96, R97: the arithmetic of class 1, on the register or the literal (R36); nothing else changes. -/
def Obligations.ScalarArithmetic : Prop :=
  ∀ (s : State) (gid side : Nat) (g : Group) (d a b : BitVec 7),
    Ready s gid side g [] [d.toNat, a.toNat, b.toNat] [] → converged g = true → (LitPending g side → b = 0) →
    let x := sreg g a.toNat
    let y := scalarB g side b.toNat
    SetsScalar s (.sadd d a b) gid side g d.toNat (x + y)
    ∧ SetsScalar s (.ssub d a b) gid side g d.toNat (x - y)
    ∧ SetsScalar s (.smul d a b) gid side g d.toNat (BitVec.ofNat 64 (x.toNat * y.toNat))
    ∧ SetsScalar s (.smulh d a b) gid side g d.toNat (BitVec.ofInt 64 (x.toInt * y.toInt / 2 ^ 64))
    ∧ SetsScalar s (.smulhu d a b) gid side g d.toNat (BitVec.ofNat 64 (x.toNat * y.toNat / 2 ^ 64))
    ∧ SetsScalar s (.sdiv d a b) gid side g d.toNat
        (if y = 0 then 0xFFFFFFFFFFFFFFFF else BitVec.ofInt 64 (x.toInt.tdiv y.toInt))
    ∧ SetsScalar s (.sdivu d a b) gid side g d.toNat
        (if y = 0 then 0xFFFFFFFFFFFFFFFF else BitVec.ofNat 64 (x.toNat / y.toNat))
    ∧ SetsScalar s (.srem d a b) gid side g d.toNat (if y = 0 then x else BitVec.ofInt 64 (x.toInt.tmod y.toInt))
    ∧ SetsScalar s (.sremu d a b) gid side g d.toNat (if y = 0 then x else BitVec.ofNat 64 (x.toNat % y.toNat))

/-- R96: the logic, shifts, minima, maxima and comparisons of class 1; nothing else changes. -/
def Obligations.ScalarLogic : Prop :=
  ∀ (s : State) (gid side : Nat) (g : Group) (d a b : BitVec 7),
    Ready s gid side g [] [d.toNat, a.toNat, b.toNat] [] → converged g = true → (LitPending g side → b = 0) →
    let x := sreg g a.toNat
    let y := scalarB g side b.toNat
    let k := y.toNat % 64
    SetsScalar s (.sand d a b) gid side g d.toNat (x &&& y)
    ∧ SetsScalar s (.sor d a b) gid side g d.toNat (x ||| y)
    ∧ SetsScalar s (.sxor d a b) gid side g d.toNat (x ^^^ y)
    ∧ SetsScalar s (.sshl d a b) gid side g d.toNat (BitVec.ofNat 64 (x.toNat * 2 ^ k))
    ∧ SetsScalar s (.sshr d a b) gid side g d.toNat (BitVec.ofNat 64 (x.toNat / 2 ^ k))
    ∧ SetsScalar s (.ssra d a b) gid side g d.toNat (BitVec.ofInt 64 (x.toInt / 2 ^ k))
    ∧ SetsScalar s (.smin d a b) gid side g d.toNat (if x.toInt < y.toInt then x else y)
    ∧ SetsScalar s (.smax d a b) gid side g d.toNat (if x.toInt < y.toInt then y else x)
    ∧ SetsScalar s (.sminu d a b) gid side g d.toNat (if x.toNat < y.toNat then x else y)
    ∧ SetsScalar s (.smaxu d a b) gid side g d.toNat (if x.toNat < y.toNat then y else x)
    ∧ SetsScalar s (.ssetlt d a b) gid side g d.toNat (if x.toInt < y.toInt then 1 else 0)
    ∧ SetsScalar s (.ssetltu d a b) gid side g d.toNat (if x.toNat < y.toNat then 1 else 0)
    ∧ SetsScalar s (.sseteq d a b) gid side g d.toNat (if x = y then 1 else 0)

/-- R36, R96, R99: the moves and counts of class 1: SMOV, SCLZ, SPOPC, SLI, SADDI, SBCAST and SLANE. -/
def Obligations.ScalarMoves : Prop :=
  ∀ (s : State) (gid side : Nat) (g : Group) (d a b : BitVec 7), converged g = true →
    (Ready s gid side g [] [d.toNat, b.toNat] [] → (LitPending g side → b = 0) →
      let y := scalarB g side b.toNat
      SetsScalar s (.smov d b) gid side g d.toNat y
      ∧ SetsScalar s (.sclz d b) gid side g d.toNat (BitVec.ofNat 64 (if y = 0 then 64 else 63 - Nat.log2 y.toNat))
      ∧ SetsScalar s (.spopc d b) gid side g d.toNat
          (BitVec.ofNat 64 ((List.range 64).filter (fun k => y.getLsbD k)).length))
    ∧ (∀ i : BitVec 16, Ready s gid side g [] [d.toNat] [] → (LitPending g side → i = 0) →
      SetsScalar s (.sli d i) gid side g d.toNat
        (if (slotOf g side).lc = 0 then i.signExtend 64 else (slotOf g side).lat))
    ∧ (∀ i : BitVec 9, Ready s gid side g [] [d.toNat, a.toNat] [] → (LitPending g side → i = 0) →
      SetsScalar s (.saddi d a i) gid side g d.toNat
        (sreg g a.toNat + (if (slotOf g side).lc = 0 then i.signExtend 64 else (slotOf g side).lat)))
    ∧ (∀ et, typeOf g side = some et → et ≠ .a96 → (LitPending g side → b = 0) →
      (Ready s gid side g [] [b.toNat] [(d.toNat, etRegs et)] →
        SetsLanes s (.sbcast d b) gid side g (activeOf g side) d.toNat (etRegs et)
          (fun _ => (scalarB g side b.toNat).toNat))
      ∧ (∀ h, Ready s gid side g [] [d.toNat, b.toNat] [(a.toNat, etRegs et)] →
        SetsScalar s (.slane h d a b) gid side g d.toNat
          (BitVec.ofNat 64 (vregs g a.toNat ((scalarB g side b.toNat).toNat % 32) (etRegs et)))))

/-! ## Class 2 -/

/-- R100, R102: the integer arithmetic of class 2, element by element over the active lanes; nothing else changes. -/
def Obligations.VectorArithmetic : Prop :=
  ∀ (s : State) (gid side : Nat) (g : Group) (et : ET) (h : BitVec 2) (d a b : BitVec 7), typeOf g side = some et →
    let x := fun l k => elemI et k (vregs g a.toNat l (etRegs et))
    let y := fun l k => elemI et k (vectorB g side b.toNat (etRegs et) l)
    let z := fun l k => elemI et k (vregs g d.toNat l (etRegs et))
    let u := fun l k => elemU (etBits et) k (vregs g a.toNat l (etRegs et))
    (Ready s gid side g [] [] [(d.toNat, etRegs et), (a.toNat, etRegs et), (b.toNat, etRegs et)] →
      (LitPending g side → b = 0) →
      (et ∈ [ET.i32, .ui32, .i16x2, .ui16x2, .i8x4, .ui8x4, .i4x8, .i64] →
        SetsElems s (.vadd h d a b) gid side g et d.toNat (fun l k => satTo g side et (x l k + y l k))
        ∧ SetsElems s (.vsub h d a b) gid side g et d.toNat (fun l k => satTo g side et (x l k - y l k))
        ∧ SetsElems s (.vmin h d a b) gid side g et d.toNat (fun l k => min (x l k) (y l k))
        ∧ SetsElems s (.vmax h d a b) gid side g et d.toNat (fun l k => max (x l k) (y l k)))
      ∧ (et ∈ [ET.i32, .ui32, .i16x2, .ui16x2, .i8x4, .ui8x4, .i64] →
        SetsElems s (.vmul h d a b) gid side g et d.toNat (fun l k => satTo g side et (x l k * y l k))
        ∧ SetsElems s (.vmulh h d a b) gid side g et d.toNat (fun l k => x l k * y l k / 2 ^ etBits et)
        ∧ SetsElems s (.vmad h d a b) gid side g et d.toNat (fun l k => satTo g side et (x l k * y l k + z l k))))
    ∧ (Ready s gid side g [] [] [(d.toNat, etRegs et), (a.toNat, etRegs et)] →
      (et ∈ [ET.i32, .i16x2, .i8x4, .i4x8, .i64] → ¬LitPending g side →
        SetsElems s (.vabs h d a) gid side g et d.toNat (fun l k => satTo g side et (x l k).natAbs)
        ∧ SetsElems s (.vneg h d a) gid side g et d.toNat (fun l k => satTo g side et (-x l k)))
      ∧ (et ∈ [ET.i32, .ui32, .i16x2, .ui16x2, .i8x4, .ui8x4, .i4x8, .i64] →
        (¬LitPending g side →
          SetsElems s (.vclz h d a) gid side g et d.toNat
            (fun l k => if u l k = 0 then etBits et else etBits et - 1 - Nat.log2 (u l k))
          ∧ SetsElems s (.vpopc h d a) gid side g et d.toNat
              (fun l k => ((List.range (etBits et)).filter (fun j => (u l k).testBit j)).length))
        ∧ ∀ i : BitVec 9, (LitPending g side → i = 0) →
          SetsElems s (.vaddi d a i) gid side g et d.toNat (fun l k => satTo g side et (x l k +
            (if (slotOf g side).lc = 0 then i.toInt else (slotOf g side).lat.toInt)))))

/-- R102 (VMOV), R103, R104, R105: the moves, bitwise operations, shifts and fields of class 2; nothing else
changes. -/
def Obligations.VectorBits : Prop :=
  ∀ (s : State) (gid side : Nat) (g : Group) (et : ET) (h : BitVec 2) (d a b : BitVec 7), typeOf g side = some et →
    let n := etRegs et
    let x := fun l => vregs g a.toNat l n
    let y := fun l => vectorB g side b.toNat n l
    let c := fun l k => elemU (etBits et) k (y l) % etBits et
    ((LitPending g side → b = 0 ∧ et ≠ .a96) → Ready s gid side g [] [] [(d.toNat, n), (b.toNat, n)] →
      SetsLanes s (.vmov h d b) gid side g (activeOf g side) d.toNat n y)
    ∧ (¬LitPending g side → Ready s gid side g [] [] [(d.toNat, n), (a.toNat, n)] →
      SetsLanes s (.vnot h d a) gid side g (activeOf g side) d.toNat n (fun l => 2 ^ (32 * n) - 1 - x l))
    ∧ ((LitPending g side → b = 0 ∧ et ≠ .a96) →
      Ready s gid side g [] [] [(d.toNat, n), (a.toNat, n), (b.toNat, n)] →
      SetsLanes s (.vand h d a b) gid side g (activeOf g side) d.toNat n (fun l => x l &&& y l)
      ∧ SetsLanes s (.vor h d a b) gid side g (activeOf g side) d.toNat n (fun l => x l ||| y l)
      ∧ SetsLanes s (.vxor h d a b) gid side g (activeOf g side) d.toNat n (fun l => x l ^^^ y l)
      ∧ SetsLanes s (.vsel h d a b) gid side g (slotOf g side).exec d.toNat n
          (fun l => if (guardMask g (slotOf g side).mr).getLsbD l then x l else y l)
      ∧ (et ∈ [ET.i32, .ui32, .i16x2, .ui16x2, .i8x4, .ui8x4, .i4x8, .i64] →
        SetsElems s (.vshl h d a b) gid side g et d.toNat (fun l k => satTo g side et (elemI et k (x l) * 2 ^ c l k))
        ∧ SetsElems s (.vshr h d a b) gid side g et d.toNat
            (fun l k => (elemU (etBits et) k (x l) / 2 ^ c l k : Nat))
        ∧ SetsElems s (.vsra h d a b) gid side g et d.toNat
            (fun l k => signedOf (etBits et) (elemU (etBits et) k (x l)) / 2 ^ c l k)))
    ∧ (et ∈ [ET.i32, .ui32, .i64] → (LitPending g side → b = 0) →
      Ready s gid side g [] [] [(d.toNat, n), (a.toNat, n), (b.toNat, 1)] →
      let w := etBits et
      let pos := fun l => vectorB g side b.toNat 1 l % 64
      let len := fun l => vectorB g side b.toNat 1 l / 256 % 64
      let f := fun l => if w ≤ pos l ∨ len l = 0 then 0 else min (len l) (w - pos l)
      SetsElems s (.vbfx h d a b) gid side g et d.toNat (fun l _ =>
        if f l = 0 then 0 else if etSigned et then signedOf (f l) (x l / 2 ^ pos l) else (x l / 2 ^ pos l % 2 ^ f l : Nat))
      ∧ SetsLanes s (.vbfi h d a b) gid side g (activeOf g side) d.toNat n (fun l =>
          let m := (2 ^ f l - 1) * 2 ^ pos l
          (vregs g d.toNat l n &&& (2 ^ w - 1 - m)) ||| ((x l * 2 ^ pos l) &&& m)))

/-- R106: the compares, element by element, and the operations on predicates, over the active lanes; nothing else
changes. -/
def Obligations.VectorPredicates : Prop :=
  ∀ (s : State) (gid side : Nat) (g : Group) (h : BitVec 2) (d a b : BitVec 7),
    (∀ et, typeOf g side = some et → et ∈ [ET.i32, .ui32, .i16x2, .ui16x2, .i8x4, .ui8x4, .i4x8, .i64] →
      (LitPending g side → b = 0) →
      Ready s gid side g [d.toNat] [] [(a.toNat, etRegs et), (b.toNat, etRegs et)] →
      ∀ (i : Instr) (r : Int → Int → Prop),
        (i = .vcmpeq h d a b ∧ r = fun p q => p = q) ∨ (i = .vcmplt h d a b ∧ r = fun p q => p < q)
          ∨ (i = .vcmple h d a b ∧ r = fun p q => p ≤ q) →
        ∃ m, SetsPred s i gid side g (activeOf g side) d.toNat m
          ∧ ∀ l, l < 32 → (m.getLsbD l = true ↔ ∀ k, k < etCount et →
            r (elemI et k (vregs g a.toNat l (etRegs et))) (elemI et k (vectorB g side b.toNat (etRegs et) l))))
    ∧ (¬LitPending g side → Ready s gid side g [d.toNat, a.toNat, b.toNat] [] [] →
      SetsPred s (.vpand d a b) gid side g (activeOf g side) d.toNat (preg g a.toNat &&& preg g b.toNat)
      ∧ SetsPred s (.vpor d a b) gid side g (activeOf g side) d.toNat (preg g a.toNat ||| preg g b.toNat)
      ∧ SetsPred s (.vpxor d a b) gid side g (activeOf g side) d.toNat (preg g a.toNat ^^^ preg g b.toNat))
    ∧ (¬LitPending g side → Ready s gid side g [d.toNat, a.toNat] [] [] →
      SetsPred s (.vpnot d a) gid side g (activeOf g side) d.toNat (~~~preg g a.toNat))

/-- R107, R108: a value of another lane, and the reductions and prefix sums over the active lanes; nothing else
changes. -/
def Obligations.VectorAcross : Prop :=
  ∀ (s : State) (gid side : Nat) (g : Group) (et : ET) (h : BitVec 2) (d a b : BitVec 7), typeOf g side = some et →
    let n := etRegs et
    let act := (List.range 32).filter (fun l => (activeOf g side).getLsbD l)
    let x := fun k l => elemI et k (vregs g a.toNat l n)
    ((LitPending g side → b = 0) →
      (Ready s gid side g [] [] [(d.toNat, n), (a.toNat, n), (b.toNat, 1)] →
        SetsLanes s (.vshfl h d a b) gid side g (activeOf g side) d.toNat n
          (fun l => vregs g a.toNat (vectorB g side b.toNat 1 l % 32) n))
      ∧ (Ready s gid side g [] [b.toNat] [(d.toNat, n), (a.toNat, n)] →
        SetsLanes s (.vlane h d a b) gid side g (activeOf g side) d.toNat n
          (fun _ => vregs g a.toNat ((scalarB g side b.toNat).toNat % 32) n)))
    ∧ (et ∈ [ET.i32, .ui32, .i16x2, .ui16x2, .i8x4, .ui8x4, .i4x8, .i64] → ¬LitPending g side →
      Ready s gid side g [] [] [(d.toNat, n), (a.toNat, n)] →
      SetsElems s (.vradd h d a) gid side g et d.toNat (fun _ k => satTo g side et ((act.map (x k)).sum))
      ∧ (∃ m : Nat → Int, SetsElems s (.vrmin h d a) gid side g et d.toNat (fun _ k => m k)
          ∧ ∀ k, act ≠ [] → m k ∈ act.map (x k) ∧ ∀ l ∈ act, m k ≤ x k l)
      ∧ (∃ m : Nat → Int, SetsElems s (.vrmax h d a) gid side g et d.toNat (fun _ k => m k)
          ∧ ∀ k, act ≠ [] → m k ∈ act.map (x k) ∧ ∀ l ∈ act, x k l ≤ m k)
      ∧ SetsElems s (.vscan h d a) gid side g et d.toNat
          (fun l k => satTo g side et (((act.filter (fun m => m ≤ l)).map (x k)).sum)))

/-! ## Class 3 -/

/-- R109, R111, R112: the float arithmetic of class 3, element by element over the active lanes, each result rounded
once; nothing else changes. FADD to FNMA round the exact value that R111 gives. -/
def Obligations.FloatArithmetic : Prop :=
  ∀ (s : State) (gid side : Nat) (g : Group) (et : ET) (h : BitVec 2) (d a b : BitVec 7), typeOf g side = some et →
    et ∈ [ET.f32, .f16x2, .bf16x2] →
    let rm := mrRM (slotOf g side).mr
    let sat := mrSAT (slotOf g side).mr
    let f := fmtOf et
    let u := fun l k => elemU (etBits et) k (vregs g a.toNat l 1)
    let v := fun l k => elemU (etBits et) k (vectorB g side b.toNat 1 l)
    let x := fun l k => fDecode f (u l k)
    let y := fun l k => fDecode f (v l k)
    let z := fun l k => fDecode f (elemU (etBits et) k (vregs g d.toNat l 1))
    ((LitPending g side → b = 0) → Ready s gid side g [] [] [(d.toNat, 1), (a.toNat, 1), (b.toNat, 1)] →
      SetsElems s (.fadd h d a b) gid side g et d.toNat (fun l k => roundVal f rm sat (fAddV rm (x l k) (y l k)))
      ∧ SetsElems s (.fsub h d a b) gid side g et d.toNat
          (fun l k => roundVal f rm sat (fAddV rm (x l k) (fNegV (y l k))))
      ∧ SetsElems s (.fmul h d a b) gid side g et d.toNat (fun l k => roundVal f rm sat (fMulV (x l k) (y l k)))
      ∧ SetsElems s (.fma h d a b) gid side g et d.toNat
          (fun l k => roundVal f rm sat (fAddV rm (fMulV (x l k) (y l k)) (z l k)))
      ∧ SetsElems s (.fms h d a b) gid side g et d.toNat
          (fun l k => roundVal f rm sat (fAddV rm (fMulV (x l k) (y l k)) (fNegV (z l k))))
      ∧ SetsElems s (.fnma h d a b) gid side g et d.toNat
          (fun l k => roundVal f rm sat (fAddV rm (fNegV (fMulV (x l k) (y l k))) (z l k)))
      ∧ SetsElems s (.fdiv h d a b) gid side g et d.toNat (fun l k => fDiv f rm sat (x l k) (y l k))
      ∧ SetsElems s (.fmin h d a b) gid side g et d.toNat (fun l k => fMinMax f false (u l k) (v l k))
      ∧ SetsElems s (.fmax h d a b) gid side g et d.toNat (fun l k => fMinMax f true (u l k) (v l k)))
    ∧ (¬LitPending g side → Ready s gid side g [] [] [(d.toNat, 1), (a.toNat, 1)] →
      SetsElems s (.fabs h d a) gid side g et d.toNat (fun l k => (u l k % 2 ^ (etBits et - 1) : Nat))
      ∧ SetsElems s (.fneg h d a) gid side g et d.toNat (fun l k => (u l k : Int) + 2 ^ (etBits et - 1))
      ∧ SetsElems s (.fclass h d a) gid side g et d.toNat (fun l k => fClass f (u l k))
      ∧ SetsElems s (.frint h d a) gid side g et d.toNat (fun l k => fRint f rm (u l k)))

/-- R109, R113, R114: the one-operand functions of class 3 and the float compares, element by element over the active lanes;
nothing else changes. A NaN compares false, and FCMPUN holds where a NaN is met. Where no tried precision decides the rounding of a
function the value is free (log 20). -/
def Obligations.FloatFunctionsAndCompares : Prop :=
  ∀ (s : State) (gid side : Nat) (g : Group) (et : ET) (h : BitVec 2) (d a b : BitVec 7), typeOf g side = some et →
    et ∈ [ET.f32, .f16x2, .bf16x2] →
    (¬LitPending g side → Ready s gid side g [] [] [(d.toNat, 1), (a.toNat, 1)] → ∀ (i : Instr) (fn : Fun1),
      (i, fn) ∈ [(Instr.fsqrt h d a, Fun1.sqrt), (.frcp h d a, .rcp), (.frsq h d a, .rsq), (.fexp2 h d a, .exp2),
        (.flog2 h d a, .log2), (.fsin h d a, .sin), (.fcos h d a, .cos), (.ftanh h d a, .tanh)] →
      SetsElems s i gid side g et d.toNat (fun l k =>
        fFun1 fn (fmtOf et) (mrRM (slotOf g side).mr) (mrSAT (slotOf g side).mr) (elemU (etBits et) k (vregs g a.toNat l 1))))
    ∧ ((LitPending g side → b = 0) → Ready s gid side g [d.toNat] [] [(a.toNat, 1), (b.toNat, 1)] →
      ∀ (i : Instr) (r : FVal → FVal → Bool),
        (i = .fcmpeq h d a b ∧ r = fEq) ∨ (i = .fcmplt h d a b ∧ r = fLt)
          ∨ (i = .fcmple h d a b ∧ r = fun p q => fLt p q || fEq p q)
          ∨ (i = .fcmpun h d a b ∧ r = fun p q => p == .nan || q == .nan) →
        ∃ m, SetsPred s i gid side g (activeOf g side) d.toNat m
          ∧ ∀ l, l < 32 → (m.getLsbD l = true ↔ ∀ k, k < etCount et →
            r (fDecode (fmtOf et) (elemU (etBits et) k (vregs g a.toNat l 1)))
              (fDecode (fmtOf et) (elemU (etBits et) k (vectorB g side b.toNat 1 l))) = true))

/-- R111, R112, R113, R114: the values that class 3 gives at NaN, infinity and zero. -/
def Obligations.FloatSpecialValues : Prop :=
  (∀ (m : RMode) (v : FVal), fAddV m .nan v = .nan ∧ fAddV m v .nan = .nan ∧ fMulV .nan v = .nan ∧ fMulV v .nan = .nan
    ∧ fAddV m (.inf false) (.inf true) = .nan ∧ fAddV m (.inf true) (.inf false) = .nan
    ∧ fEq .nan v = false ∧ fEq v .nan = false ∧ fLt .nan v = false ∧ fLt v .nan = false)
  ∧ (∀ (n k : Bool) (e : Int), fMulV (.inf n) (.fin k 0 e) = .nan ∧ fMulV (.fin k 0 e) (.inf n) = .nan)
  ∧ (∀ (m : RMode) (e q : Int), (∃ r, fAddV m (.fin false 0 e) (.fin true 0 q) = .fin (m == .rdn) 0 r)
    ∧ (∀ n, ∃ r, fAddV m (.fin n 0 e) (.fin n 0 q) = .fin n 0 r)
    ∧ (∀ j, ∃ r, fAddV m (.fin false (j + 1) e) (.fin true (j + 1) e) = .fin (m == .rdn) 0 r))
  ∧ (∀ (n k : Bool) (e q : Int), fEq (.fin n 0 e) (.fin k 0 q) = true ∧ fLt (.fin n 0 e) (.fin k 0 q) = false)
  ∧ ∀ (f : FFmt) (m : RMode) (sat : Bool), f ∈ [FFmt.f32, .f16, .bf16] →
    roundVal f m sat .nan = fNaN f
    ∧ (∀ n, roundVal f m sat (.inf n) = fInf f n)
    ∧ (∀ (v : FVal), fDiv f m sat .nan v = fNaN f ∧ fDiv f m sat v .nan = fNaN f)
    ∧ (∀ (n k : Bool) (e q : Int), fDiv f m sat (.fin n 0 e) (.fin k 0 q) = fNaN f
      ∧ fDiv f m sat (.inf n) (.inf k) = fNaN f
      ∧ (∀ j, fDiv f m sat (.fin n (j + 1) e) (.fin k 0 q) = fInf f (n != k))
      ∧ (∀ j, fDiv f m sat (.fin n j e) (.inf k) = fSign f (n != k) ∧ fDiv f m sat (.inf k) (.fin n j e) = fInf f (n != k)))
    ∧ (∀ x y, fDecode f x = .nan → fDecode f y ≠ .nan → fMinMax f false x y = y ∧ fMinMax f true x y = y
      ∧ fMinMax f false y x = y ∧ fMinMax f true y x = y)
    ∧ (∀ x y, fDecode f x = .nan → fDecode f y = .nan → fMinMax f false x y = fNaN f ∧ fMinMax f true x y = fNaN f)

/-- R116, R117, R118: FRADD reduces by the fixed tree of five levels, FDOTA adds the exact products of a lane to its
cell with slot 0's L, AADD merges two cells and AREDA the cells of the active lanes; nothing else changes. -/
def Obligations.FloatReductions : Prop :=
  ∀ (s : State) (gid side : Nat) (g : Group) (et : ET) (h : BitVec 2) (d a b : BitVec 7), typeOf g side = some et →
    let rm := mrRM (slotOf g side).mr
    let sat := mrSAT (slotOf g side).mr
    let f := fmtOf et
    let act := (List.range 32).filter (fun l => (activeOf g side).getLsbD l)
    (et ∈ [ET.f32, .f16x2, .bf16x2] → ¬LitPending g side → Ready s gid side g [] [] [(d.toNat, 1), (a.toNat, 1)] →
      SetsElems s (.fradd h d a) gid side g et d.toNat (fun _ k =>
        let r := (treeReduce (treeComb f rm sat) ((List.range 32).map (fun l =>
          if (activeOf g side).getLsbD l then some (elemU (etBits et) k (vregs g a.toNat l 1)) else none))).getD 0
        if fDecode f r = .nan then fNaN f else r))
    ∧ (capOn s (reqOf s g).part capA96 = true →
      (et ∈ [ET.f32, .f16x2, .bf16x2, .e4m3x4, .e5m2x4, .i8x4, .ui8x4, .i4x8] → (LitPending g side → b = 0) →
        Ready s gid side g [] [] [(d.toNat, 4), (a.toNat, 1), (b.toNat, 1)] →
        SetsLanes s (.fdota h d a b) gid side g (activeOf g side) d.toNat 4 (fun l =>
          cellBits ((List.range (etCount et)).foldl (fun c k =>
            a96Add (fsL (slotWordOf s g 0 0)) c
              (fMulV (elemV et k (vregs g a.toNat l 1)) (elemV et k (vectorB g side b.toNat 1 l))))
            (cellOf (vregs g d.toNat l 4)))))
      ∧ (et = .a96 → ¬LitPending g side →
        (Ready s gid side g [] [] [(d.toNat, 4), (a.toNat, 4), (b.toNat, 4)] →
          SetsLanes s (.aadd h d a b) gid side g (activeOf g side) d.toNat 4 (fun l =>
            cellBits (a96Merge (cellOf (vregs g a.toNat l 4)) (cellOf (vregs g b.toNat l 4)))))
        ∧ (Ready s gid side g [] [] [(d.toNat, 4), (a.toNat, 4)] →
          SetsLanes s (.areda h d a) gid side g (activeOf g side) d.toNat 4 (fun _ =>
            cellBits ((act.map (fun l => cellOf (vregs g a.toNat l 4))).foldl a96Merge Cell.zero)))))

/-! ## Class 4 -/

/-- R85, R86, R88: the conversions, element by element of the runs that the two types take; nothing else changes. -/
def Obligations.Conversions : Prop :=
  ∀ (s : State) (gid side : Nat) (g : Group) (et : ET) (d a : BitVec 7), typeOf g side = some et →
    let rm := mrRM (slotOf g side).mr
    let sat := mrSAT (slotOf g side).mr
    (∀ (c : BitVec 4) (dt : ET), etOfCode c.toNat = some dt →
      let n := max (etCount et) (etCount dt)
      let kd := n / etCount dt
      let ka := n / etCount et
      let x := fun l e => elemU (etBits et) e (vregs g a.toNat l ka)
      Ready s gid side g [] [] [(d.toNat, 1), (a.toNat, 1), (d.toNat, kd), (a.toNat, ka)] →
      (et ∈ [ET.f32, .f16x2, .bf16x2, .e4m3x4, .e5m2x4] → dt ∈ [ET.f32, .f16x2, .bf16x2, .e4m3x4, .e5m2x4] →
        ∃ f, SetsLanes s (.cvt c d a) gid side g (activeOf g side) d.toNat kd f
          ∧ ∀ l e, e < n → elemU (etBits dt) e (f l)
            = narrowF (fmtOf dt) sat (fDecode (fmtOf et) (x l e)) % 2 ^ etBits dt)
      ∧ (et ∈ [ET.i32, .ui32, .i16x2, .ui16x2, .i8x4, .ui8x4, .f32, .f16x2, .bf16x2] →
        dt ∈ [ET.i32, .ui32, .i16x2, .ui16x2, .i8x4, .ui8x4, .f32, .f16x2, .bf16x2] →
        (etFloat et = none ∨ etFloat dt = none) →
        ∃ f, SetsLanes s (.cvti c d a) gid side g (activeOf g side) d.toNat kd f
          ∧ ∀ l e, e < n → elemU (etBits dt) e (f l) = (match etFloat et, etFloat dt with
            | some p, _ => narrowI (etSigned dt) (etBits dt) rm sat (fDecode p (x l e))
            | none, some p => roundVal p rm false (fOfInt (elemI et e (vregs g a.toNat l ka)))
            | none, none => fitInt (etSigned dt) (etBits dt) sat (elemI et e (vregs g a.toNat l ka))) % 2 ^ etBits dt))
    ∧ (et ∈ [ET.f32, .f16x2, .bf16x2] → ∀ (slot : BitVec 3) (w : BitVec 1) (k : BitVec 5),
      let q := (slotWordOf s g slot.toNat 0).toNat / (if w = 1 then 1 else 16) % 16
      let cb := (List.range 16).map (fun i =>
        fDecode .bf16 ((slotWordOf s g slot.toNat (2 + i / 4)).toNat / 2 ^ (16 * (i % 4)) % 2 ^ 16))
      let n := max (etCount et) (32 / codeBits q)
      let kt := n / etCount et
      let kq := n / (32 / codeBits q)
      (Ready s gid side g [] [] [(d.toNat, 1), (a.toNat, 1), (d.toNat, kq), (a.toNat, kt)] →
        ∃ f, SetsLanes s (.qnt slot w k d a) gid side g (activeOf g side) d.toNat kq f
          ∧ ∀ l e, e < n → elemU (codeBits q) e (f l) = encodeQ cb sat q (fScale k.toInt
            (fDecode (fmtOf et) (elemU (etBits et) e (vregs g a.toNat l kt)))) % 2 ^ codeBits q)
      ∧ (Ready s gid side g [] [] [(d.toNat, 1), (a.toNat, 1), (d.toNat, kt), (a.toNat, kq)] →
        ∃ f, SetsLanes s (.dqnt slot w k d a) gid side g (activeOf g side) d.toNat kt f
          ∧ ∀ l e, e < n → elemU (etBits et) e (f l) = narrowF (fmtOf et) sat (fScale k.toInt
            (decodeQ cb q (elemU (codeBits q) e (vregs g a.toNat l kq)))) % 2 ^ etBits et))

/-- R87, R89, R90: packing, rotation of a block of 64 elements, and the largest magnitude; nothing else changes. -/
def Obligations.PackingAndBlocks : Prop :=
  ∀ (s : State) (gid side : Nat) (g : Group) (et : ET) (h : BitVec 2) (d a b : BitVec 7), typeOf g side = some et →
    let w := etBits et
    let n := etCount et
    let x := fun l k => elemU w k (vregs g a.toNat l 1)
    let y := fun l k => elemU w k (vectorB g side b.toNat 1 l)
    ((LitPending g side → b = 0) → Ready s gid side g [] [] [(d.toNat, 1), (a.toNat, 1), (b.toNat, 1)] →
      (et ∈ [ET.i16x2, .ui16x2, .i8x4, .ui8x4, .f16x2, .bf16x2, .e4m3x4, .e5m2x4, .i4x8, .cb4x8] →
        SetsElems s (.pack h d a b) gid side g et d.toNat
          (fun l k => if k < n / 2 then x l (2 * k) else y l (2 * (k - n / 2)))
        ∧ SetsElems s (.unpk h d a b) gid side g et d.toNat
            (fun l k => if k % 2 = 0 then x l (k / 2) else y l (k / 2)))
      ∧ (et ∈ [ET.i32, .i16x2, .i8x4, .f32, .f16x2, .bf16x2] →
        ∃ m : Nat, SetsElems s (.amax h d a b) gid side g et d.toNat (fun _ _ => m)
          ∧ ((activeOf g side) ≠ 0 → ∀ (mag : Nat → Option Nat),
            (mag = fun e => match etFloat et with
              | some f => if fDecode f e = .nan then none else some (e % 2 ^ (w - 1))
              | none => some (signedOf w e).natAbs) →
            let all := fun e => ∃ l k, l < 32 ∧ (activeOf g side).getLsbD l = true ∧ k < n ∧ (e = x l k ∨ e = y l k)
            ((∀ e, all e → mag e = none) → m = fNaN (fmtOf et))
            ∧ ((∃ e, all e ∧ mag e ≠ none) → (∃ e, all e ∧ mag e = some m) ∧ ∀ e v, all e → mag e = some v → v ≤ m))))
    ∧ (∀ (slot : BitVec 3) (bi : BitVec 5), et ∈ [ET.f32, .f16x2, .bf16x2] →
      let k := if et = .f32 then 2 else 1
      Ready s gid side g [] [bi.toNat] [(d.toNat, 1), (a.toNat, 1), (d.toNat, k), (a.toNat, k)] →
      let z := (List.range 64).map (fun e => fDecode (fmtOf et)
        (if et = .f32 then (vreg g (a.toNat + e / 32) (e % 32)).toNat else elemU 16 (e % 2) (vreg g a.toNat (e / 2)).toNat))
      let out := fun (r : List FVal) e => narrowF (fmtOf et) (mrSAT (slotOf g side).mr) (r.getD e .nan)
      let lay := fun (r : List FVal) l => if et = .f32 then out r l + 2 ^ 32 * out r (l + 32)
        else out r (2 * l) + 2 ^ 16 * out r (2 * l + 1)
      SetsLanes s (.hadr slot bi d a) gid side g (activeOf g side) d.toNat k
        (lay (rotate (slotWordOf s g slot.toNat 1) (sreg g bi.toNat) z))
      ∧ SetsLanes s (.hadi slot bi d a) gid side g (activeOf g side) d.toNat k
        (lay (unrotate (slotWordOf s g slot.toNat 1) (sreg g bi.toNat) z)))

/-- R91, R92, R93: draining a cell under a format slot, making a cell of one value, and reading a word of a slot;
nothing else changes. -/
def Obligations.CellsAndSlots : Prop :=
  ∀ (s : State) (gid side : Nat) (g : Group) (d a : BitVec 7) (slot : BitVec 3),
    let w := slotWordOf s g slot.toNat 0
    (capOn s (reqOf s g).part capA96 = true →
      (∀ c : BitVec 1, Ready s gid side g [] [] [(d.toNat, 1), (a.toNat, 4)] →
        SetsLanes s (.adrn slot c d a) gid side g (activeOf g side) d.toNat 1 (fun l =>
          a96Drain (fsL w) (fsDSH w) (fsDSAT w) (dfmtOfCode (fsDFMT w)) (cellOf (vregs g a.toNat l 4))
            (if c = 1 then fDecode .bf16 ((vreg g d.toNat l).toNat % 2 ^ 16) else .fin false 1 0)))
      ∧ (∀ (e : BitVec 1) (et : ET), typeOf g side = some et → et ∈ [ET.i32, .ui32, .f32, .f16x2, .bf16x2] →
        (e = 1 → et ∈ [ET.f16x2, .bf16x2]) → Ready s gid side g [] [] [(d.toNat, 4), (a.toNat, 1)] →
        SetsLanes s (.afrom slot e d a) gid side g (activeOf g side) d.toNat 4 (fun l =>
          cellBits (a96Add (fsL w) Cell.zero (elemV et e.toNat (vregs g a.toNat l 1))))))
    ∧ (∀ k : BitVec 3, converged g = true → ¬LitPending g side → Ready s gid side g [] [d.toNat] [] →
      SetsScalar s (.fslt d k slot) gid side g d.toNat (slotWordOf s g slot.toNat k.toNat))

/-! ## Class 0 -/

/-- R30, R35, R37, R144, R152 to R155, R158, R160: the whole-slot control instructions. A target that is no valid PC
is not taken here (R153). -/
def Obligations.ControlFlow : Prop :=
  ∀ (s : State) (gid side : Nat) (g : Group),
    let sl := slotOf g side
    let goes := fun (h : Group) (pc : DWord) => setSlot h side (slotAt sl pc)
    (Ready s gid side g [] [] [] →
      Becomes s .nop gid (goes g (sl.pc + 4))
      ∧ (∀ i : BitVec 23, pcValid (sl.pc + 4 * i.signExtend 64) = true →
        Becomes s (.bra i) gid (goes g (sl.pc + 4 * i.signExtend 64)))
      ∧ (∀ (t : BitVec 1) (r : BitVec 2) (e : BitVec 4) (gs : BitVec 1) (p : BitVec 3), e ≠ 15 → ¬(p = 7 ∧ gs = 1) →
        Becomes s (.mode t r e gs p) gid (setSlot g side { slotAt sl (sl.pc + 4) with mr := t ++ r ++ e ++ gs ++ p }))
      ∧ (∀ i : BitVec 23, sl.lc ≠ 3 →
        Becomes s (.lit i) gid (setSlot g side { slotAt sl (sl.pc + 4) with
          lc := sl.lc + 1
          lat := if sl.lc = 0 then i.signExtend 64 else (sl.lat <<< 23) ||| i.setWidth 64 }))
      ∧ (∀ i : BitVec 16, (LitPending g side → i = 0) →
        Becomes s (.jset i) gid
          (setSlot g side { slotAt sl (sl.pc + 4) with jpc := sl.pc + 4 * immOf g side i, jp := true })))
    ∧ (∀ (sense : BitVec 1) (p : BitVec 3) (i : BitVec 16), Ready s gid side g [p.toNat] [] [] →
      (LitPending g side → i = 0) →
      let b := sl.exec &&& (if sense = 0 then preg g p.toNat else ~~~preg g p.toNat)
      let tgt := sl.pc + 4 * immOf g side i
      (b ≠ 0 → pcValid tgt = true → Becomes s (.bany sense p i) gid (goes g tgt))
      ∧ (b = 0 → Becomes s (.bany sense p i) gid (goes g (sl.pc + 4)))
      ∧ (b = sl.exec → pcValid tgt = true → Becomes s (.ball sense p i) gid (goes g tgt))
      ∧ (b ≠ sl.exec → Becomes s (.ball sense p i) gid (goes g (sl.pc + 4))))
    ∧ (Ready s gid side g [] [] [(30, 1), (31, 1)] →
      (∀ i : BitVec 23, pcValid (sl.pc + 4 * i.signExtend 64) = true → ∃ g',
        Becomes s (.call i) gid g' ∧ LanesAre g g' sl.exec 30 2 (fun _ => (sl.pc + 4).toNat)
          ∧ g' = { goes g (sl.pc + 4 * i.signExtend 64) with v := g'.v })
      ∧ (∀ (l : Nat) (pc : DWord), l < 32 → sl.exec.getLsbD l = true → (∀ k, k < l → sl.exec.getLsbD k = false) →
        pc = vreg g 31 l ++ vreg g 30 l → pcValid pc = true → Becomes s .ret gid (goes g pc)))
    ∧ (∀ (a : BitVec 7) (i : BitVec 9), Ready s gid side g [] [a.toNat] [] → (LitPending g side → i = 0) →
      pcValid (sreg g a.toNat + 4 * immOf g side i) = true →
      Becomes s (.jr a i) gid (goes g (sreg g a.toNat + 4 * immOf g side i)))

/-- R147, R148, R156, R157: a divergent branch with a pending join latch, in its four cases, and JOIN at the PC of the
innermost waiting entry that covers the slot's lanes. -/
def Obligations.DivergenceAndJoin : Prop :=
  ∀ (s : State) (gid side : Nat) (g : Group), side ≤ 1 →
    let sl := slotOf g side
    let other := slotOf g (otherSide side)
    (∀ (sense : BitVec 1) (p : BitVec 3) (i : BitVec 16), Ready s gid side g [p.toNat] [] [] →
      (LitPending g side → i = 0) → sl.jp = true →
      let t := sl.exec &&& (if sense = 0 then preg g p.toNat else ~~~preg g p.toNat)
      let n := sl.exec &&& ~~~t
      let tgt := sl.pc + 4 * immOf g side i
      let waits : SEntry := { pc := asPc sl.jpc, mrs := sl.mr, mask := sl.exec, arr := 0 }
      (t = 0 → Becomes s (.bc sense p i) gid (setSlot g side { slotAt sl (sl.pc + 4) with jp := false }))
      ∧ (t ≠ 0 → n = 0 → pcValid tgt = true →
        Becomes s (.bc sense p i) gid (setSlot g side { slotAt sl tgt with jp := false }))
      ∧ (t ≠ 0 → n ≠ 0 → pcValid tgt = true → other.live = false → g.stack.length ≤ 63 →
        Becomes s (.bc sense p i) gid { setSlot (setSlot g side
            { slotAt sl (sl.pc + 4) with exec := n, jp := false })
            (otherSide side) { Slot.free with live := true, pc := tgt, exec := t, mr := sl.mr } with
          stack := g.stack ++ [waits] })
      ∧ (t ≠ 0 → n ≠ 0 → pcValid tgt = true → other.live = true → g.stack.length ≤ 62 →
        Becomes s (.bc sense p i) gid { setSlot g side { slotAt sl (sl.pc + 4) with exec := n, jp := false } with
          stack := g.stack ++ [waits, { pc := tgt, mrs := sl.mr, mask := t, arr := t }] }))
    ∧ (Ready s gid side g [] [] [] →
      let waits := fun e : SEntry => e.arr ≠ e.mask ∧ e.pc = sl.pc ∧ sl.exec &&& ~~~e.mask = 0
      ((∀ e ∈ g.stack, ¬waits e) → Becomes s .join gid (setSlot g side (slotAt sl (sl.pc + 4))))
      ∧ (∀ before after e, g.stack = before ++ e :: after → waits e → (∀ x ∈ after, ¬waits x) →
        let arr := e.arr ||| sl.exec
        Becomes s .join gid (refill { setSlot g side Slot.free with
          stack := before ++ { e with arr := arr, pc := if arr = e.mask then sl.pc + 4 else e.pc } :: after })))


/-- R148: a free slot takes the runnable entry of highest index, A before B; with no free slot or no runnable entry
nothing changes. -/
def Obligations.FreeSlotsRefill : Prop :=
  ∀ (g : Group) (e f : SEntry) (before between after : List SEntry),
    let runs := fun x : SEntry => x.arr = x.mask
    let slot := fun x : SEntry => { Slot.free with live := true, pc := x.pc, exec := x.mask, mr := x.mrs }
    (g.a.live = true → g.b.live = true → refill g = g)
    ∧ ((∀ x ∈ g.stack, ¬runs x) → refill g = g)
    ∧ (g.stack = before ++ e :: after → runs e → (∀ x ∈ after, ¬runs x) →
      (g.a.live = false → g.b.live = true → refill g = { g with a := slot e, stack := before ++ after })
      ∧ (g.a.live = true → g.b.live = false → refill g = { g with b := slot e, stack := before ++ after })
      ∧ (g.a.live = false → g.b.live = false → (∀ x ∈ before, ¬runs x) →
        refill g = { g with a := slot e, stack := before ++ after }))
    ∧ (g.stack = before ++ f :: between ++ e :: after → runs e → runs f → (∀ x ∈ after, ¬runs x) →
      (∀ x ∈ between, ¬runs x) → g.a.live = false → g.b.live = false →
      refill g = { g with a := slot e, b := slot f, stack := before ++ between ++ after })

/-- R159, R143: EXIT with no active lane only moves on; with lanes left, the slot and the stack lose the active ones,
entries left with no lane go, and a waiting entry that is now complete resumes past its JOIN; with none left the group
waits for its outstanding accesses, or is EXITED at once. Another group of the workgroup that has not gathered in an RGB
is there, and the block is at no joint. -/
def Obligations.ExitEndsLanes : Prop :=
  ∀ (s : State) (gid side : Nat) (g : Group), side ≤ 1 → Ready s gid side g [] [] [] →
    let sl := slotOf g side
    let x := activeOf g side
    let rest := sl.exec &&& ~~~x
    let cut := fun e : SEntry => { e with mask := e.mask &&& ~~~x, arr := e.arr &&& ~~~x }
    let left := fun e : SEntry => if e.arr ≠ e.mask ∧ (cut e).arr = (cut e).mask then { cut e with pc := e.pc + 4 } else cut e
    let after := refill (setSlot { g with stack := (g.stack.map left).filter (fun e => decide (e.mask ≠ 0)) } side
      (if rest = 0 then Slot.free else { slotAt sl (sl.pc + 4) with exec := rest }))
    let gone := { after with a := Slot.free, b := Slot.free, stack := [] }
    (x = 0 → Becomes s .exit gid (setSlot g side (slotAt sl (sl.pc + 4))))
    ∧ (x ≠ 0 → after.a.live = true ∨ after.b.live = true ∨ after.stack ≠ [] → Becomes s .exit gid after)
    ∧ ∀ (k : Nat) (h : Group) (b : Block), x ≠ 0 → after.a.live = false → after.b.live = false → after.stack = [] →
      k ≠ gid → tget s.groups k = some h → h.blk = g.blk → h.wgid = g.wgid → h.st = .resident → rgbAt h = none →
      tget s.blocks g.blk = some b → b.joint = false →
      (g.out ≠ [] → Becomes s .exit gid { gone with st := .exiting })
      ∧ (g.out = [] → ∃ t, exec .exit s = .next t
        ∧ tget t.groups gid = some { gone with st := .exited, v := [], s := [], p := [], held := 0 }
        ∧ (∀ j, j ≠ gid → tget t.groups j = tget s.groups j)
        ∧ t = { s with groups := t.groups, blocks := t.blocks })

/-- R149, R154, R161: YIELD makes the group the youngest; XACQ of no more blocks than are held moves on and of more
waits; XREL gives back the blocks above n. -/
def Obligations.AgeAndBlocks : Prop :=
  ∀ (s : State) (gid side : Nat) (g : Group),
    let sl := slotOf g side
    let next := fun h : Group => setSlot h side (slotAt sl (sl.pc + 4))
    (Ready s gid side g [] [] [] → ∃ t, exec .yield s = .next t ∧ t = { s with groups := t.groups, uid := s.uid + 1 }
      ∧ tget t.groups gid = some (next { g with age := s.uid })
      ∧ ∀ k, k ≠ gid → tget t.groups k = tget s.groups k)
    ∧ ∀ (n : BitVec 2) (b : Block), converged g = true → ¬LitPending g side →
      (Ready s gid side g [] [] [] → tget s.blocks g.blk = some b → n.toNat ≤ (variantOf b).xblk →
        (n.toNat ≤ g.held → Becomes s (.xacq n) gid (next g))
        ∧ (g.held < n.toNat → Becomes s (.xacq n) gid
          (setSlot { g with xreq := some n.toNat } side { sl with wait := .xacq n.toNat })))
      ∧ (Ready s gid side g [] [] ((List.range (32 * (g.held - n.toNat))).map (fun k => (32 + 32 * n.toNat + k, 1))) →
        (g.held ≤ n.toNat → Becomes s (.xrel n) gid (next g))
        ∧ (n.toNat < g.held → ∃ g', Becomes s (.xrel n) gid g' ∧ g' = { next g with held := n.toNat, v := g'.v }
          ∧ ∀ r l, l < 32 → vreg g' r l = if r < 32 + 32 * n.toNat then vreg g r l else 0))

/-- R151, R163, R164: ITEMP of a count of 0 or to a free entry of the workgroup's queue answers 1, else 0; the one that gives items is a
release, and the group has nothing to perform. REFILL gives
the items of the queue to the active lanes in ascending order, and lanes for which none is left go to the target. -/
def Obligations.ItemQueue : Prop :=
  ∀ (s : State) (gid side : Nat) (g : Group) (b : Block), side ≤ 1 → tget s.blocks g.blk = some b → g.wgid < b.items.length →
    let sl := slotOf g side
    let q := b.items.getD g.wgid []
    let withItems := fun q : List (Word × Word) => { s with blocks := tset s.blocks g.blk { b with items := b.items.set g.wgid q } }
    (∀ (d a : BitVec 7) (i : BitVec 9), Ready s gid side g [] [d.toNat, a.toNat] [] → converged g = true →
      let n : DWord := if sl.lc ≠ 0 then sl.lat else i.setWidth 64
      (LitPending g side → i = 0 ∧ sl.lat.toNat < 2 ^ 32) →
      (n = 0 → SetsScalar s (.itemp d a i) gid side g d.toNat 1)
      ∧ (n ≠ 0 → b.itemq ≤ q.length → SetsScalar s (.itemp d a i) gid side g d.toNat 0)
      ∧ (n ≠ 0 → q.length < b.itemq → (∀ o ∈ g.out, o.stores = [] ∧ o.pend = 0) → ∃ t g', exec (.itemp d a i) s = .next t
        ∧ OnlyGroup (withItems (q ++ [((sreg g a.toNat).setWidth 32, n.setWidth 32)])) t gid g'
        ∧ MovedOn g g' side ∧ ScalarIs g g' d.toNat 1 ∧ g' = { g with s := g'.s, a := g'.a, b := g'.b }))
    ∧ ∀ (d : BitVec 7) (i : BitVec 16), Ready s gid side g [] [] [(d.toNat, 1)] → (LitPending g side → i = 0) →
      let tgt := sl.pc + 4 * immOf g side i
      let lanes := (List.range 32).filter (fun l => (activeOf g side).getLsbD l)
      let items := q.flatMap (fun r => (List.range r.2.toNat).map (fun k => r.1 + BitVec.ofNat 32 k))
      let got : Word := BitVec.ofNat 32 ((lanes.take items.length).foldl (fun m l => m + 2 ^ l) 0)
      let rest := activeOf g side &&& ~~~got
      (∀ r ∈ q, r.2 ≠ 0) → pcValid tgt = true → ((slotOf g (otherSide side)).live = true → g.stack.length < 64) →
      ∃ t g' q', exec (.refill d i) s = .next t ∧ OnlyGroup (withItems q') t gid g'
        ∧ q'.flatMap (fun r => (List.range r.2.toNat).map (fun k => r.1 + BitVec.ofNat 32 k)) = items.drop lanes.length
        ∧ (∀ r l, l < 32 → vreg g' r l = if r = d.toNat ∧ got.getLsbD l = true then
            items.getD (lanes.idxOf l) 0 else vreg g r l)
        ∧ slotOf g' side = { slotAt sl (if rest ≠ 0 ∧ rest = sl.exec then tgt else sl.pc + 4) with
            exec := if rest = sl.exec then sl.exec else sl.exec &&& ~~~rest }
        ∧ slotOf g' (otherSide side) = (if rest ≠ 0 ∧ rest ≠ sl.exec ∧ (slotOf g (otherSide side)).live = false then
            { Slot.free with live := true, pc := tgt, exec := rest, mr := sl.mr } else slotOf g (otherSide side))
        ∧ g'.stack = (if rest ≠ 0 ∧ rest ≠ sl.exec ∧ (slotOf g (otherSide side)).live = true then
            g.stack ++ [{ pc := tgt, mrs := sl.mr, mask := rest, arr := rest }] else g.stack)
        ∧ g' = { g with v := g'.v, a := g'.a, b := g'.b, stack := g'.stack }

/-- R162: RGB waits while another group of its workgroup has not reached an RGB; with none, it regroups at once, and a
lone group goes to the target with the lanes that branch and on with the others; each thread of a regrouping goes down
its lane column to the next group, those that branch first. The group has nothing to perform. -/
def Obligations.Regroup : Prop :=
  (∀ (s : State) (gid side : Nat) (g : Group) (sense : BitVec 1) (p : BitVec 3) (i : BitVec 16),
    Ready s gid side g [p.toNat] [] [(0, 32)] → side ≤ 1 → converged g = true → (LitPending g side → i = 0) →
    (slotOf g side).jp = true → (∀ o ∈ g.out, o.stores = [] ∧ o.pend = 0) → g.posted = 0 →
    let sl := slotOf g side
    let tgt := sl.pc + 4 * immOf g side i
    let t := sl.exec &&& (if sense = 0 then preg g p.toNat else ~~~preg g p.toNat)
    let n := sl.exec &&& ~~~t
    let slot := fun (pc : DWord) (m : Word) => { Slot.free with live := true, pc := pc, exec := m, mr := sl.mr }
    pcValid tgt = true →
    (∀ (k : Nat) (h : Group), k ≠ gid → tget s.groups k = some h → h.blk = g.blk → h.wgid = g.wgid → h.st = .resident →
      rgbAt h = none →
      Becomes s (.rgb sense p i) gid (setSlot g side { sl with wait := .rgb tgt sl.jpc t, jp := false }))
    ∧ ((s.groups.filter (fun x => decide (x.1 = gid))).length = 1 → sl.exec ≠ 0 → slotOf g (otherSide side) = Slot.free →
      (∀ k h, (k, h) ∈ s.groups → k ≠ gid → h.blk = g.blk → h.wgid = g.wgid → h.st = .exited) →
      ∃ g', Becomes s (.rgb sense p i) gid g'
        ∧ g'.a = (if t ≠ 0 then slot tgt t else slot (sl.pc + 4) n)
        ∧ g'.b = (if t ≠ 0 ∧ n ≠ 0 then slot (sl.pc + 4) n else Slot.free)
        ∧ g'.stack = (if t ≠ 0 ∧ n ≠ 0 then [{ pc := asPc sl.jpc, mrs := sl.mr, mask := sl.exec, arr := 0 }] else [])
        ∧ (∀ r l, l < 32 → vreg g' r l = vreg g r l) ∧ (∀ r, preg g' r = preg g r)
        ∧ g' = { g with a := g'.a, b := g'.b, stack := g'.stack, v := g'.v, p := g'.p }))
  ∧ ∀ (gs : List (Nat × Group × Word)) (k : Nat) (g : Group) (l : Nat), l < 32 →
    let threads := gs.filter (fun x => ((x.2.1.a.exec ||| x.2.1.b.exec)).getLsbD l)
    let column := threads.filter (fun x => x.2.2.getLsbD l) ++ threads.filter (fun x => !(x.2.2.getLsbD l))
    let out := rgbMember gs k g
    match column[k]? with
    | some x => (∀ r, r < 32 → vreg out.1 r l = vreg x.2.1 r l) ∧ (∀ r, r < 7 → (preg out.1 r).getLsbD l = (preg x.2.1 r).getLsbD l)
      ∧ out.2.1.getLsbD l = x.2.2.getLsbD l ∧ out.2.2.getLsbD l = !(x.2.2.getLsbD l)
    | none => (∀ r, vreg out.1 r l = vreg g r l) ∧ out.2.1.getLsbD l = false ∧ out.2.2.getLsbD l = false

/-- R137, R138, R140: VSW with no switch request goes on; CWAIT goes on once the group has no child left and else
waits; CLAUNCH makes a QUEUED child grid of the record it reads, one level deeper, and answers its GRIDID, which no live grid has. -/
def Obligations.JointsAndChildren : Prop :=
  ∀ (s : State) (gid side : Nat) (g : Group) (b : Block), tget s.blocks g.blk = some b →
    let sl := slotOf g side
    let next := fun h : Group => setSlot h side (slotAt sl (sl.pc + 4))
    (∀ j : BitVec 6, Ready s gid side g [] [] [] → converged g = true → ¬LitPending g side → b.joint = false →
      Becomes s (.vsw j) gid (next g))
    ∧ (Ready s gid side g [] [] [] → capOn s b.part capChild = true →
      (g.kids = 0 → Becomes s .cwait gid (next g))
      ∧ (g.kids ≠ 0 → Becomes s .cwait gid (setSlot g side { sl with wait := .cwait })))
    ∧ ∀ (d a : BitVec 7) (i : BitVec 9) (gr : Grid) (w : List DWord), Ready s gid side g [] [d.toNat, a.toNat] [] →
      capOn s b.part capChild = true → converged g = true → (LitPending g side → i = 0) →
      let addr := sreg g a.toNat + 128 * (if sl.lc ≠ 0 then sl.lat else i.setWidth 64)
      tget s.grids b.grid = some gr → gr.depth ≠ 10 → b.service = false → b.kids < 64 → addr.toNat % 128 = 0 → g.out = [] →
      g.posted = 0 → b.grid < s.uid → tget s.grids s.uid = none →
      readRecord s gid sl.exec { part := b.part, ctx := b.ctx, user := decide (g.hlev ≠ 2) } addr 16 = .words w →
      ∃ t g' id, exec (.claunch d a i) s = .next t ∧ tget t.groups gid = some g' ∧ MovedOn g g' side
        ∧ id ≠ 0 ∧ ScalarIs g g' d.toNat (id.setWidth 64)
        ∧ (s.grids.length < 2 ^ 32 - 1 → ∀ e ∈ s.grids, e.2.gridid ≠ id)
        ∧ g' = { g with s := g'.s, a := g'.a, b := g'.b, kids := g.kids + 1, recs := [] }
        ∧ (∀ k, k ≠ gid → tget t.groups k = tget s.groups k)
        ∧ tget t.grids s.uid = some {
            st := .queued, part := b.part, ctx := b.ctx, src := .child gid g.blk b.grid, addr := addr, lrec := w
            gridid := id, depth := gr.depth + 1, next := 0, blkdone := 0, live := 0, code := 0
            detail := 0, finfo := 0, later := none, kids := 0, passed := 0 }
        ∧ tget t.grids b.grid = some { gr with kids := gr.kids + 1 }
        ∧ tget t.blocks g.blk = some { b with kids := b.kids + 1 }
        ∧ t = { s with groups := t.groups, grids := t.grids, blocks := t.blocks, uid := s.uid + 1 }

/-- R43, R44, R98: GETS of each special register, and PUTS to OPST, the only one that can be written. CYCLE reads a
counter whose steps are free (log 4). -/
def Obligations.SpecialRegisters : Prop :=
  ∀ (s : State) (gid side : Nat) (g : Group) (b : Block) (gr : Grid) (cx : Ctx),
    tget s.blocks g.blk = some b → tget s.grids b.grid = some gr → tget s.ctxs (b.part * 1024 + b.ctx) = some cx →
    converged g = true → ¬LitPending g side →
    let sl := slotOf g side
    let q := b.items.getD g.wgid []
    let bit := fun (x : Bool) (k : Nat) => if x then 2 ^ k else 0
    let counts := fun (c : OCls) (k : Nat) => (g.out.filter (fun o => decide (o.cls = c))).length * 2 ^ k
    let holds : List (Nat × DWord) :=
      [(1, BitVec.ofNat 64 g.grpid), (2, BitVec.ofNat 64 g.wgid), (3, BitVec.ofNat 64 (variantOf b).groups),
       (4, BitVec.ofNat 64 b.bx), (5, BitVec.ofNat 64 b.by_), (6, BitVec.ofNat 64 b.bz), (7, gr.gridid.setWidth 64),
       (8, BitVec.ofNat 64 (b.vcores.getD g.wgid 0)), (9, BitVec.ofNat 64 b.ctx), (10, BitVec.ofNat 64 b.variant),
       (11, if b.joint then 1 else 0), (16, sl.mr.setWidth 64), (17, sl.exec.setWidth 64),
       (18, BitVec.ofNat 64 (bit g.a.live 0 + bit g.b.live 1 + bit (side ≠ 0) 2)), (19, BitVec.ofNat 64 g.stack.length),
       (20, BitVec.ofNat 64 (counts .ld 0 + counts .st 6 + counts .cp 12 + counts .op 18 + counts .nb 24)),
       (22, BitVec.ofNat 64 (q.length * 2 ^ 32 + min (q.foldl (fun a e => a + e.2.toNat) 0) 0xFFFFFFFF)),
       (23, g.opst.setWidth 64), (24, g.nbwin), (32, g.tcause), (33, g.tpc), (34, g.tmask), (35, g.taddr), (36, g.emuword),
       (37, g.emuop), (38, g.emud), (39, g.emua), (40, g.emub), (41, g.emuimm), (48, if g.hlev = 2 then 1 else 0)]
    (∀ d : BitVec 7, Ready s gid side g [] [d.toNat] [] →
      (∀ n x, (n, x) ∈ holds → SetsScalar s (.gets d (BitVec.ofNat 9 n)) gid side g d.toNat x)
      ∧ (g.hlev = 2 → SetsScalar s (.gets d 49) gid side g d.toNat cx.frame ∧ SetsScalar s (.gets d 50) gid side g d.toNat cx.park)
      ∧ ∃ t g' c, exec (.gets d 21) s = .next t ∧ OnlyGroup { s with cycles := mset s.cycles g.core c } t gid g'
        ∧ MovedOn g g' side ∧ ScalarIs g g' d.toNat c ∧ g' = { g with s := g'.s, a := g'.a, b := g'.b })
    ∧ (∀ d : BitVec 7, Ready s gid side g [] [] [(d.toNat, 1)] →
      SetsLanes s (.gets d 0) gid side g (activeOf g side) d.toNat 1 (fun l => l))
    ∧ ∀ a : BitVec 7, Ready s gid side g [] [a.toNat] [] →
      Becomes s (.puts a 23) gid (setSlot { g with opst := g.opst &&& ~~~((sreg g a.toNat).setWidth 2) } side (slotAt sl (sl.pc + 4)))

/-- R18 to R20, R24: CAPR reads the header of every record of the list, enabled or withheld in the view of the group's
partition, and zero beyond the list. -/
def Obligations.CapabilityList : Prop :=
  ∀ (s : State) (gid side : Nat) (g : Group) (d a : BitVec 7) (i : BitVec 9) (b : Block) (pt : Part),
    Ready s gid side g [] [d.toNat, a.toNat] [] → converged g = true → tget s.blocks g.blk = some b →
    tget s.parts b.part = some pt → pt.capen.getLsbD 0 = true → pt.capen.getLsbD 1 = true →
    let off := sreg g a.toNat + 8 * i.setWidth 64
    let records : List (Nat × Nat × Nat × Nat) :=
      [(0x0000, 0x0001, 3, 0x0030), (0x0030, 0x0002, 2, 0x0050), (0x0050, 0x0010, 1, 0x0060), (0x0060, 0x0011, 1, 0x0070),
       (0x0070, 0x0012, 1, 0x0080), (0x0080, 0x0013, 1, 0x0090), (0x0090, 0x0020, 1, 0x00A0), (0x00A0, 0x0021, 1, 0x00B0),
       (0x00B0, 0x0030, 1, 0x00C0), (0x00C0, 0x0031, 1, 0x00D0), (0x00D0, 0x0040, 1, 0x00E0), (0x00E0, 0x0041, 1, 0x00F0),
       (0x00F0, 0x0050, 1, 0x0100), (0x0100, 0x0060, 2, 0x0120), (0x0120, 0x0061, 1, 0x0130), (0x0130, 0x0070, 1, 0x0140),
       (0x0140, 0x0071, 1, 0x0150), (0x0150, 0x0072, 1, 0)]
    (∀ k r, records[k]? = some r → off.toNat = r.1 →
      SetsScalar s (.capr d a i) gid side g d.toNat
        (BitVec.ofNat 64 ((if pt.capen.getLsbD k then 2 ^ 48 else 2 ^ 49) + r.2.2.2 * 2 ^ 32 + r.2.2.1 * 2 ^ 24 + 2 ^ 16 + r.2.1)))
    ∧ (off.toNat = 0x40 → SetsScalar s (.capr d a i) gid side g d.toNat 0x0008200A0C040100)
    ∧ (off.toNat % 8 = 0 → 0x160 ≤ off.toNat → SetsScalar s (.capr d a i) gid side g d.toNat 0)

/-- R250, R251, R252, R253: entry into a handler from level 0, or from level 1 with a supervisor-level cause: the frame is
written, the trap registers hold the cause, the slots are those of a handler, and S[3] is the frame. A REMOTE or NBFAULT trap reports
what the record says. -/
def Obligations.TrapEntry : Prop :=
  ∀ (s u : State) (gid side : Nat) (g : Group) (b : Block) (cx : Ctx) (t : TrapI),
    side ≤ 1 → tget s.groups gid = some g → tget s.blocks g.blk = some b → tget s.ctxs (b.part * 1024 + b.ctx) = some cx →
    g.out = [] → (∀ id, (slotOf g (otherSide side)).wait ≠ .engine id) →
    let lv := if 16 ≤ t.cause then 2 else 1
    let handler := if lv = 1 then b.desc.emupc else cx.suph
    let entry := if lv = 1 then handler else asPc handler
    let h := setSlot g side { slotOf g side with wait := .none }
    (t.cause = 11 → ∀ r, g.ref = some r → t.tmask = r.mask ∧ t.taddr = r.addr ∧ t.info = BitVec.ofNat 64 r.cls) →
    (t.cause = 12 → t.tmask = BitVec.ofNat 32 (g.nbwin.toNat / 2 ^ 32) ∧ t.info = g.nbwin) →
    let frame := cx.frame + BitVec.ofNat 64 ((2 * g.pidx + (lv - 1)) * 2048)
    g.hlev.toNat < lv → g.hlev.toNat = 0 ∨ lv = 2 → handler ≠ 0 →
    devWrite s { part := b.part, ctx := b.ctx, user := false } frame (frameWords h side lv t (slotOf g side).pc) = .done u →
    ∃ g', takeTrap s gid side t = setGroup u gid g'
      ∧ g'.tcause = BitVec.ofNat 64 t.cause ∧ g'.tpc = (slotOf g side).pc ∧ g'.tmask = t.tmask.setWidth 64 ∧ g'.taddr = t.taddr
      ∧ (t.emu = none → g'.emuword = g.emuword ∧ g'.emuop = g.emuop ∧ g'.emud = g.emud ∧ g'.emua = g.emua
        ∧ g'.emub = g.emub ∧ g'.emuimm = g.emuimm)
      ∧ g'.a = { Slot.free with live := true, pc := entry, exec := t.hmask, mr := 7 } ∧ g'.b = Slot.free ∧ g'.stack = []
      ∧ g'.hlev.toNat = lv ∧ (∀ r, sreg g' r = if r = 3 then frame else sreg g r)
      ∧ g'.v = g.v ∧ g'.p = g.p ∧ g'.held = g.held ∧ g'.out = g.out ∧ g'.opst = g.opst ∧ g'.xreq = g.xreq
      ∧ (t.cause ≠ 11 → g'.ref = g.ref) ∧ (t.cause ≠ 12 → g'.nbwin = g.nbwin)

/-- R254, R255, R257: the words of a frame hold the header and the registers at their places, and the state read back
from them is the state that was written.. -/
def Obligations.TrapFrame : Prop :=
  ∀ (g : Group) (side lv : Nat) (t : TrapI) (pc : DWord), g.stack.length ≤ 64 → t.cause < 256 → lv ≤ 2 →
    (∀ e ∈ g.stack, pcValid e.pc = true) →
    let w := frameWords g side lv t pc
    let plain := fun sl : Slot => sl = Slot.free ∨ (sl.live = true ∧ sl.wait = .none ∧ sl.passed = 0)
    w.length ≤ 256
    ∧ w.getD 0 0 = BitVec.ofNat 64 (t.tmask.toNat * 2 ^ 32 + g.stack.length * 2 ^ 16 + (if side = 0 then 0 else 256) + t.cause)
    ∧ w.getD 1 0 = pc ∧ w.getD 2 0 = t.taddr ∧ w.getD 3 0 = t.info
    ∧ w.getD 4 0 = BitVec.ofNat 64 (4 * g.hlev.toNat + lv)
    ∧ (∀ k, k < 4 → w.getD (16 + k) 0 = sreg g k)
    ∧ (∀ r l, r < 4 → l < 16 → w.getD (32 + 16 * r + l) 0 = vreg g r (2 * l + 1) ++ vreg g r (2 * l))
    ∧ (plain g.a → resumeSlot g lv 0 (w.drop 8) = g.a) ∧ (plain g.b → resumeSlot g lv 1 (w.drop 12) = g.b)
    ∧ readStack (w.drop 128) g.stack.length = g.stack
    ∧ (∀ r, r < 7 → mget (readPreds (w.drop 20)) r = preg g r)
    ∧ (∀ r l v, r < 4 → l < 32 → mget (readVreg v r (w.drop (32 + 16 * r))) (32 * r + l) = vreg g r l)

/-- R46, R47: an instruction of a feature that the partition does not have enters EMU with reason 0 in the lanes of EXEC;
a supervisor-only instruction at user level traps PRIV; a scalar instruction with the slots diverged traps SCALARDIV. -/
def Obligations.DecodeTraps : Prop :=
  ∀ (s : State) (gid side : Nat) (g : Group), Issues s gid side g →
    let sl := slotOf g side
    let part := (reqOf s g).part
    let emu := fun (i : Instr) (op : Nat) (f : List DWord) => exec i s = .next (takeTrap s gid side
      { cause := 1, tmask := sl.exec, hmask := sl.exec, taddr := 0, info := (encode i).setWidth 64
        emu := some ([(encode i).setWidth 64, BitVec.ofNat 64 ((if sl.lc ≠ 0 then 2 ^ 15 else 0) + op)] ++ f.take 3
          ++ [if sl.lc ≠ 0 then sl.lat else f.getD 3 0]) })
    let traps := fun (i : Instr) (c : Nat) => exec i s = .next (takeTrap s gid side
      { cause := c, tmask := sl.exec, hmask := sl.exec, taddr := 0, info := 0, emu := none })
    (capOn s part capVariants = false → ∀ j : BitVec 6, emu (.vsw j) 23 [0, 0, j.setWidth 64, 0])
    ∧ (capOn s part capA96 = false → ∀ (h : BitVec 2) (d a b : BitVec 7),
      emu (.aadd h d a b) 219 [d.setWidth 64, a.setWidth 64, b.setWidth 64, h.setWidth 64])
    ∧ (g.hlev ≠ 2 →
      (∀ k, traps (.sret k) 19) ∧ (∀ d a p r l, traps (.pmap d a p r l) 19) ∧ (∀ d a r l, traps (.punmap d a r l) 19)
      ∧ (∀ a l z, traps (.tlbi a l z) 19) ∧ (∀ d a r p e z, traps (.poolget d a r p e z) 19)
      ∧ (∀ d, traps (.gets d 49) 19 ∧ traps (.gets d 50) 19) ∧ (∀ a, traps (.puts a 49) 19 ∧ traps (.puts a 50) 19)
      ∧ (capOn s part capNbAssoc = true → ∀ d a, traps (.nbld d a) 19)
      ∧ (capOn s part capSealed = true → (∀ d b, traps (.sealst d b) 19 ∧ traps (.sealld d b) 19)
        ∧ ∀ d a, traps (.sealfin d a) 19 ∧ traps (.sealchk d a) 19))
    ∧ (converged g = false → ∀ d a b : BitVec 7, d.toNat ≤ 24 → a.toNat ≤ 24 → b.toNat ≤ 24 → sl.lc = 0 → traps (.sadd d a b) 2)

/-- R256, R257: TRAPRET from a user handler and SRET from a supervisor handler give the group the state of its frame, read
at its level's place; with skip the trapping word counts as executed. -/
def Obligations.TrapReturns : Prop :=
  ∀ (s : State) (gid side : Nat) (g : Group) (b : Block) (cx : Ctx) (w : List DWord) (k : BitVec 1),
    Ready s gid side g [] [] [] → tget s.blocks g.blk = some b → tget s.ctxs (b.part * 1024 + b.ctx) = some cx →
    converged g = true → g.out = [] → g.hlev ≠ 0 →
    let lv := if g.hlev = 1 then 1 else 2
    let tslot := if lv = 1 then g.tslot1 else g.tslot2
    let depth := (w.getD 0 0).toNat / 2 ^ 16 % 256
    let back := { g with
      a := resumeSlot g lv 0 (w.drop 8), b := resumeSlot g lv 1 (w.drop 12)
      s := (List.range 4).foldl (fun m i => mset m i (w.getD (16 + i) 0)) g.s
      p := readPreds (w.drop 20), v := (List.range 4).foldl (fun v r => readVreg v r (w.drop (32 + 16 * r))) g.v
      stack := readStack (w.drop 128) depth, susp := g.susp.filter (fun x => decide (x.1 ≠ lv))
      hlev := if lv = 1 then 0 else g.plev2 }
    let skipped := if k = 1 ∧ (slotOf back tslot).live = true then
        setSlot back tslot { slotOf back tslot with pc := (slotOf back tslot).pc + 4, lc := 0, wait := .none } else back
    devRead s { part := b.part, ctx := b.ctx, user := false } (cx.frame + BitVec.ofNat 64 ((2 * g.pidx + (lv - 1)) * 2048)) 256 = .done w →
    depth ≤ 64 → restoreValid back = true →
    (g.hlev = 1 → Becomes s (.trapret k) gid (refill skipped)) ∧ (g.hlev = 2 → Becomes s (.sret k) gid (refill skipped))

/-- R259, R265, R266: BRK takes the trap of cause 13 in the active lanes; SYSC posts a request of its lanes and parks the group with REASON 2 and the request's number; with no
active lane either only moves on. The group has nothing outstanding or posted, and its park area can be written. -/
def Obligations.BreakAndServiceCall : Prop :=
  ∀ (s : State) (gid side : Nat) (g : Group) (i : BitVec 23), Ready s gid side g [] [] [] →
    let sl := slotOf g side
    let x := activeOf g side
    encode (.brk i) = 0x09800000 ||| i.setWidth 32
    ∧ (x = 0 → Becomes s (.brk i) gid (setSlot g side (slotAt sl (sl.pc + 4))))
    ∧ (x ≠ 0 → exec (.brk i) s = .next (takeTrap s gid side
      { cause := 13, tmask := x, hmask := x, taddr := 0, info := i.setWidth 64, emu := none }))
    ∧ (i.toNat < 0x400000 → Ready s gid side g [] [] ((List.range 16).map (fun r => (r, 1))) → x = 0 →
      Becomes s (.sysc i) gid (setSlot g side (slotAt sl (sl.pc + 4))))
    ∧ (i.toNat < 0x400000 → Ready s gid side g [] [] ((List.range 16).map (fun r => (r, 1))) → ∀ (u v : State) (q : DWord) (b : Block) (cx : Ctx), x ≠ 0 → g.out = [] →
      g.posted = 0 → parkReady s gid = .done () → (∀ id, (slotOf g (otherSide side)).wait ≠ .engine id) →
      let args := fun l => (List.range 8).map (fun k => vreg g (2 * k + 1) l ++ vreg g (2 * k) l)
      let replyTo := (List.range 32).flatMap (fun l => [(vreg g 13 l).toNat, (vreg g 14 l).toNat + 2 ^ 32 * (vreg g 15 l).toNat])
      postRequest s gid x i.toNat sl.pc args replyTo = .posted u q → tget u.groups gid = some g →
      tget u.blocks g.blk = some b → tget u.ctxs (b.part * 1024 + b.ctx) = some cx →
      let h := setSlot g side (slotAt sl (sl.pc + 4))
      let park := cx.park + BitVec.ofNat 64 (g.pidx * 18432)
      devWrite2 (setGroup u gid h) { part := b.part, ctx := b.ctx, user := false } park (parkHead h 2 q) (park + 0x800) (parkRegs h) = .done v →
      exec (.sysc i) s = .next (setGroup v gid { h with
        st := .parked, reason := 2, seq := q, susp := keepWaits h 0, ref := none, nbwin := 0, recs := [], a := Slot.free, b := Slot.free, v := [], s := [], p := []
        stack := [] }))


/-- R41, R172, R174, R176 to R178: a load whose active lanes' addresses pass the checks is counted by ld and its slot goes on, whatever
memory or agent its lanes name; with no active lane it only moves on. Where every lane names memory that the core reaches, its
registers are owed the bytes of memory, zero-extended. The group performs no earlier store and awaits no answer. -/
def Obligations.Loads : Prop :=
  ∀ (s : State) (gid side : Nat) (g : Group) (sm : BitVec 4), sm.toNat ≤ 6 →
    (∀ o ∈ g.out, o.stores = [] ∧ o.pend = 0 ∧ o.uid ≠ s.uid) → (g.out.filter (fun o => decide (o.cls = .ld))).length < 63 →
    let sl := slotOf g side
    let home := fun t : Target => elsewhere t = false
    let issued := fun (i : Instr) (regs : List Nat) (sent : Out → Prop) => ∃ t g' o, exec i s = .next t
      ∧ OnlyGroup { s with uid := s.uid + 1, co := t.co } t gid g'
      ∧ MovedOn g g' side ∧ g'.out = g.out ++ [o] ∧ o.uid = s.uid ∧ o.cls = .ld ∧ o.sem = sm ∧ o.regs = regs ∧ o.stores = [] ∧ o.pend = 0 ∧ sent o
      ∧ g' = { g with out := g'.out, a := g'.a, b := g'.b }
    let completes := fun (i : Instr) (regs : List Nat) => ∃ t g' o, exec i s = .next t ∧ tget t.groups gid = some g' ∧ MovedOn g g' side
      ∧ g'.out = g.out ++ [o] ∧ o.uid = s.uid ∧ o.cls = .ld ∧ o.sem = sm ∧ o.regs = regs ∧ o.stores = []
      ∧ g' = { g with out := g'.out, ref := g'.ref, opst := g'.opst, a := g'.a, b := g'.b } ∧ (∀ k, k ≠ gid → tget t.groups k = tget s.groups k)
      ∧ t = { s with groups := t.groups, uid := t.uid, co := t.co, reqs := t.reqs, sent := t.sent, ops := t.ops, heldAcc := t.heldAcc }
    let passes := fun (l n : Nat) (va : DWord) (t : Target) => (∃ e, checkAcc s (reqOf s g) .load va n va.toNat n = .ok t e) ∧ poisonedT s t n = false
      ∧ ∀ c off, t = .window c off → (∃ key p a, winOwner s c off = some (key, p, a) ∧ a.input = false ∧ p.st ≠ .unbinding
          ∧ readOk key p (a.entry / p.s) (whoOf s gid g 0) = true)
        ∧ (c = g.core → ∃ x z, laneLoad s { lane := l, addr := va, tgt := t, size := n, data := 0 } (whoOf s gid g 0) = .value x z)
    (∀ (d : BitVec 7) (b : BitVec 5) (o : BitVec 7) (i : Instr) (n : Nat), (LitPending g side → o = 0) →
      (i, n) ∈ [(.vld8 sm d b o, 1), (.vld16 sm d b o, 2), (.vld32 sm d b o, 4), (.vld64 sm d b o, 8), (.vld128 sm d b o, 16),
        (Instr.vldc sm d b o, 4)] →
      Ready s gid side g [] [b.toNat] [(d.toNat, (n + 3) / 4), (o.toNat, 1)] →
      let regs := (List.range ((n + 3) / 4)).map (· + d.toNat)
      (activeOf g side = 0 → Becomes s i gid (setSlot g side (slotAt sl (sl.pc + 4))))
      ∧ ∀ at_ : Nat → Target, activeOf g side ≠ 0 →
        let addr := fun l => sreg g b.toNat + (if sl.lc = 0 then (vreg g o.toNat l).signExtend 64 else sl.lat)
        (∀ l, (activeOf g side).getLsbD l = true → passes l n (addr l) (at_ l)) →
        completes i regs
        ∧ ((∀ l, (activeOf g side).getLsbD l = true → home (at_ l)) →
          issued i regs (fun x => LanesAre g (applyLoad g x) (activeOf g side) d.toNat ((n + 3) / 4) (fun l => readT s (at_ l) n)
            ∧ applyLoad g x = { g with v := (applyLoad g x).v })))
    ∧ ∀ (d : BitVec 7) (b : BitVec 5) (at_ : Target) (l : Nat), Ready s gid side g [] [d.toNat, b.toNat] [] → converged g = true →
      l < 32 → sl.exec.getLsbD l = true → (∀ k, k < l → sl.exec.getLsbD k = false) →
      let addr := sreg g b.toNat + (if sl.lc = 0 then 0 else sl.lat)
      passes l 8 addr at_ →
      completes (.sld sm d b) [200 + d.toNat]
      ∧ (home at_ → issued (.sld sm d b) [200 + d.toNat] (fun x => ScalarIs g (applyLoad g x) d.toNat (BitVec.ofNat 64 (readT s at_ 8))
        ∧ applyLoad g x = { g with s := (applyLoad g x).s }))

/-- R172, R174, R176, R177: a store whose active lanes' addresses pass the checks, at homes or beyond but in no operator
window of its own core, is counted by st and holds one write per active lane, of the low bytes of its registers; it changes no memory
before it is performed. -/
def Obligations.Stores : Prop :=
  ∀ (s : State) (gid side : Nat) (g : Group) (sm : BitVec 4), sm.toNat = 0 ∨ (9 ≤ sm.toNat ∧ sm.toNat ≤ 14) →
    (∀ o ∈ g.out, o.pend = 0) → (g.out.filter (fun o => decide (o.cls = .st))).length < 63 →
    let sl := slotOf g side
    let plain := fun (t : Target) (lanes : Nat) => (∀ k j, t ≠ .nbctl k j) ∧ ∀ c off, t = .window c off → c ≠ g.core
      ∧ (∃ key p a, winOwner s c off = some (key, p, a) ∧ a.input = true) ∧ (g.out.filter (fun o => decide (o.cls = .op))).length + lanes ≤ 63
    let issued := fun (i : Instr) (lanes : Option Word) (writes : List StLane) => ∃ t g', exec i s = .next t
      ∧ OnlyGroup { s with uid := s.uid + 1 } t gid g' ∧ MovedOn g g' side
      ∧ g'.out = g.out ++ [{
        uid := s.uid, cls := .st, sem := sm, regs := [], vw := [], sw := none, stores := writes, zero := false, pend := 0
        fin := false, sealed := false, lanes := lanes, rmw := false }]
      ∧ g' = { g with out := g'.out, a := g'.a, b := g'.b }
    (∀ (d : BitVec 7) (b : BitVec 5) (o : BitVec 7) (i : Instr) (n : Nat), (LitPending g side → o = 0) →
      (i, n) ∈ [(.vst8 sm d b o, 1), (.vst16 sm d b o, 2), (.vst32 sm d b o, 4), (.vst64 sm d b o, 8),
        (Instr.vst128 sm d b o, 16)] →
      Ready s gid side g [] [b.toNat] [(d.toNat, (n + 3) / 4), (o.toNat, 1)] →
      (activeOf g side = 0 → Becomes s i gid (setSlot g side (slotAt sl (sl.pc + 4))))
      ∧ ∀ at_ : Nat → Target, activeOf g side ≠ 0 →
        let addr := fun l => sreg g b.toNat + (if sl.lc = 0 then (vreg g o.toNat l).signExtend 64 else sl.lat)
        let active := (List.range 32).filter (fun l => (activeOf g side).getLsbD l)
        (∀ l, (activeOf g side).getLsbD l = true → plain (at_ l) active.length
          ∧ ∃ e, checkAcc s (reqOf s g) .store (addr l) n (addr l).toNat n = .ok (at_ l) e) →
        issued i none (active.map (fun l =>
          { lane := l, addr := addr l, tgt := at_ l, size := n, data := BitVec.ofNat 128 (vregs g d.toNat l ((n + 3) / 4) % 2 ^ (8 * n)) })))
    ∧ ∀ (d : BitVec 7) (b : BitVec 5) (at_ : Target) (l : Nat), Ready s gid side g [] [d.toNat, b.toNat] [] → converged g = true →
      l < 32 → sl.exec.getLsbD l = true → (∀ k, k < l → sl.exec.getLsbD k = false) →
      let addr := sreg g b.toNat + (if sl.lc = 0 then 0 else sl.lat)
      plain at_ 1 → (∃ e, checkAcc s (reqOf s g) .store addr 8 addr.toNat 8 = .ok at_ e) →
      issued (.sst sm d b) (some sl.exec) [{ lane := l, addr := addr, tgt := at_, size := 8, data := (sreg g d.toNat).setWidth 128 }]

/-- R179: PFT changes nothing; FLUSH and INVL of lines that pass the checks are counted by st and change no byte of
memory, only copies, and record the lines that the host refuses; ZERO of lines that pass them writes each line of its lanes once, and
leaves those of other nodes alone. -/
def Obligations.LineOperations : Prop :=
  ∀ (s : State) (gid side : Nat) (g : Group) (b : BitVec 5) (o : BitVec 7), (LitPending g side → o = 0) →
    Ready s gid side g [] [b.toNat] [(o.toNat, 1)] →
    (∀ x ∈ g.out, x.pend = 0) → (g.out.filter (fun x => decide (x.cls = .st))).length < 63 →
    let sl := slotOf g side
    let next := setSlot g side (slotAt sl (sl.pc + 4))
    let active := activeOf g side
    let addr := fun l => sreg g b.toNat + (if sl.lc = 0 then (vreg g o.toNat l).signExtend 64 else sl.lat)
    let line := fun va : DWord => lineOf (route s (reqOf s g).part va) va
    Becomes s (.pft b o) gid next
    ∧ (active = 0 → Becomes s (.flush b o) gid next ∧ Becomes s (.invl b o) gid next ∧ Becomes s (.zero b o) gid next)
    ∧ (∀ at_ : Nat → Target, active ≠ 0 → (∀ l, active.getLsbD l = true → inAperture s (addr l) = false →
        ∃ e, checkAcc s (reqOf s g) .line (addr l) 1 (line (addr l)).1 (line (addr l)).2 = .ok (at_ l) e) →
      ∀ i, i = Instr.flush b o ∨ i = Instr.invl b o → ∃ t g', exec i s = .next t ∧ tget t.groups gid = some g' ∧ MovedOn g g' side
        ∧ g'.out = g.out ++ [{
          uid := s.uid, cls := .st, sem := 0, regs := [], vw := [], sw := none, stores := [], zero := false, pend := 0
          fin := false, sealed := false, lanes := none, rmw := false }]
        ∧ g' = { g with out := g'.out, ref := g'.ref, a := g'.a, b := g'.b } ∧ (∀ k, k ≠ gid → tget t.groups k = tget s.groups k)
        ∧ ((∀ l, active.getLsbD l = true → inAperture s (addr l) = false → ∀ a, at_ l = .host a →
            hostServes s (reqOf s g).part (reqOf s g).ctx a = true) → g'.ref = g.ref)
        ∧ (∀ l a, active.getLsbD l = true → inAperture s (addr l) = false → at_ l = .host a →
            hostServes s (reqOf s g).part (reqOf s g).ctx a = false → ∃ r, g'.ref = some r ∧ r.mask.getLsbD l = true)
        ∧ t = { s with groups := t.groups, uid := s.uid + 1, co := t.co })
    ∧ ∀ at_ : Nat → Target, active ≠ 0 → (∀ l, active.getLsbD l = true →
        (∃ e, checkAcc s (reqOf s g) .store (addr l) 1 (line (addr l)).1 (line (addr l)).2 = .ok (at_ l) e)
          ∧ (∀ c p, at_ l ≠ .window c p) ∧ (∀ p k, at_ l ≠ .notify p k) ∧ ∀ k j, at_ l ≠ .nbctl k j) →
      ∃ t g' x, exec (.zero b o) s = .next t ∧ OnlyGroup { s with uid := s.uid + 1 } t gid g' ∧ MovedOn g g' side
        ∧ g'.out = g.out ++ [x] ∧ x.uid = s.uid ∧ x.cls = .st ∧ x.zero = true ∧ x.pend = 0
        ∧ g' = { g with out := g'.out, a := g'.a, b := g'.b }
        ∧ let whole := fun t : Target => match t with
            | .hbm d p => some (Target.hbm d (p / 128 * 128), 128)
            | .hdm d p => some (.hdm d (p / 128 * 128), 128)
            | .spad c p => some (.spad c (p / 64 * 64), 64)
            | .host p => some (.host (p / 128 * 128), 128)
            | _ => none
          (∀ w, w ∈ x.stores → ∃ l, active.getLsbD l = true ∧ whole (at_ l) = some (w.tgt, w.size))
          ∧ (∀ l t n, active.getLsbD l = true → whole (at_ l) = some (t, n) → ∃ w ∈ x.stores, w.tgt = t ∧ w.size = n)
          ∧ (x.stores.map (·.tgt)).Nodup

/-- R42, R173, R180, R181: WAIT goes on once every counter is at or below its limit, FENCE once ld and st are 0 and, for a
release at dev or wider, every posted command of the group has ended; a full refusal record or a near-bank fault that the
instruction tests traps instead; before that the slot waits. -/
def Obligations.WaitAndFence : Prop :=
  ∀ (s : State) (gid side : Nat) (g : Group), Ready s gid side g [] [] [] →
    let sl := slotOf g side
    let count := fun c : OCls => (g.out.filter (fun o => decide (o.cls = c))).length
    let next := setSlot g side (slotAt sl (sl.pc + 4))
    let waits := fun w : Wait => setSlot g side { sl with wait := w }
    let refused := fun (i : Instr) (r : Refused) => exec i s = .next (takeTrap s gid side
      { cause := 11, tmask := r.mask, hmask := sl.exec, taddr := r.addr, info := BitVec.ofNat 64 r.cls, emu := none })
    let faulted := fun (i : Instr) => exec i s = .next (takeTrap s gid side
      { cause := 12, tmask := BitVec.ofNat 32 (g.nbwin.toNat / 2 ^ 32), hmask := sl.exec, taddr := 0, info := g.nbwin, emu := none })
    (∀ n p c st l : BitVec 4,
      let under := fun (k : BitVec 4) (cls : OCls) => k = 15 ∨ count cls ≤ k.toNat
      let met := under l .ld ∧ under st .st ∧ under c .cp ∧ under p .op ∧ under n .nb
      let tests := fun r : Refused => (r.cls = 0 ∧ l ≠ 15) ∨ (r.cls = 1 ∧ st ≠ 15) ∨ (r.cls = 2 ∧ c ≠ 15)
      (met → (∀ r, g.ref = some r → r.cls ≤ 2 ∧ ¬tests r) → (n = 15 ∨ g.nbwin.getLsbD 12 = false) → Becomes s (.wait n p c st l) gid next)
      ∧ (met → ∀ r, g.ref = some r → tests r → refused (.wait n p c st l) r)
      ∧ (met → (∀ r, g.ref = some r → r.cls ≤ 2 ∧ ¬tests r) → n ≠ 15 → g.nbwin.getLsbD 12 = true → faulted (.wait n p c st l))
      ∧ (¬met → Becomes s (.wait n p c st l) gid (waits (.counters (0#3 ++ n ++ p ++ c ++ st ++ l)))))
    ∧ ∀ sm : BitVec 4, (1 ≤ sm.toNat ∧ sm.toNat ≤ 6) ∨ (9 ≤ sm.toNat ∧ sm.toNat ≤ 14) →
      let met := count .ld = 0 ∧ count .st = 0 ∧ (sm.toNat < 12 ∨ g.posted = 0)
      (met → g.ref = none → g.nbwin.getLsbD 12 = false → Becomes s (.fence sm) gid next)
      ∧ (met → ∀ r, g.ref = some r → refused (.fence sm) r)
      ∧ (met → g.ref = none → g.nbwin.getLsbD 12 = true → faulted (.fence sm))
      ∧ (¬met → Becomes s (.fence sm) gid (waits (.fence sm)))

/-- R172, R284 to R289: the atomics. Each active lane, in ascending order, replaces the n bytes at its address by the
operation's result; an AMO and CAS are counted by ld and return the old values, a RED is counted by st and returns none.
The addresses pass the checks at homes that the core reaches; earlier accesses of the group are performed, and for a release at dev or wider its posted commands have ended. -/
def Obligations.Atomics : Prop :=
  ∀ (s : State) (gid side : Nat) (g : Group) (sm : BitVec 4) (d : BitVec 7) (b : BitVec 5) (o : BitVec 7) (et : ET) (at_ : Nat → Target),
    typeOf g side = some et → (∀ x ∈ g.out, x.stores = [] ∧ x.pend = 0) → (LitPending g side → o = 0) → activeOf g side ≠ 0 →
    (sm.toNat < 12 ∨ g.posted = 0) →
    let sl := slotOf g side
    let k := etRegs et
    let n := 4 * k
    let addr := fun l => sreg g b.toNat + (if sl.lc = 0 then (vreg g o.toNat l).signExtend 64 else sl.lat)
    let lanes := (List.range 32).filter (fun l => (activeOf g side).getLsbD l)
    let signed := fun x : Nat => signedOf (8 * n) x
    let small := fun lt : Nat → Nat → Bool => fun old x => if lt x old then x else old
    let checked := fun kind : AKind => ∀ l, (activeOf g side).getLsbD l = true → elsewhere (at_ l) = false ∧ (∀ c j, at_ l ≠ .nbctl c j)
      ∧ poisonedT s (at_ l) n = false ∧ ∃ e, checkAcc s (reqOf s g) kind (addr l) n (addr l).toNat n = .ok (at_ l) e
    let done := fun (i : Instr) (f : Nat → Nat → Nat) (cls : OCls) (x : Out) =>
      let q := rmwLanes n at_ f { s with uid := s.uid + 1 } lanes
      ∃ t g', exec i s = .next t ∧ OnlyGroup q.1 t gid g' ∧ MovedOn g g' side ∧ g'.out = g.out ++ [x] ∧ x.uid = s.uid
        ∧ x.cls = cls ∧ x.sem = sm ∧ x.stores = [] ∧ x.pend = 0 ∧ g' = { g with out := g'.out, a := g'.a, b := g'.b }
        ∧ (if cls = .ld then LanesAre g (applyLoad g x) (activeOf g side) d.toNat k (fun l => (q.2.lookup l).getD 0)
            ∧ applyLoad g x = { g with v := (applyLoad g x).v } else x.vw = [] ∧ x.regs = [])
    let arg := fun l => vregs g d.toNat l k
    let plus := fun old x => (old + x) % 2 ^ (8 * n)
    let fadd := fun old x => if et = .f16x2 then rmwFAdds .f16 2 old x else if et = .bf16x2 then rmwFAdds .bf16 2 old x else rmwFAdds .f32 1 old x
    let cells := fun old x => cellBits (a96Merge (cellOf old) (cellOf x))
    ((g.out.filter (fun x => decide (x.cls = .ld))).length < 63 → ((1 ≤ sm.toNat ∧ sm.toNat ≤ 6) ∨ sm.toNat = 0 ∨ (9 ≤ sm.toNat ∧ sm.toNat ≤ 14)) →
      checked .amo →
      (∀ (i : Instr) (ets : List ET) (f : Nat → Nat → Nat),
        (i, ets, f) ∈ [
          (Instr.amoadd sm d b o, [.i32, .ui32, .i64], plus),
          (.amomin sm d b o, [.i32, .ui32, .i64], small (fun x y => decide (signed x < signed y))),
          (.amomax sm d b o, [.i32, .ui32, .i64], small (fun x y => decide (signed y < signed x))),
          (.amominu sm d b o, [.i32, .ui32, .i64], small (fun x y => decide (x < y))),
          (.amomaxu sm d b o, [.i32, .ui32, .i64], small (fun x y => decide (y < x))),
          (.amoand sm d b o, [.i32, .ui32, .i64], Nat.land), (.amoor sm d b o, [.i32, .ui32, .i64], Nat.lor),
          (.amoxor sm d b o, [.i32, .ui32, .i64], Nat.xor), (.amoswp sm d b o, [.i32, .ui32, .i64], fun _ x => x),
          (.amofadd sm d b o, [.f32, .f16x2, .bf16x2], fadd), (.amoaadd sm d b o, [.a96], cells)] →
        et ∈ ets → (et = .a96 → capOn s (reqOf s g).part capA96Atomics = true) →
        Ready s gid side g [] [b.toNat] [(d.toNat, k), (o.toNat, 1)] →
        ∃ x, done i (fun l old => f old (arg l)) .ld x)
      ∧ (et ∈ [ET.i32, .ui32, .i64] → Ready s gid side g [] [b.toNat] [(d.toNat, 2 * k), (o.toNat, 1)] →
        ∃ x, done (.cas sm d b o) (fun l old => if old = arg l then vregs g (d.toNat + k) l k else old) .ld x))
    ∧ ((g.out.filter (fun x => decide (x.cls = .st))).length < 63 → (sm.toNat = 0 ∨ (9 ≤ sm.toNat ∧ sm.toNat ≤ 14)) → checked .store →
      ∀ (i : Instr) (ets : List ET) (f : Nat → Nat → Nat),
        (i, ets, f) ∈ [
          (Instr.redadd sm d b o, [.i32, .ui32, .i64], plus),
          (.redmin sm d b o, [.i32, .ui32, .i64],
            small (fun x y => if et = .ui32 then decide (x < y) else decide (signed x < signed y))),
          (.redmax sm d b o, [.i32, .ui32, .i64],
            small (fun x y => if et = .ui32 then decide (y < x) else decide (signed y < signed x))),
          (.redfadd sm d b o, [.f32, .f16x2, .bf16x2], fadd), (.redaadd sm d b o, [.a96], cells)] →
        et ∈ ets → (et = .a96 → capOn s (reqOf s g).part capA96Atomics = true) →
        Ready s gid side g [] [b.toNat] [(d.toNat, k), (o.toNat, 1)] →
        ∃ x, done i (fun l old => f old (arg l)) .st x)

/-- R270 to R272, R274: an arrival joins the phase of its barrier and completes it once every group that has not exited,
or as many as its first arrival expects, has arrived; BARW waits while its own group has arrived, BARS arrives and waits,
and BARA only waits to arrive again. -/
def Obligations.Barriers : Prop :=
  ∀ (s : State) (gid side : Nat) (g : Group) (b : Block) (k : BitVec 4), converged g = true → ¬LitPending g side →
    tget s.blocks g.blk = some b → k.toNat < b.desc.barriers → k.toNat < b.bars.length →
    (∀ x ∈ g.out, x.stores = [] ∧ x.pend = 0) → (slotOf g side).wait ≠ .resume →
    let sl := slotOf g side
    let bar := b.bars.getD k.toNat { phase := 0, arrived := [], expect := none, gathering := false }
    let next := setSlot g side (slotAt sl (sl.pc + 4))
    let waits := fun w : Wait => setSlot g side { sl with wait := w }
    let live := (s.groups.filter (fun x => decide (x.2.blk = g.blk) && decide (x.2.st ≠ .exited))).length
    let total := (variantOf b).wgs * (variantOf b).groups
    (Ready s gid side g [] [] [] →
      (g.idx ∈ bar.arrived → Becomes s (.barw k) gid (waits (.barWait k.toNat bar.phase)))
      ∧ (g.idx ∉ bar.arrived → Becomes s (.barw k) gid next))
    ∧ ∀ d : BitVec 7, Ready s gid side g [] [d.toNat] [] →
      let c := (sreg g d.toNat).toNat % 65536
      let arrived := if bar.gathering then bar.arrived ++ [g.idx] else [g.idx]
      let expect := if bar.gathering then bar.expect else if c = 0 then none else some (min c total)
      let met := match expect with
        | some e => e ≤ arrived.length
        | none => live ≤ arrived.length
      let become := fun (i : Instr) (x : Bar) (g' : Group) => ∃ t, exec i s = .next t
        ∧ tget t.groups gid = some g' ∧ (∀ j, j ≠ gid → tget t.groups j = tget s.groups j)
        ∧ tget t.blocks g.blk = some { b with bars := b.bars.set k.toNat x } ∧ t = { s with groups := t.groups, blocks := t.blocks }
      (g.idx ∈ bar.arrived → Becomes s (.bara d k) gid (waits (.barArrive k.toNat bar.phase c false))
        ∧ Becomes s (.bars d k) gid (waits (.barArrive k.toNat bar.phase c true)))
      ∧ (g.idx ∉ bar.arrived → met →
        let x : Bar := { phase := bar.phase + 1, arrived := [], expect := none, gathering := false }
        become (.bara d k) x next ∧ become (.bars d k) x next)
      ∧ (g.idx ∉ bar.arrived → ¬met →
        let x : Bar := { phase := bar.phase, arrived := arrived, expect := expect, gathering := true }
        become (.bara d k) x next ∧ become (.bars d k) x (waits (.barWait k.toNat bar.phase)))

/-- R275, R277, R279, R280: WATCH of a word that passes the checks takes the value at once if its comparison holds; else it
registers a monitor where one may watch the word and is free, or waits to read it again. -/
def Obligations.Watch : Prop :=
  ∀ (s : State) (gid side : Nat) (g : Group) (b : Block) (d a : BitVec 7) (q : BitVec 3) (z : BitVec 1) (c : BitVec 3) (t : Target) (pte : DWord),
    Ready s gid side g [] [d.toNat, a.toNat] [] → converged g = true → ¬LitPending g side → c.toNat < 6 → q ≠ 7 →
    tget s.blocks g.blk = some b → (∀ x ∈ g.out, x.stores = [] ∧ x.pend = 0) →
    let sl := slotOf g side
    let va := sreg g a.toNat
    let n := if z = 1 then 8 else 4
    let v := (sreg g d.toNat).toNat % 2 ^ (8 * n)
    let x := readT s t n
    let i := Instr.watch d a q z c
    let holds := fun old want : Nat => match c.toNat with
      | 0 => old = want
      | 1 => old ≠ want
      | 2 => want ≤ old
      | 3 => old < want
      | 4 => signedOf (8 * n) want ≤ signedOf (8 * n) old
      | _ => signedOf (8 * n) old < signedOf (8 * n) want
    checkAcc { s with locks := [], ops := [] } (reqOf s g) .load va n va.toNat n = .ok t pte → poisonedT s t n = false →
    elsewhere t = false → (∀ j m, t ≠ .nbctl j m) →
    (holds x v → ∃ u, exec i s = .next u ∧ ∃ g', OnlyGroup { s with co := u.co } u gid g' ∧ MovedOn g g' side ∧ ScalarIs g g' d.toNat (BitVec.ofNat 64 x)
      ∧ g' = { g with s := g'.s, a := g'.a, b := g'.b })
    ∧ (¬holds x v →
      let may := ((∃ die p, t = .hbm die p) ∧ pteBias pte = false) ∨ ∃ p j, t = .notify p j
      let free := monDie s b.part t ∈ b.mdies ∧ (b.mons.filter (fun m => decide (m.2.die = monDie s b.part t))).length < b.monitors
      let wait := fun w : Wait => setSlot g side { sl with wait := w }
      (may → free → ∃ u, exec i s = .next u ∧ tget u.groups gid = some (wait (.watchMon d.toNat s.uid))
        ∧ (∀ j, j ≠ gid → tget u.groups j = tget s.groups j)
        ∧ tget u.blocks g.blk = some { b with mons := tset b.mons s.uid {
            die := monDie s b.part t, gid := gid, tgt := t, size := n, cond := c.toNat, val := sreg g d.toNat, cap := none } }
        ∧ u = { s with groups := u.groups, blocks := u.blocks, uid := s.uid + 1, co := u.co })
      ∧ (¬(may ∧ free) → ∃ u, exec i s = .next u ∧ OnlyGroup { s with co := u.co } u gid (wait (.watchPoll d.toNat va n c.toNat (sreg g d.toNat)))))

/-- R220, R223, R229 to R233: the supervisor's paging instructions. PMAP writes an unmapped leaf and answers 0, or answers
why not; PUNMAP takes a leaf away, which MTLBs may use until TLBI drops it; POOLGET takes a free frame or answers 1,
and takes one back. -/
def Obligations.Paging : Prop :=
  ∀ (s : State) (gid side : Nat) (g : Group) (b : Block) (cx : Ctx) (d a : BitVec 7) (l : BitVec 2),
    Ready s gid side g [] [d.toNat, a.toNat] [] → converged g = true → ¬LitPending g side → g.hlev = 2 → l.toNat ≤ 2 →
    tget s.blocks g.blk = some b → tget s.ctxs (b.part * 1024 + b.ctx) = some cx →
    let va := leafStart l.toNat false (sreg g a.toNat)
    let die := vaDie va
    let e := pteClean (sreg g d.toNat)
    let slot := slotOfLeaf s b.part b.ctx die (vaOff va) l.toNat
    let wrote := fun (i : Instr) (pa : Nat) (x : DWord) (old : List Stale) => ∃ t g', exec i s = .next t ∧ tget t.groups gid = some g'
      ∧ (∀ k, k ≠ gid → tget t.groups k = tget s.groups k) ∧ MovedOn g g' side ∧ ScalarIs g g' d.toNat 0
      ∧ g' = { g with s := g'.s, a := g'.a, b := g'.b } ∧ rdPte t.hbm die pa = x
      ∧ (∀ k, k < hkey die pa ∨ hkey die pa + 8 ≤ k → mget t.hbm k = mget s.hbm k) ∧ t.stale = s.stale ++ old
      ∧ t = { s with groups := t.groups, hbm := t.hbm, poison := t.poison, ctag := t.ctag, blocks := t.blocks, disps := t.disps, svcreqs := t.svcreqs, ctxs := t.ctxs, stale := t.stale, co := t.co }
    (pagedVa s va = false → SetsScalar s (.pmap d a 0 0 l) gid side g d.toNat 8 ∧ SetsScalar s (.punmap d a 0 l) gid side g d.toNat 8)
    ∧ (∀ n, pmapCheck s b.part b.ctx va e l.toNat false = n → n ≠ 0 → ∀ p, SetsScalar s (.pmap d a p 0 l) gid side g d.toNat (BitVec.ofNat 64 n))
    ∧ (pmapCheck s b.part b.ctx va e l.toNat false = 0 → flipAt s b.part b.ctx die (vaOff va) = none →
      (slot = .covered → SetsScalar s (.pmap d a 0 0 l) gid side g d.toNat 1 ∧ SetsScalar s (.pmap d a 1 0 l) gid side g d.toNat 2)
      ∧ (∀ pa, slot = .slot pa → pteV (rdPte s.hbm die pa) = true → SetsScalar s (.pmap d a 0 0 l) gid side g d.toNat 1)
      ∧ (∀ pa, slot = .slot pa → pteV (rdPte s.hbm die pa) = false → wrote (.pmap d a 0 0 l) pa e []))
    ∧ (pagedVa s va = true →
      (∀ j pa, slot = .missing j pa → SetsScalar s (.punmap d a 0 l) gid side g d.toNat 2)
      ∧ ∀ pa, slot = .slot pa →
        let old := rdPte s.hbm die pa
        (pteV old = false ∨ pteT old = true → SetsScalar s (.punmap d a 0 l) gid side g d.toNat 2)
        ∧ (pteV old = true → pteT old = false → pteRun old = true → SetsScalar s (.punmap d a 0 l) gid side g d.toNat 7)
        ∧ (pteV old = true → pteT old = false → pteRun old = false → flipAt s b.part b.ctx die (vaOff va) = none →
          wrote (.punmap d a 0 l) pa 0
            [{ part := b.part, ctx := b.ctx, die := die, off := vaOff va, lvl := 3 - l.toNat, pte := old, used := true }]))
    ∧ (∀ z : BitVec 6, z.toNat ≤ 40 → nbHolds s b.part b.ctx = false → (∀ k h, (k, h) ∈ s.groups → ∀ x ∈ h.out, x.stores = []) →
      let mine := fun t : Stale => decide (t.part = b.part) && decide (t.ctx = b.ctx)
      let n := 8192 * 2 ^ z.toNat
      let at_ := sreg g a.toNat
      let drops := fun (i : Instr) (hit within : Stale → Bool) => ∃ t, exec i s = .next t
        ∧ OnlyGroup { s with stale := (s.stale.filter (fun x => !(mine x && within x))).map (fun x =>
            if mine x && hit x then { x with used := false } else x) } t gid
          (setSlot g side (slotAt (slotOf g side) ((slotOf g side).pc + 4)))
      drops (.tlbi a 1 0) (fun _ => true) (fun _ => true)
      ∧ (pagedVa s at_ = true → drops (.tlbi a 0 z) (fun x => staleIn x (vaDie at_) (vaOff at_ / n * n) n)
          (fun x => staleWithin x (vaDie at_) (vaOff at_ / n * n) n))
      ∧ (pagedVa s at_ = false → drops (.tlbi a 0 z) (fun _ => false) (fun _ => false)))
    ∧ ∀ (r : BitVec 1) (z : BitVec 2), ¬(r = 1 ∧ z = 3) →
      let v := sreg g a.toNat
      let put := fun (i : Instr) (fs : List Frame) (x : DWord) => ∃ t g', exec i s = .next t ∧ tget t.groups gid = some g'
        ∧ (∀ k, k ≠ gid → tget t.groups k = tget s.groups k) ∧ MovedOn g g' side ∧ ScalarIs g g' d.toNat x
        ∧ g' = { g with s := g'.s, a := g'.a, b := g'.b } ∧ tget t.ctxs (b.part * 1024 + b.ctx) = some { cx with frames := fs }
      (∀ i f, freeFrame cx (vaDie v) (r = 1) z.toNat = some (i, f) →
        (∀ k, k < sizeFrames z.toNat → (s2translate s b.part (vaDie v) ((f.num + k) * 8192)).isSome = true) →
        put (.poolget d a r 0 0 z) (cx.frames.set i { f with free := false, maps := 0, table := false }) (BitVec.ofNat 64 (vaDie v * 2 ^ 53 + f.num * 2 ^ 13)))
      ∧ (∀ u, takeFrame s b.part b.ctx (vaDie v) (r = 1) z.toNat = (u, .empty) → tget u.groups gid = some g →
        ∃ t g', exec (.poolget d a r 0 0 z) s = .next t ∧ OnlyGroup u t gid g' ∧ MovedOn g g' side ∧ ScalarIs g g' d.toNat 1
          ∧ g' = { g with s := g'.s, a := g'.a, b := g'.b })
      ∧ ∀ before after f, cx.frames = before ++ f :: after → v = BitVec.ofNat 64 (f.die * 2 ^ 53 + f.num * 2 ^ 13) → f.die < 4 → f.num < 2 ^ 40 →
        f.free = false → f.table = false → f.size = z.toNat → f.br = (r = 1) → f.maps = 0 →
        (∀ x ∈ before, x.free = true ∨ x.die ≠ f.die ∨ x.num ≠ f.num) →
        frameRetiring s b.part b.ctx f.die f.num (sizeFrames f.size) = false →
        put (.poolget d a r 1 0 z) (before ++ { f with free := true } :: after) 0

/-- R291 to R294, R297, R306, R310, R311, R320, R324: OPBIND and OPGANG of a descriptor that passes the checks bind the
lowest FREE index of the core, or of every member's core, with empty entries and the default grant, and answer the handle;
the first check that fails gives its code. While an engine's range lock overlaps the deck, OPBIND has read and checked once,
claims the index and waits. The group has nothing outstanding. -/
def Obligations.OperatorBinding : Prop :=
  ∀ (s : State) (gid side : Nat) (g : Group) (b : Block) (d a : BitVec 7) (sl : BitVec 3) (x : List DWord),
    Ready s gid side g [] [d.toNat, a.toNat] [] → converged g = true → ¬LitPending g side → tget s.blocks g.blk = some b →
    capOn s b.part capOperators = true → g.out = [] → g.recs = [] → (sreg g a.toNat).toNat % 64 = 0 →
    readRecord s gid (slotOf g side).exec (reqOf s g) (sreg g a.toNat) 8 = .words x →
    let is := issueOf s gid side g 0
    let o := readODesc x
    let slot := b.slots.getD (8 * sl.toNat) 0
    let fails := fun (i : Instr) (c : Nat) => SetsScalar s i gid side g d.toNat (BitVec.ofNat 64 (2 ^ 63 + c))
    let v := fun j => b.vcores.getD (g.wgid + j) 0
    let free := fun core => ((List.range 64).find? (fun i => (tget s.ops (core * 64 + i)).isNone
      && s.binds.all (fun b => b.2.ops.all (fun o => decide (o.1 ≠ core * 64 + i))))).getD 0
    let made := fun (p : Oper) (wg deck sk sn k0 n0 : Nat) => p.st = .bound ∧ p.blk = g.blk ∧ p.wg = wg ∧ p.ctx = b.ctx ∧ p.part = b.part
      ∧ p.deck = deck ∧ p.k = o.k ∧ p.n = o.n ∧ p.w = o.w ∧ p.s = o.s ∧ p.entries = [] ∧ p.slot = (b.slots.drop (8 * sl.toNat)).take 8
      ∧ p.grants = List.replicate o.w (BitVec.ofNat 64 (2 ^ 63 + 2 ^ 32 + b.ctx)) ∧ p.sk = sk ∧ p.sn = sn ∧ p.k0 = k0 ∧ p.n0 = n0
    let binds := fun (i : Instr) (h : DWord) (keys : List Nat) (t : State) => exec i s = .next t
      ∧ (∃ g', tget t.groups gid = some g' ∧ MovedOn g g' side ∧ ScalarIs g g' d.toNat h ∧ g' = { g with s := g'.s, a := g'.a, b := g'.b })
      ∧ (∀ k, k ≠ gid → tget t.groups k = tget s.groups k) ∧ (∀ k, k ∉ keys → tget t.ops k = tget s.ops k)
      ∧ t = { s with groups := t.groups, ops := t.ops }
    (badDesc x = true → fails (.opbind d a sl) 3)
    ∧ (badDesc x = false → badFmt s b.part slot o = true → fails (.opbind d a sl) 4)
    ∧ (badDesc x = false → badFmt s b.part slot o = false → inAlloc is b g.wgid o.deck (shareBytes slot o.k o.n) = none → fails (.opbind d a sl) 5)
    ∧ (∀ (deck : Nat) (scale : Option Nat), badDesc x = false → badFmt s b.part slot o = false →
      inAlloc is b g.wgid o.deck (shareBytes slot o.k o.n) = some deck → scalesAt is b o = some scale → deck % tileBytes (fsWFMT slot) = 0 →
      let key := g.core * 64 + free g.core
      let p := newOper s is b o sl.toNat key g.wgid deck scale none [key] false o.k o.n 0 0
      noSpace p = false →
      (b.ophnd ≤ heldBy s g.blk g.wgid → fails (.opbind d a sl) 2)
      ∧ (heldBy s g.blk g.wgid < b.ophnd → tagBad s g.core deck (shareBytes slot o.k o.n) (fsSWZ slot) = none →
        (∀ at_, scale = some at_ → tagBad s g.core at_ (2 * opN p) (fsSWZ slot) = none ∧ engineOn s b.part b.ctx (v 0) at_ (2 * opN p) = false) →
        let h := BitVec.ofNat 64 (v 0 % 128 * 512 + free g.core * 8 + (mget s.opReuse key).toNat)
        (engineOn s b.part b.ctx (v 0) deck (shareBytes slot o.k o.n) = false →
          ∃ t q, binds (.opbind d a sl) h [key] t
            ∧ tget t.ops key = some q ∧ made q g.wgid deck o.k o.n 0 0 ∧ q.root = none ∧ q.members = [key] ∧ q.reuse = mget s.opReuse key)
        ∧ (engineOn s b.part b.ctx (v 0) deck (shareBytes slot o.k o.n) = true →
          ∃ t, exec (.opbind d a sl) s = .next t
            ∧ OnlyGroup { s with uid := s.uid + 1, binds := t.binds } t gid (setSlot g side { slotOf g side with wait := .engine s.uid })
            ∧ tget t.binds s.uid = some { gid := gid, side := side, d := d.toNat, handle := h, ops := [(key, p)] }
            ∧ ∀ k, k ≠ s.uid → tget t.binds k = tget s.binds k)))
    ∧ ∀ (n : BitVec 4) (p : BitVec 1) (deck : Nat), 2 ≤ n.toNat → n.toNat ≤ 12 → capOn s b.part capTruss = true →
      let split := decide (p = 1)
      let tiles := if split then (o.k + 127) / 128 else (o.n + 63) / 64
      let share := shareOf o split n.toNat
      let bytes := fun j => shareBytes slot (share j).1 (share j).2.1
      let off := (ownVa s o.deck - spadAddr (v 0) (b.spadOff.getD g.wgid 0)).toNat
      let at_ := fun j => b.spadOff.getD (g.wgid + j) 0 + off
      let keys := claimIndices s b g.wgid n.toNat
      let root := (keys.headD (g.wgid, 0)).2
      (badDesc x = true → fails (.opgang d a n p sl) 3)
      ∧ (badDesc x = false → badFmt s b.part slot o = false → (variantOf b).wgs < g.wgid + n.toNat ∨ tiles < n.toNat ∨ o.trans = true →
        fails (.opgang d a n p sl) 9)
      ∧ (badDesc x = false → badFmt s b.part slot o = false → g.wgid + n.toNat ≤ (variantOf b).wgs → n.toNat ≤ tiles → o.trans = false →
        o.scale = false → inAlloc is b g.wgid o.deck (bytes 0) = some deck → deck % tileBytes (fsWFMT slot) = 0 →
        o.w * o.s * opIES (newOper s is b o sl.toNat root g.wgid (at_ 0) none none (keys.map Prod.snd) split (share 0).1 (share 0).2.1 0 0) ≤ 0x80000 →
        o.w * o.s * opRES (newOper s is b o sl.toNat root g.wgid (at_ 0) none none (keys.map Prod.snd) split (share 0).1 (share 0).2.1 0 0) ≤ 0x80000 →
        (∀ j, j < n.toNat → at_ j % tileBytes (fsWFMT slot) = 0 ∧ off + bytes j ≤ (variantOf b).spad ∧ heldBy s g.blk (g.wgid + j) < b.ophnd
          ∧ tagBad s (wgCore s b (g.wgid + j)) (at_ j) (bytes j) (fsSWZ slot) = none ∧ engineOn s b.part b.ctx (v j) (at_ j) (bytes j) = false) →
        (keys.map Prod.snd).Nodup →
        ∃ t, binds (.opgang d a n p sl) (BitVec.ofNat 64 (v 0 % 128 * 512 + root % 64 * 8 + (mget s.opReuse root).toNat)) (keys.map Prod.snd) t
          ∧ ∀ j wk, keys[j]? = some wk → ∃ q, tget t.ops wk.2 = some q
            ∧ made q wk.1 (at_ j) (share j).1 (share j).2.1 (share j).2.2.1 (share j).2.2.2
            ∧ q.root = (if j = 0 then none else some root) ∧ q.members = (if j = 0 then keys.map Prod.snd else []))

/-- R296, R297, R301, R302, R306, R310, R312 to R315: what the instructions on a bound operator of no truss do, and what they answer for a
handle that is not valid or a slot that the operator does not have. OPGNT and OPREV wait for stores that came under the old grant,
which those keep. -/
def Obligations.OperatorHandles : Prop :=
  ∀ (s : State) (gid side : Nat) (g : Group) (d a : BitVec 7) (w : BitVec 4),
    Ready s gid side g [] [d.toNat, a.toNat] [] → converged g = true → ¬LitPending g side → capOn s (reqOf s g).part capOperators = true →
    let h := sreg g a.toNat
    let sets := fun (i : Instr) (x : DWord) => SetsScalar s i gid side g d.toNat x
    let changes := fun (i : Instr) (x : DWord) (t : State) => exec i s = .next t
      ∧ (∃ g', tget t.groups gid = some g' ∧ MovedOn g g' side ∧ ScalarIs g g' d.toNat x ∧ g' = { g with s := g'.s, a := g'.a, b := g'.b })
      ∧ (∀ k, k ≠ gid → tget t.groups k = tget s.groups k) ∧ t = { s with groups := t.groups, ops := t.ops, opReuse := t.opReuse }
    (opOfHandle (issueOf s gid side g 0) h = none →
      sets (.opunb d a) 1 ∧ sets (.opgnt d a w) 1 ∧ sets (.oprev d a w) 1 ∧ sets (.opdisc d a 0 w) 1 ∧ sets (.opstat d a 0 0 w) 0)
    ∧ ∀ (key : Nat) (o : Oper), opOfHandle (issueOf s gid side g 0) h = some (key, o) → o.members = [key] →
      let grant := sreg g d.toNat
      let badGrant := grant.extractLsb' 51 12 ≠ 0 ∨ grant.extractLsb' 38 4 ≠ 0 ∨ grant.extractLsb' 11 21 ≠ 0
        ∨ (383 < (grant.extractLsb' 42 9).toNat ∧ grant.extractLsb' 42 9 ≠ 0x1FF)
      let queued := s.passes.filter (fun p => decide (p.2.op = key))
      let named := fun l : BitVec 1 => if l = 1 then List.range (o.w * o.s) else (List.range o.s).map (· + w.toNat * o.s)
      let code := fun e : Entry => if e.q ≠ 0 then 2 else if e.r then 3 else if e.fill = [] then 0 else 1
      let bit := fun (x : Bool) (k : Nat) => if x then 2 ^ k else 0
      let st := match o.st with
        | .bound => 1
        | .suspended => 2
        | .moving => 3
        | .unbinding => 4
      (o.w ≤ w.toNat → sets (.opgnt d a w) 7 ∧ sets (.oprev d a w) 7 ∧ sets (.opdisc d a 0 w) 7 ∧ ∀ f, sets (.opstat d a 1 f w) 0)
      ∧ (w.toNat < o.w → badGrant → sets (.opgnt d a w) 8)
      ∧ (w.toNat < o.w → ∀ (i : Instr) (x : DWord), (i = .opgnt d a w ∧ x = grant ∧ ¬badGrant) ∨ (i = .oprev d a w ∧ x = 0) →
        ((∀ h ∈ s.heldAcc, storeFor s key w.toNat h = false) → ∃ t, changes i 0 t
          ∧ tget t.ops key = some { o with grants := o.grants.set w.toNat x } ∧ (∀ k, k ≠ key → tget t.ops k = tget s.ops k)
          ∧ t.opReuse = s.opReuse)
        ∧ ((∃ h ∈ s.heldAcc, storeFor s key w.toNat h = true ∧ (h.held = true ∨ h.grant.isSome = true)) → ∃ t, exec i s = .next t
          ∧ OnlyGroup { s with ops := t.ops, heldAcc := t.heldAcc } t gid
              (setSlot g side { slotOf g side with wait := .opGrant (key / 64) (key % 64) w.toNat d.toNat })
          ∧ tget t.ops key = some { o with grants := o.grants.set w.toNat x } ∧ (∀ k, k ≠ key → tget t.ops k = tget s.ops k)
          ∧ t.heldAcc.length = s.heldAcc.length ∧ ∀ (j : Nat) (h : HeldAcc), s.heldAcc[j]? = some h → storeFor s key w.toNat h = true → h.held = true →
              h.grant = none → t.heldAcc[j]? = some { h with grant := some (o.grants.getD w.toNat 0) }))
      ∧ (∀ f w, sets (.opstat d a 0 f w) (BitVec.ofNat 64 (h.toNat % 2 ^ 16 * 2 ^ 32 + queued.length * 2 ^ 18 + (o.s - 1) * 2 ^ 12
          + (o.w - 1) * 2 ^ 8 + bit o.zeroabs 7 + bit o.overwrite 6 + bit o.raw 5 + bit o.readable 4 + bit o.trans 3 + st)))
      ∧ (w.toNat < o.w → ∀ f : BitVec 1, ∃ x, sets (.opstat d a 1 f w) x ∧ ∀ k, k < 32 → x.toNat / 4 ^ k % 4 =
          if 32 * f.toNat + k < o.s then code (entryOf o (w.toNat * o.s + (32 * f.toNat + k))) else 0)
      ∧ (∀ l, (l = 1 ∨ w.toNat < o.w) →
        ((∀ e ∈ named l, (entryOf o e).q = 0) → ∃ t, changes (.opdisc d a l w) 0 t ∧ t.opReuse = s.opReuse
          ∧ (∀ k, k ≠ key → tget t.ops k = tget s.ops k)
          ∧ ∃ p, tget t.ops key = some p ∧ (∀ e, entryOf p e = if e ∈ named l then Entry.empty else entryOf o e) ∧ p = { o with entries := p.entries })
        ∧ ((∃ e ∈ named l, (entryOf o e).q ≠ 0) → ∃ k, Becomes s (.opdisc d a l w) gid
          (setSlot g side { slotOf g side with wait := .opDisc (key / 64) (key % 64) k d.toNat })))
      ∧ (queued = [] → ∃ t, changes (.opunb d a) 0 t ∧ tget t.ops key = none ∧ (∀ k, k ≠ key → tget t.ops k = tget s.ops k)
        ∧ mget t.opReuse key = mget s.opReuse key + 1)
      ∧ (queued ≠ [] → ∃ t, exec (.opunb d a) s = .next t ∧ tget t.ops key = some { o with st := .unbinding }
        ∧ tget t.groups gid = some (setSlot g side { slotOf g side with wait := .opFree (key / 64) (key % 64) d.toNat })
        ∧ t = { s with groups := t.groups, ops := t.ops })

/-- R182, R183, R185 to R189: CPY and CPYB of records and footprints that pass every check register their locks and are
counted by cp, or wait for the locks with what they have read; a record, overlap, reservation or bias failure retires at once with
its code, in the status block or as a refusal; a wrong swizzle tag traps. The group has no access outstanding. -/
def Obligations.Copies : Prop :=
  ∀ (s : State) (gid side : Nat) (g : Group) (bl : Block) (d a b : BitVec 7) (src dst : List DWord),
    Ready s gid side g [] [d.toNat, a.toNat, b.toNat] [] → (LitPending g side → b = 0) → tget s.blocks g.blk = some bl →
    (∀ o ∈ g.out, o.stores = [] ∧ o.pend = 0 ∧ o.uid ≠ s.uid ∧ o.cls ≠ .cp) → g.recs = [] → tget s.copies s.uid = none →
    (slotOf g (otherSide side)).wait ≠ .engine s.uid →
    let sl := slotOf g side
    let st := sreg g d.toNat
    (sreg g a.toNat).toNat % 64 = 0 → (scalarB g side b.toNat).toNat % 64 = 0 → (d = 24 ∨ st.toNat % 16 = 0) →
    readRecord s gid sl.exec (reqOf s g) (sreg g a.toNat) 8 = .words src →
    readRecord s gid sl.exec (reqOf s g) (scalarB g side b.toNat) 8 = .words dst →
    let r := trec src
    let w := trec dst
    let off := ownVa s w.base - spadAddr (bl.vcores.getD g.wgid 0) (bl.spadOff.getD g.wgid 0)
    let inside := 0 ≤ Int.ofNat off.toNat + w.span.1 ∧ Int.ofNat off.toNat + w.span.2 < Int.ofNat (variantOf bl).spad
    let all := (List.range bl.vcores.length).map (fun i => (spadAddr (bl.vcores.getD i 0) (bl.spadOff.getD i 0) + off) :: dst.drop 1)
    let next := slotAt sl (sl.pc + 4)
    ∀ (i : Instr) (ds : List (List DWord)), (i = .cpy d a b ∧ ds = [dst]) ∨ (i = .cpyb d a b ∧ ds = all) →
      let good := recOk src = true ∧ recOk dst = true ∧ sameShape r w = true ∧ (i = .cpy d a b ∨ inside)
      let meet := ∃ x ∈ ds, footsMeet (r.here s) ((trec x).here s) = true
      let tagged := swzBad s bl.part r false = none ∧ ∀ x ∈ ds, swzBad s bl.part (trec x) true = none
      let flips := ∃ x ∈ src :: ds, ∃ j, j < (trec x).units
        ∧ unitFlips s { part := bl.part, ctx := bl.ctx, user := userLevel g } ((trec x).addr j) = true
      let copy := fun started locks => ({
        part := bl.part, ctx := bl.ctx, blk := g.blk, gid := gid, core := g.core, user := userLevel g, out := s.uid, src := src
        dsts := ds, status := if d = 24 then none else some st, locks := locks, started := started, phase := 0, prog := 0
        waits := 0, buf := [], fails := [], wfails := [], ends := none } : Copy)
      let locks := lockOf s (copy true []) s.uid r false ++ ds.flatMap (fun x => lockOf s (copy true []) s.uid (trec x) true)
      let can := locksFree s bl g.blk locks = true ∧ lockQueue s s.uid locks = false
      let room := max (1 + ds.length) locks.length ≤ reservedLocks bl
      (good → ¬meet → room → tagged → ¬flips →
        (can → ∃ t, exec i s = .next t ∧ tget t.copies s.uid = some (copy true locks)
          ∧ tget t.groups gid = some (setSlot { g with out := g.out ++ [{
              uid := s.uid, cls := .cp, sem := 0, regs := [], vw := [], sw := none, stores := [], zero := false, pend := 0
              fin := false, sealed := false, lanes := none, rmw := false }] } side next)
          ∧ (∀ k, k ≠ gid → tget t.groups k = tget s.groups k) ∧ (∀ k, k ≠ s.uid → tget t.copies k = tget s.copies k)
          ∧ t = { s with groups := t.groups, copies := t.copies, locks := s.locks ++ locks, uid := s.uid + 1 })
        ∧ (¬can → ∃ t, exec i s = .next t ∧ tget t.copies s.uid = some (copy false locks)
          ∧ tget t.groups gid = some (setSlot g side { sl with wait := .engine s.uid })
          ∧ (∀ k, k ≠ gid → tget t.groups k = tget s.groups k) ∧ (∀ k, k ≠ s.uid → tget t.copies k = tget s.copies k)
          ∧ t = { s with groups := t.groups, copies := t.copies, uid := s.uid + 1 }))
      ∧ (∀ at_, good → ¬meet → room → swzBad s bl.part r false = some at_ →
        exec i s = .next (takeTrap s gid side { cause := 10, tmask := sl.exec, hmask := sl.exec, taddr := at_, info := 0, emu := none }))
      ∧ ∀ code : Nat, (¬good ∧ code = 2) ∨ (good ∧ meet ∧ code = 3) ∨ (good ∧ ¬meet ∧ ¬room ∧ code = 4)
          ∨ (good ∧ ¬meet ∧ room ∧ tagged ∧ flips ∧ code = 10) →
        (d = 24 → ∃ t, exec i s = .next t ∧ tget t.groups gid = some (setSlot (addRefusal g 0 0 2) side next)
          ∧ (∀ k, k ≠ gid → tget t.groups k = tget s.groups k) ∧ (∀ k, tget t.copies k = tget s.copies k)
          ∧ t = { s with groups := t.groups, copies := t.copies, locks := s.locks.filter (fun l => decide (l.op ≠ s.uid)), uid := s.uid + 1 })
        ∧ (d ≠ 24 →
          let status := fun u => ctxWrite u { part := bl.part, ctx := bl.ctx, user := userLevel g } st (BitVec.ofNat 64 code) 0
          (∀ u, u = { s with groups := u.groups, copies := u.copies, locks := u.locks, uid := u.uid } → ∃ v, status u = .done v) →
          ∃ t u v, exec i s = .next t ∧ status u = .done v
            ∧ u = { s with groups := u.groups, copies := u.copies, locks := s.locks.filter (fun l => decide (l.op ≠ s.uid)), uid := s.uid + 1 }
            ∧ tget t.groups gid = some (setSlot g side next) ∧ (∀ k, k ≠ gid → tget t.groups k = tget s.groups k)
            ∧ (∀ k, tget t.copies k = tget s.copies k) ∧ t = { v with groups := t.groups, copies := t.copies })

/-- R384, R385, R388 to R390: the sealing instructions. SEALST counts a store of the encrypted chunk, SEALLD owes its register the
decrypted one, SEALFIN writes the header with its tag and SEALCHK answers the first check that fails; both end the session, and
a session that does not fit is fatal. No access of the group is outstanding. -/
def Obligations.Sealing : Prop :=
  ∀ (s : State) (gid side : Nat) (g : Group) (bl : Block) (d a : BitVec 7) (b : BitVec 5) (at_ : Target),
    converged g = true → g.hlev = 2 → capOn s (reqOf s g).part capSealed = true → tget s.blocks g.blk = some bl → g.out = [] → g.recs = [] →
    let sl := slotOf g side
    let home := elsewhere at_ = false ∧ (∀ k j, at_ ≠ .nbctl k j) ∧ ∀ k j, at_ ≠ .notify k j
    let pass := fun (kind : AKind) (va : DWord) (n : Nat) => ∃ e, checkAcc s (reqOf s g) kind va n va.toNat n = .ok at_ e
    let onReg := Ready s gid side g [] [b.toNat] [(d.toNat, 1)]
    let onScalars := Ready s gid side g [] [d.toNat, a.toNat] []
    let va := sreg g b.toNat + (if sl.lc = 0 then 0 else sl.lat)
    let hd := sreg g a.toNat
    let issued := fun (i : Instr) (x : Seal) (co : State → Coh) (o : Out → Prop) => ∃ t g' out, exec i s = .next t
      ∧ OnlyGroup { s with uid := s.uid + 1, co := co t } t gid g'
      ∧ MovedOn g g' side ∧ g'.out = [out] ∧ o out ∧ out.uid = s.uid ∧ out.lanes = some sl.exec ∧ g'.sess = some x
      ∧ g' = { g with out := g'.out, sess := g'.sess, a := g'.a, b := g'.b }
    let ended := fun (i : Instr) (x : Seal) (code : Nat) (v : DWord) (u : State) => ∃ t g', exec i s = .next t ∧ tget t.groups gid = some g'
      ∧ (∀ k, k ≠ gid → tget t.groups k = tget s.groups k) ∧ MovedOn g g' side ∧ ScalarIs g g' d.toNat v
      ∧ g'.sess = some { x with ended := true, code := code } ∧ g' = { g with s := g'.s, sess := g'.sess, a := g'.a, b := g'.b }
      ∧ (∀ cx, tget s.ctxs (bl.part * 1024 + bl.ctx) = some cx →
        tget t.ctxs (bl.part * 1024 + bl.ctx) = some { cx with checks := cx.checks ++ [(x.seg, code)] })
      ∧ (∀ k, k ≠ bl.part * 1024 + bl.ctx → tget t.ctxs k = tget s.ctxs k) ∧ t = { u with groups := t.groups, ctxs := t.ctxs }
    let fatal := fun i : Instr => exec i s = .next (groupFatal s gid sl.pc)
    let usable := fun save : Bool => ∃ x, g.sess = some x ∧ x.save = save ∧ x.ended = false
    (onReg → ¬usable true → fatal (.sealst d b)) ∧ (onReg → ¬usable false → fatal (.sealld d b))
    ∧ (onScalars → ¬LitPending g side → (¬usable true → fatal (.sealfin d a)) ∧ (¬usable false → fatal (.sealchk d a)))
    ∧ ∀ x, g.sess = some x → x.ended = false →
      (onReg → x.issued < 2 ^ 26 → x.save = true → ((∀ c o, at_ ≠ .window c o) ∧ (∀ k j, at_ ≠ .nbctl k j) ∧ ∀ k j, at_ ≠ .notify k j) →
        pass .store va 128 →
        let ct := sealCrypt x x.issued ((List.range 32).flatMap (fun l => bytesLittle (vreg g d.toNat l).toNat 4))
        issued (.sealst d b) { x with issued := x.issued + 1, cts := x.cts ++ [BitVec.ofNat 1024 (littleEndian ct)] } (fun _ => s.co) (fun o =>
          o.cls = .st ∧ o.pend = 0 ∧ o.stores.map (fun w => (w.addr, w.tgt, w.size, w.data)) = (List.range 16).map (fun k =>
            (va + BitVec.ofNat 64 (8 * k), at_.plus (8 * k), 8, BitVec.ofNat 128 (littleEndian ((ct.drop (8 * k)).take 8))))))
      ∧ (onReg → x.issued < 2 ^ 26 → x.save = false → home → poisonedT s at_ 128 = false → pass .load va 128 →
        let word := fun l => readT s (at_.plus (8 * (l / 2))) 8 / 2 ^ (32 * (l % 2)) % 2 ^ 32
        let ct := (List.range 32).flatMap (fun l => bytesLittle (word l) 4)
        let clear := fun l => littleEndian (((sealCrypt x x.cts.length ct).drop (4 * l)).take 4)
        issued (.sealld d b) { x with issued := x.issued + 1 } (fun t => t.co) (fun o => o.cls = .ld ∧ o.pend = 0 ∧ o.stores = []
          ∧ let h := { g with sess := some { x with issued := x.issued + 1 } }
            LanesAre h (applyLoad h o) 0xFFFFFFFF d.toNat 1 clear
            ∧ (applyLoad h o).sess = some { x with issued := x.issued + 1, cts := x.cts ++ [BitVec.ofNat 1024 (littleEndian ct)] }
            ∧ applyLoad h o = { h with v := (applyLoad h o).v, sess := (applyLoad h o).sess }))
      ∧ (onReg → 2 ^ 26 ≤ x.issued → (x.save = true → fatal (.sealst d b)) ∧ (x.save = false → fatal (.sealld d b)))
      ∧ (onScalars → ¬LitPending g side → hd.toNat % 64 = 0 →
        (x.save = true → home → pass .store hd 64 →
          let head := segHead x (128 * x.issued)
          let text := x.cts.flatMap (fun c => bytesLittle c.toNat 128)
          let bytes := head ++ gcmTag (bytesLittle x.key.toNat 32) (sealIV x) head text
          ended (.sealfin d a) x 0 (BitVec.ofNat 64 (128 * x.issued))
            ((List.range 8).foldl (fun u k => writeBy u g.core (at_.plus (8 * k)) 8 (littleEndian ((bytes.drop (8 * k)).take 8))) s))
        ∧ ∀ w, x.save = false → home → pass .load hd 64 → readRecord s gid sl.exec (reqOf s g) hd 8 = .words w →
          let word := fun k => (w.getD k 0).toNat
          let text := x.cts.flatMap (fun c => bytesLittle c.toNat 128)
          let tag := gcmTag (bytesLittle x.key.toNat 32) (sealIV x) (segHead x (128 * x.issued)) text
          let goodHead := word 0 = 0x100474553 ∧ w.getD 2 0 = BitVec.ofNat 64 (x.ctx * 2 ^ 32 + x.seg) ∧ w.getD 3 0 = BitVec.ofNat 64 (128 * x.issued)
            ∧ w.getD 4 0 = BitVec.ofNat 64 x.part ∧ word 5 = 0
          let checks := fun code : Nat => ended (.sealchk d a) x code (BitVec.ofNat 64 code) s
          (¬goodHead → checks 2) ∧ (goodHead → w.getD 1 0 ≠ x.ctr → checks 1)
          ∧ (goodHead → w.getD 1 0 = x.ctr → bytesLittle (word 6) 8 ++ bytesLittle (word 7) 8 ≠ tag → checks 3)
          ∧ (goodHead → w.getD 1 0 = x.ctr → bytesLittle (word 6) 8 ++ bytesLittle (word 7) 8 = tag → checks 0))

/-- R330 to R333, R340, R342, R347 to R350: NBEXEC, NBCPY and NBZ with aligned spans and a command word that passes the checks register their
locks, queue in their banks and are counted; else they wait, or fail at once with BADCMD, NOLOCK or BIAS. NBLD writes microinstructions into
the sequencers of every stack of the partition, once no microprogram of it runs; NBSTAT reads. The group has no access outstanding. -/
def Obligations.NearBankCommands : Prop :=
  ∀ (s : State) (gid side : Nat) (g : Group) (bl : Block) (h : BitVec 2) (d a b : BitVec 7),
    ¬LitPending g side → tget s.blocks g.blk = some bl →
    (∀ o ∈ g.out, o.cls ≠ .ld ∧ o.cls ≠ .st ∧ o.cls ≠ .nb ∧ o.uid ≠ s.uid ∧ o.stores = []) → g.recs = [] →
    let sl := slotOf g side
    let p := (reqOf s g).part
    capOn s p capNbAssoc = true → capOn s p capNbCopy = true →
    let at_ := allotment s p
    let word := sreg g a.toNat
    let st := sreg g d.toNat
    let next := slotAt sl (sl.pc + 4)
    (∀ (i : Instr) (kind n : Nat), (i, kind, n) ∈ [(.nbexec h d a b, 0, 2), (.nbcpy h d a b, 1, 4), (Instr.nbz h d a b, 2, 2)] →
      Ready s gid side g [] [d.toNat, a.toNat] [(b.toNat, n)] →
      (activeOf g side = 0 → Becomes s i gid (setSlot g side next))
      ∧ (activeOf g side ≠ 0 → (d = 24 ∨ st.toNat % 16 = 0) → g.posted < 63 → (kind = 0 → ∀ x ∈ s.nblds, x.2.part ≠ p) →
        let lanes := (List.range 32).filter (fun l => (activeOf g side).getLsbD l)
        let addr := fun r l => BitVec.ofNat 64 (vregs g r l 2)
        let spans := lanes.map (fun l => (l, addr b.toNat l, if kind = 1 then addr (b.toNat + 2) l else 0))
        let bytes := if word.toNat / 2 ^ 13 % 4 = 1 then 65536 else 8192
        let named := spans.flatMap (fun x => if kind = 1 then [x.2.1, x.2.2] else [x.2.1])
        (∀ y ∈ named, y.toNat % bytes = 0 ∧ ∃ die o, route s p y = .paged die o) →
        let post := word.getLsbD 28
        let lock := fun (y : DWord) (w : Bool) => ({
          die := vaDie y, lo := (ownVa s y).toNat, hi := (ownVa s y).toNat + bytes - 1, write := w, part := bl.part, ctx := bl.ctx, blk := g.blk, op := s.uid } : RLock)
        let locks := spans.flatMap (fun x => if kind = 1 then [lock x.2.1 false, lock x.2.2 true] else [lock x.2.1 true])
        let cmd := fun started => ({
          kind := kind, part := bl.part, ctx := bl.ctx, blk := g.blk, gid := gid, user := userLevel g, word := word, spans := spans
          status := if d = 24 then none else some st, locks := locks, started := started, out := s.uid
          units := lanes.map (fun l => {
            lane := l, st := .queued, code := 0, sel := List.replicate 8 0, key := 0, mask := 0, tag := 0, c := 0
            ip := word.toNat / 2 ^ 16 % 4096, src := [], dst := [] })
          issued := 0, past := [], first := 0xFFF, last := 0xFFF } : NbCmd)
        let counted := if post then { g with posted := g.posted + 1 } else { g with out := g.out ++ [{
          uid := s.uid, cls := .nb, sem := 0, regs := [], vw := [], sw := none, stores := [], zero := false, pend := 0
          fin := false, sealed := false, lanes := none, rmw := false }] }
        let refusal := nbRefusal s (reqOf s g) bl kind word spans (lanes.length * (if kind = 1 then 2 else 1))
        let room := ∀ l ∈ lanes, (bankQueue s (word.toNat % 512 * 32 + l)).length < 16
        let can := locksFree s bl g.blk locks = true ∧ lockQueue s s.uid locks = false
        let only := fun t : State => (∀ k, k ≠ gid → tget t.groups k = tget s.groups k) ∧ (∀ k, k ≠ s.uid → tget t.nbcmds k = tget s.nbcmds k)
        (refusal = 0 → room → can → ∃ t, exec i s = .next t ∧ tget t.nbcmds s.uid = some (cmd true)
          ∧ tget t.groups gid = some (setSlot counted side next) ∧ only t
          ∧ t = { s with groups := t.groups, nbcmds := t.nbcmds, locks := s.locks ++ locks, uid := s.uid + 1 })
        ∧ (refusal = 0 → room → ¬can → ∃ t, exec i s = .next t ∧ tget t.nbcmds s.uid = some (cmd false)
          ∧ tget t.groups gid = some (setSlot g side { sl with wait := .engine s.uid }) ∧ only t
          ∧ t = { s with groups := t.groups, nbcmds := t.nbcmds, uid := s.uid + 1 })
        ∧ (refusal ≠ 0 → d = 24 → ∃ t, exec i s = .next t ∧ tget t.nbcmds s.uid = none
          ∧ (∃ g', tget t.groups gid = some g' ∧ MovedOn g g' side ∧ g' = { g with nbwin := g'.nbwin, a := g'.a, b := g'.b }
            ∧ g'.nbwin = if g.nbwin.getLsbD 12 then g.nbwin ||| BitVec.ofNat 64 ((activeOf g side).toNat * 2 ^ 32)
              else BitVec.ofNat 64 ((activeOf g side).toNat * 2 ^ 32 + refusal * 2 ^ 28 + 0xFFF * 2 ^ 16 + 0x1FFF))
          ∧ only t ∧ t = { s with
              groups := t.groups, nbcmds := t.nbcmds, locks := s.locks.filter (fun l => decide (l.op ≠ s.uid)), uid := s.uid + 1 })))
    ∧ (Ready s gid side g [] [d.toNat, a.toNat] [] → converged g = true →
      (SetsScalar s (.nbstat d a 1) gid side g d.toNat (nbBusy s p word) ∧ SetsScalar s (.nbstat d a 2) gid side g d.toNat (BitVec.ofNat 64 g.posted)
        ∧ ∃ t g', exec (.nbstat d a 0) s = .next t ∧ OnlyGroup s t gid g' ∧ MovedOn g g' side ∧ ScalarIs g g' d.toNat g.nbwin
          ∧ g' = { g with s := g'.s, nbwin := g.nbwin &&& ~~~0x1000#64, a := g'.a, b := g'.b })
      ∧ (g.hlev = 2 → word.toNat % 8 = 0 → at_.1 + at_.2 ≤ 4096 →
        let off := st.toNat % 4096
        let n := st.toNat / 2 ^ 16 % 2 ^ 13
        let bad := st.toNat / 2 ^ 29 ≠ 0 ∨ st.toNat / 2 ^ 12 % 16 ≠ 0 ∨ n = 0 ∨ at_.2 < off + n
        (bad → SetsScalar s (.nbld d a) gid side g d.toNat 1)
        ∧ ∀ img, ¬bad → acqPending g = false → readRecord s gid sl.exec (reqOf s g) word n = .words img → img.length = n →
          ((∃ c ∈ s.nbcmds, c.2.part = p ∧ c.2.kind = 0 ∧ c.2.started = true) → ∃ t, exec (.nbld d a) s = .next t
            ∧ OnlyGroup { s with uid := s.uid + 1, nblds := t.nblds } t gid (setSlot g side { sl with wait := .engine s.uid })
            ∧ tget t.nblds s.uid = some { part := p, gid := gid, side := side, d := d.toNat, base := at_.1 + off, img := img }
            ∧ ∀ k, k ≠ s.uid → tget t.nblds k = tget s.nblds k)
          ∧ ((∀ c ∈ s.nbcmds, c.2.part ≠ p ∨ c.2.kind ≠ 0 ∨ c.2.started = false) →
          ∃ t g', exec (.nbld d a) s = .next t ∧ tget t.groups gid = some g' ∧ (∀ k, k ≠ gid → tget t.groups k = tget s.groups k)
            ∧ MovedOn g g' side ∧ ScalarIs g g' d.toNat 0 ∧ g' = { g with s := g'.s, a := g'.a, b := g'.b }
            ∧ (∀ stack j, j < 4096 → mget t.seqst (stack * 4096 + j) =
                if stack ∈ stacksOf s p ∧ at_.1 + off ≤ j ∧ j < at_.1 + off + n then img.getD (j - at_.1 - off) 0 else mget s.seqst (stack * 4096 + j))
            ∧ t = { s with groups := t.groups, seqst := t.seqst })))

/-- R334 to R337: the microinstructions, each on every running unit of the command whose step it is. CMP sets TAG column by column, WR writes the
tagged columns of the selected rows; a selector beyond the span, a reserved CM, the 2^24th issue and an IP at the end of the
allotment end the units with UFAULT. -/
def Obligations.Microinstructions : Prop :=
  ∀ (s : State) (id ip : Nat) (c : NbCmd), s.issuer = .nb id → tget s.nbcmds id = some c → c.at? = some ip →
    let at_ := allotment s c.part
    let die := nwDie c.word
    let runs := fun u : NbUnit => u.st = .running
    let row := fun (u : NbUnit) (j : Nat) => rowAt u.src (u.sel.getD j 0).toNat
    let col := fun (t : State) (pa k : Nat) => (mget t.hbm (hkey die pa + k / 8)).getLsbD (k % 8)
    let beyond := fun (u : NbUnit) (mask : BitVec 8) => ∃ j, j < 8 ∧ mask.getLsbD j = true ∧ 8 * u.src.length ≤ (u.sel.getD j 0).toNat
    let others := fun t : State => ∀ k, k ≠ id → tget t.nbcmds k = tget s.nbcmds k
    let after := fun f : NbUnit → NbUnit => { c with
      issued := c.issued + 1, past := ((at_.1 + ip) :: c.past).take 9, units := c.units.map (fun u => if u.st = .running then f u else u) }
    let does := fun (i : Instr) (f : NbUnit → NbUnit) => c.issued + 1 < 2 ^ 24 →
      ((∀ u ∈ c.units, runs u → (f u).ip < at_.2) →
        ∃ t, exec i s = .next t ∧ tget t.nbcmds id = some (after f) ∧ others t ∧ t = { s with nbcmds := t.nbcmds })
      ∧ ((∃ u ∈ c.units, runs u ∧ at_.2 ≤ (f u).ip) → ∃ t d, exec i s = .next t ∧ tget t.nbcmds id = some d ∧ others t
        ∧ d.units = c.units.map (fun u => if u.st = .running then { f u with st := .stopped, code := 8 } else u))
    let faults := fun i : Instr => ∃ t d, exec i s = .next t ∧ tget t.nbcmds id = some d ∧ others t ∧ t = { s with nbcmds := t.nbcmds }
      ∧ d.units = c.units.map (fun u => if u.st = .running then { u with st := .stopped, code := 8 } else u) ∧ d.issued = c.issued + 1
      ∧ d = { c with issued := d.issued, past := d.past, units := d.units, first := d.first, last := d.last }
    (∃ t, exec .nbEnd s = .next t ∧ tget t.nbcmds id = some { c with
        issued := c.issued + 1, past := ((at_.1 + ip) :: c.past).take 9
        units := c.units.map (fun u => if u.st = .running then { u with st := .ended, code := 1 } else u) }
      ∧ others t ∧ t = { s with nbcmds := t.nbcmds })
    ∧ (∀ (add : BitVec 1) (r : BitVec 6) (sj : BitVec 8), does (.nbSel add r sj) (fun u => { u with
        ip := ip + 1
        sel := (List.range 8).map (fun j =>
          if sj.getLsbD j then (if add = 1 then u.sel.getD j 0 + r else r + BitVec.ofNat 6 j) else u.sel.getD j 0) }))
    ∧ (∀ cm : BitVec 2, cm ≠ 3 → does (.nbTag cm) (fun u => { u with
        ip := ip + 1, tag := if cm = 0 then 0 else if cm = 1 then BitVec.allOnes 8192 else ~~~u.tag }))
    ∧ (∀ n : BitVec 12, does (.nbCnt n) (fun u => { u with ip := ip + 1, c := n })
      ∧ does (.nbDjnz n) (fun u => { u with ip := if u.c = 0 ∨ u.c = 1 then ip + 1 else n.toNat, c := if u.c = 0 then 0 else u.c - 1 }))
    ∧ (∀ (cm : BitVec 2) (mask key : BitVec 8), (∀ u ∈ c.units, runs u → ¬beyond u mask) → ∃ f, does (.nbCmp cm mask key) f
      ∧ ∀ u ∈ c.units, runs u → f u = { u with ip := ip + 1, key := key, mask := mask, tag := (f u).tag } ∧ ∀ k, k < 8192 →
        let same := (List.range 8).all (fun j => !(mask.getLsbD j) || decide (col s (row u j) k = key.getLsbD j))
        (f u).tag.getLsbD k = (if cm = 0 then same else if cm = 1 then u.tag.getLsbD k || same
          else if cm = 2 then u.tag.getLsbD k && same else u.tag.getLsbD k && !same))
    ∧ (∀ (mask key : BitVec 8) (u : NbUnit), c.units.filter (fun x => decide (x.st = .running)) = [u] → ¬beyond u mask → c.issued + 1 < 2 ^ 24 →
      ip + 1 < at_.2 → u.src.Nodup → (∀ p ∈ u.src, p % 8192 = 0) →
      ∃ t, exec (.nbWr mask key) s = .next t ∧ tget t.nbcmds id = some (after (fun u => { u with ip := ip + 1 })) ∧ others t
        ∧ (∀ j k, j < 8 → k < 8192 → mask.getLsbD j = true → (∀ m, j < m → m < 8 → mask.getLsbD m = true → row u m ≠ row u j) →
          col t (row u j) k = if u.tag.getLsbD k then key.getLsbD j else col s (row u j) k)
        ∧ (∀ a, (∀ j, j < 8 → mask.getLsbD j = true → a < hkey die (row u j) ∨ hkey die (row u j) + 1024 ≤ a) → mget t.hbm a = mget s.hbm a)
        ∧ t = { s with nbcmds := t.nbcmds, hbm := t.hbm, poison := t.poison, ctag := t.ctag })
    ∧ (∀ (cm : BitVec 2) (mask key : BitVec 8), (∃ u ∈ c.units, runs u ∧ beyond u mask) →
      faults (.nbCmp cm mask key) ∧ faults (.nbWr mask key))
    ∧ faults (.nbTag 3)
    ∧ (c.issued + 1 = 2 ^ 24 → ∀ (add : BitVec 1) (r : BitVec 6) (sj : BitVec 8) (n : BitVec 12), faults (.nbSel add r sj) ∧ faults (.nbCnt n) ∧ faults (.nbDjnz n))

/-- R433, R435, R440, R441: the derivations of capabilities and the reads of their fields. A result has its tag only under the
conditions named; CSETBND takes the least exponent whose rounded bounds lie in one arena; k0 and x0 discard. A capability register
above 15 is an illegal instruction. -/
def Obligations.HartCapabilities : Prop :=
  ∀ (s : State) (h : Nat) (x : Hart) (b a d : BitVec 5), s.issuer = .hart h → tget s.harts h = some x → x.busy = false → x.refused = none →
    let past := { x with pc := x.pc + 4, fetched := none }
    let becomes := fun (i : Instr) (y : Hart) => ∃ t, exec i s = .next t ∧ tget t.harts h = some y
      ∧ (∀ k, k ≠ h → tget t.harts k = tget s.harts k) ∧ t = { s with harts := t.harts }
    let setsK := fun (i : Instr) (v : BitVec 129) => ∃ y, becomes i y ∧ y = { past with k := y.k }
      ∧ ∀ r, kget y r = if r = d.toNat ∧ r ≠ 0 then v else kget x r
    let setsX := fun (i : Instr) (v : DWord) => ∃ y, becomes i y ∧ y = { past with x := y.x }
      ∧ ∀ r, xget y r = if r = d.toNat ∧ r ≠ 0 then v else xget x r
    let illegal := fun i : Instr => ∃ tval, exec i s = .next (takeException s h x 2 tval)
    let c := kget x a.toNat
    let w := xget x b.toNat
    let k := kget x b.toNat
    let live := fun c : BitVec 129 => capTag c && decide (capType c = 0)
    let same := fun (tag : Bool) (cur perm type : Nat) => mkCap tag cur (capE c) (capBM c) (capTM c) perm type
    let moved := fun cur : Nat => same (live c && decide (cur / 2 ^ (capE c + 14) = capCur c / 2 ^ (capE c + 14))) cur (capPerm c) (capType c)
    (a.toNat < 16 → d.toNat < 16 →
      let t := capCur c + (if w = 0 then 1 else w.toNat)
      (2 ^ 64 < t → ∃ v, setsK (.csetbnd b a d) v ∧ capTag v = false)
      ∧ (t ≤ 2 ^ 64 → ∃ e, e ≤ 50 ∧
        let lo := fun e => capCur c / 2 ^ e
        let hi := fun e => (t + 2 ^ e - 1) / 2 ^ e - 1
        lo e / 2 ^ 14 = hi e / 2 ^ 14 ∧ (∀ f, f < e → lo f / 2 ^ 14 ≠ hi f / 2 ^ 14)
        ∧ setsK (.csetbnd b a d) (mkCap
            (live c && decide (capBase c ≤ lo e * 2 ^ e) && decide ((hi e + 1) * 2 ^ e ≤ capTop c))
            (capCur c) e (lo e % 2 ^ 14) (hi e % 2 ^ 14) (capPerm c) (capType c)))
      ∧ setsK (.candperm b a d) (same (live c) (capCur c) (Nat.land (capPerm c) (w.toNat % 2 ^ 16)) (capType c))
      ∧ setsK (.cincoff b a d) (moved ((capCur c + w.toNat) % 2 ^ 64)) ∧ setsK (.csetoff b a d) (moved ((capBase c + w.toNat) % 2 ^ 64))
      ∧ setsK (.cclrtag a d) (same false (capCur c) (capPerm c) (capType c))
      ∧ (b.toNat < 16 →
        let seals := fun bit : Nat => live k && (BitVec.ofNat 16 (capPerm k)).getLsbD bit && decide (capBase k ≤ capCur k) && decide (capCur k < capTop k)
        setsK (.cseal b a d) (same (live c && seals 5 && decide (1 ≤ capCur k ∧ capCur k ≤ 14)) (capCur c) (capPerm c) (capCur k))
        ∧ setsK (.cunseal b a d) (same (capTag c && decide (1 ≤ capType c ∧ capType c ≤ 14) && seals 6 && decide (capCur k = capType c))
          (capCur c) (capPerm c) 0)))
    ∧ (a.toNat < 16 →
      let bounds := capE c ≤ 50 ∧ capBM c ≤ capTM c
      (bounds → setsX (.cgetbase 0 a d) (BitVec.ofNat 64 (capBase c)) ∧ setsX (.cgetbase 1 a d) (BitVec.ofNat 64 (capCur c))
        ∧ setsX (.cgetlen a d) (BitVec.ofNat 64 (if capTop c - capBase c < 2 ^ 64 then capTop c - capBase c else 2 ^ 64 - 1))
        ∧ setsX (.cgetperm a d) (BitVec.ofNat 64 (capPerm c + capType c * 2 ^ 16)))
      ∧ (¬bounds → setsX (.cgetbase 0 a d) 0 ∧ setsX (.cgetbase 1 a d) 0 ∧ setsX (.cgetlen a d) 0 ∧ setsX (.cgetperm a d) 0)
      ∧ setsX (.cgettag a d) (if capTag c then 1 else 0)
      ∧ (b.toNat < 16 → setsX (.csubset b a d) (if capTag c ∧ capTag k ∧ capBase c ≤ capBase k ∧ capTop k ≤ capTop c
          ∧ Nat.land (capPerm k) (capPerm c) = capPerm k then 1 else 0)))
    ∧ (16 ≤ a.toNat → illegal (.csetbnd b a d) ∧ illegal (.candperm b a d) ∧ illegal (.cincoff b a d) ∧ illegal (.csetoff b a d)
      ∧ illegal (.cseal b a d) ∧ illegal (.cunseal b a d) ∧ illegal (.csubset b a d) ∧ illegal (.cgetbase 0 a d) ∧ illegal (.cgetlen a d)
      ∧ illegal (.cgetperm a d) ∧ illegal (.cgettag a d) ∧ illegal (.cclrtag a d))

/-- R436, R438, R442 to R444: CLC and CSC under an authority that passes the checks move a capability and its tag; CJALR jumps, calls through a
gate and returns; WFN waits for its register to reach a value and NTFY changes it. An authority that fails a check is a capability
fault. -/
def Obligations.HartAccesses : Prop :=
  ∀ (s : State) (h : Nat) (x : Hart) (b a d : BitVec 5), s.issuer = .hart h → tget s.harts h = some x → x.busy = false → x.refused = none →
    let becomes := fun (i : Instr) (u : State) (y : Hart) => ∃ t, exec i s = .next t ∧ tget t.harts h = some y
      ∧ (∀ k, k ≠ h → tget t.harts k = tget u.harts k) ∧ t = { u with harts := t.harts }
    let raises := fun (i : Instr) (cause : Nat) (v : DWord) => exec i s = .next (takeException s h x cause v)
    let past := { x with pc := x.pc + 4, fetched := none }
    let c := kget x a.toNat
    let k := kget x b.toNat
    let has := fun (c : BitVec 129) (bit : Nat) => (BitVec.ofNat 16 (capPerm c)).getLsbD bit = true
    let mayNot := fun (perms : List Nat) (addr n code : Nat) => (capTag c = false ∧ code = 1) ∨ (capTag c = true ∧ capType c ≠ 0 ∧ code = 2)
      ∨ (capTag c = true ∧ capType c = 0 ∧ (∃ p ∈ perms, ¬has c p) ∧ code = 3)
      ∨ (capTag c = true ∧ capType c = 0 ∧ (∀ p ∈ perms, has c p) ∧ (addr < capBase c ∨ capTop c < addr + n) ∧ code = 4)
    let may := fun (perms : List Nat) (addr n : Nat) => ∀ code, ¬mayNot perms addr n code
    let wc := x.icr.getLsbD 26 && (BitVec.ofNat 16 (capPerm c)).getLsbD 8
    (a.toNat < 16 →
      (∀ i0 : BitVec 12, d.toNat < 16 →
        let addr := BitVec.ofNat 64 (capCur c) + i0.signExtend 64
        let r := hartIn x h .rd 16 addr 0 wc ((if (BitVec.ofNat 16 (capPerm c)).getLsbD 8 then 32 else 48) + d.toNat)
        (∀ code, mayNot [0, 3] addr.toNat 16 code → raises (.clc i0 a d) 28 (BitVec.ofNat 64 code))
        ∧ (may [0, 3] addr.toNat 16 → addr.toNat % 16 ≠ 0 → raises (.clc i0 a d) 4 addr)
        ∧ ∀ u data, may [0, 3] addr.toNat 16 → addr.toNat % 16 = 0 → hartReq s x r = .done u data → ∃ y v, becomes (.clc i0 a d) u y
          ∧ y = { past with k := y.k } ∧ (∀ q, kget y q = if q = d.toNat ∧ q ≠ 0 then v else kget x q)
          ∧ capCur v = data % 2 ^ 64 ∧ capE v = data / 2 ^ 122 % 64 ∧ capBM v = data / 2 ^ 108 % 2 ^ 14 ∧ capTM v = data / 2 ^ 94 % 2 ^ 14
          ∧ capType v = data / 2 ^ 74 % 16 ∧ capPerm v = Nat.land (data / 2 ^ 78 % 2 ^ 10) (if has c 8 then 0x3FF else 0x2FF)
          ∧ capTag v = (tagSet s r && !capBad v))
      ∧ (∀ (i0 : BitVec 7) (j : BitVec 5), b.toNat < 16 →
        let addr := BitVec.ofNat 64 (capCur c) + (i0 ++ j).signExtend 64
        let r := hartIn x h .wr 16 addr (k.toNat % 2 ^ 128) wc 64
        (∀ code, mayNot [1, 4] addr.toNat 16 code → raises (.csc i0 b a j) 28 (BitVec.ofNat 64 code))
        ∧ (may [1, 4] addr.toNat 16 → addr.toNat % 16 ≠ 0 → raises (.csc i0 b a j) 6 addr)
        ∧ ∀ u data at_, may [1, 4] addr.toNat 16 → addr.toNat % 16 = 0 → hartReq s x r = .done u data → tagAt s r = some at_ →
          becomes (.csc i0 b a j) (if capTag k then { u with ctag := mset u.ctag at_ 1 } else u) past))
    ∧ (a.toNat < 16 → b.toNat < 16 → d.toNat % 2 = 0 → d.toNat ≤ 12 →
      let gone := fun (y z : Hart) (kp k15 : BitVec 129) => kget z 15 = k15 ∧ z.kp = kp ∧ z.pc = BitVec.ofNat 64 (capCur kp)
        ∧ z.fetched = none ∧ z = { x with k := z.k, kp := z.kp, pc := z.pc, fetched := none } ∧ ∀ q, q ≠ 15 → kget z q = kget y q
      let link := mkCap (capTag x.kp) (x.pc + 4).toNat (capE x.kp) (capBM x.kp) (capTM x.kp) (capPerm x.kp)
      (capType c = 0 →
        (∀ code, mayNot [2] (capCur c) 2 code → raises (.cjalr 0 a d) 28 (BitVec.ofNat 64 code))
        ∧ (may [2] (capCur c) 2 → ∃ y z, becomes (.cjalr 0 a d) s z ∧ gone y z c (kget x 15) ∧ y = { x with k := y.k }
          ∧ ∀ q, kget y q = if q = d.toNat ∧ q ≠ 0 then link (capType x.kp) else kget x q))
      ∧ (capType c = 15 →
        let clear := fun c : BitVec 129 => mkCap (capTag c) (capCur c) (capE c) (capBM c) (capTM c) (capPerm c) 0
        (capTag k = true → capType k = 15 → ∃ z, becomes (.cjalr b a d) s z ∧ gone x z (clear c) (clear k))
        ∧ (capTag k = false ∨ capType k ≠ 15 → raises (.cjalr b a d) 28 2))
      ∧ (1 ≤ capType c → capType c ≤ 14 → capTag c = true → has c 7 → has c 3 → capCur c % 32 = 0 → capBase c ≤ capCur c → capCur c + 32 ≤ capTop c →
        ∀ u0 u1 w0 w1 t0 t1, gateRead s x h c (BitVec.ofNat 64 (capCur c)) = (.done u0 w0, t0) →
          gateRead s x h c (BitVec.ofNat 64 (capCur c + 16)) = (.done u1 w1, t1) →
          let g0 := capLoad c w0 t0
          let g1 := capLoad c w1 t1
          capTag g0 = true → capTag g1 = true → capType g0 = 0 → capType g1 = 0 → has g0 2 →
          ∃ y z, becomes (.cjalr 0 a d) s z ∧ gone y z g0 g1 ∧ y = { x with k := y.k } ∧ ∀ q, kget y q =
            if d ≠ 0 ∧ q = d.toNat then link 15
            else if d ≠ 0 ∧ q = d.toNat + 1 then
              mkCap (capTag (kget x 15)) (capCur (kget x 15)) (capE (kget x 15)) (capBM (kget x 15)) (capTM (kget x 15)) (capPerm (kget x 15)) 15
            else kget x q))
    ∧ (let p := x.icr.toNat % 32
      let idx := xget x a.toNat
      let reg := p * 4096 + idx.toNat
      let v := xget x b.toNat
      let old := mget s.notify reg
      let ok := (x.lvl = .vu → has (kget x 15) 9) ∧ idx.toNat < 4096 ∧ p < 16 ∧ capOn s p capNotify = true
      let sets := fun (i : Instr) (u : State) => ∃ y, becomes i u y ∧ y = { past with x := y.x }
        ∧ ∀ r, xget y r = if r = d.toNat ∧ r ≠ 0 then old else xget x r
      (ok → v.toNat ≤ old.toNat → sets (.wfn b a d) s)
      ∧ (ok → old.toNat < v.toNat → becomes (.wfn b a d) s x)
      ∧ (ok → ∀ (i : Instr) (new : DWord), (i = .ntfy b a d ∧ new = old + v) ∨ (i = .ntfySet b a d ∧ new = v) → ∃ u, sets i u
        ∧ (∀ q, mget u.notify q = if q = reg then new else mget s.notify q)
        ∧ u = { s with notify := u.notify, blocks := u.blocks, disps := u.disps, svcreqs := u.svcreqs })
      ∧ ((x.lvl ≠ .vu ∨ has (kget x 15) 9) → (4096 ≤ idx.toNat ∨ 16 ≤ p ∨ capOn s p capNotify = false) →
        raises (.wfn b a d) 5 idx ∧ raises (.ntfy b a d) 7 idx ∧ raises (.ntfySet b a d) 7 idx))

/-- R172 to R174, R180, R181, R184, R185, R189, R312, R315, R140: what ends the accesses and the waits of a group: its oldest load returns when
no answer is owed; its next store is performed; a refused lane reads 0 and fills the refusal record; engine locks are
registered; a copy moves every unit in order and ends; WAIT, FENCE, CWAIT, OPUNB, OPDISC, OPGNT, a bind that waits for an engine and a
PMAP in a flip go on. -/
def Obligations.AccessEvents : Prop :=
  ∀ (s : State) (gid : Nat) (x : Group), tget s.groups gid = some x →
    let only := fun (t : State) (y : Group) => tget t.groups gid = some y ∧ ∀ k, k ≠ gid → tget t.groups k = tget s.groups k
    let on := fun (side : Nat) => slotAt (slotOf x side) ((slotOf x side).pc + 4)
    let becomes := fun (i : Instr) (y : Group) => ∃ t, exec i s = .next t ∧ OnlyGroup s t gid y
    (∀ before o after, x.out = before ++ o :: after → (∀ e ∈ before ++ after, e.uid ≠ o.uid) →
      (o.cls = .ld → o.pend = 0 → (∀ e ∈ before, e.cls ≠ .ld) →
        becomes (.loadReturn gid) (applyLoad { x with out := before ++ after } o))
      ∧ (o.cls = .st → o.zero = false → o.stores ≠ [] → (∀ w ∈ o.stores, elsewhere w.tgt = false) → (∀ e ∈ before, e.stores = []) →
        (o.sem.toNat < 8 → ∀ e ∈ before, unread e = false) →
        (8 ≤ o.sem.toNat → (∀ e ∈ before, e.pend = 0) ∧ (o.sem.toNat < 12 ∨ x.posted = 0)) → ∃ t y, exec (.storePerformed gid) s = .next t ∧ only t y ∧ y = { x with out := y.out }
        ∧ t = { o.stores.foldl (fun u w => writeBy u x.core w.tgt w.size w.data.toNat) s with groups := t.groups }
        ∧ (∀ e ∈ y.out, e.uid = o.uid → e.stores = []) ∧ (∀ e ∈ before ++ after, e.cls ≠ .st → e ∈ y.out)
        ∧ (o.pend = 0 → (∀ e ∈ before, e.cls ≠ .st) → ∀ e ∈ y.out, e.uid ≠ o.uid))
      ∧ (∀ (id lane reg n cls : Nat) (r : RReq) (lanes : Word), s.reqs = [(id, r)] → r.owner = .lane gid o.uid lane reg n → r.node ≠ 510 →
        lanes.getLsbD lane = true → (o.cls = .ld ∧ cls = 0) ∨ (o.cls = .st ∧ cls = 1) →
        let m := o.lanes.getD (BitVec.ofNat 32 (2 ^ lane))
        ∃ t y, exec (.refusalArrival gid cls r.addr lanes) s = .next t ∧ only t y ∧ t = { s with groups := t.groups, reqs := [] }
          ∧ y = { x with out := y.out, ref := y.ref }
          ∧ y.out = before ++ { o with pend := o.pend - 1, vw := o.vw ++ (List.range n).map (fun k => (32 * (reg + k) + lane, 0)) } :: after
          ∧ y.ref = some (match x.ref with
            | none => { addr := r.addr, mask := m, cls := cls }
            | some f => { f with mask := f.mask ||| m })))
    ∧ (∀ (id die : Nat) (b : Block), tget s.blocks x.blk = some b → (x.out.filter (fun o => decide (o.cls = .cp))).length < 63 → x.posted < 63 →
      let on_ := fun ls : List RLock => ∃ l ∈ ls, l.die = die
      let go := fun sl : Slot => if sl.wait = .engine id then slotAt sl (sl.pc + 4) else sl
      let op := fun cls : OCls => ({
        uid := id, cls := cls, sem := 0, regs := [], vw := [], sw := none, stores := [], zero := false, pend := 0
        fin := false, sealed := false, lanes := none, rmw := false } : Out)
      (∀ c : Copy, tget s.copies id = some c → c.gid = gid → c.blk = x.blk → c.started = false → c.ends = none → on_ c.locks →
        (∀ w ∈ c.src :: c.dsts, ∀ j, j < (trec w).units → unitFlips s { part := c.part, ctx := c.ctx, user := c.user } ((trec w).addr j) = false) →
        (∀ e ∈ s.copies, e ≠ (id, c) → e.2.started = true ∨ ¬on_ e.2.locks) → (∀ e ∈ s.nbcmds, e.2.started = true ∨ ¬on_ e.2.locks) →
        locksFree s b c.blk c.locks = true → lockQueue s id c.locks = false →
        ∃ t, exec (.engineLockRegister die) s = .next t ∧ only t { x with out := x.out ++ [op .cp], a := go x.a, b := go x.b }
          ∧ tget t.copies id = some { c with started := true } ∧ (∀ k, k ≠ id → tget t.copies k = tget s.copies k)
          ∧ t = { s with groups := t.groups, copies := t.copies, locks := s.locks ++ c.locks })
      ∧ (∀ c : NbCmd, tget s.nbcmds id = some c → c.gid = gid → c.blk = x.blk → c.started = false → on_ c.locks → c.word.getLsbD 28 = true →
        (∀ e ∈ s.nbcmds, e ≠ (id, c) → e.2.started = true ∨ ¬on_ e.2.locks) → (∀ e ∈ s.copies, e.2.started = true ∨ ¬on_ e.2.locks) →
        locksFree s b c.blk c.locks = true → lockQueue s id c.locks = false → (c.kind = 0 → ∀ e ∈ s.nblds, e.2.part ≠ c.part) →
        nbBiased s { part := c.part, ctx := c.ctx, user := c.user } c.kind c.word c.spans = false →
        (∀ u ∈ c.units, (bankQueue s (c.word.toNat % 512 * 32 + u.lane)).length < 16) →
        ∃ t, exec (.engineLockRegister die) s = .next t ∧ only t { x with posted := x.posted + 1, a := go x.a, b := go x.b }
          ∧ tget t.nbcmds id = some { c with started := true } ∧ (∀ k, k ≠ id → tget t.nbcmds k = tget s.nbcmds k)
          ∧ t = { s with groups := t.groups, nbcmds := t.nbcmds, locks := s.locks ++ c.locks }))
    ∧ (∀ (id : Nat) (c : Copy) (f : Nat → State) (before after : List Out) (o : Out), tget s.copies id = some c → c.gid = gid →
      x.out = before ++ o :: after → o.uid = c.out → o.cls = .cp → (∀ e ∈ before ++ after, e.uid ≠ o.uid) → (∀ e ∈ before, e.cls ≠ .cp) →
      (∀ e ∈ after, e.cls = .cp → e.fin = false) → c.started = true → c.waits = 0 → c.phase = 0 → c.prog = 0 → c.fails = [] → c.wfails = [] → c.ends = none →
      (∀ e ∈ before, e.pend = 0 ∧ e.stores = []) →
      let rq : Req := { part := c.part, ctx := c.ctx, user := c.user }
      let r := trec c.src
      let n := r.units
      let dest := fun k => trec (c.dsts.getD (k / n) [])
      copyRefused s c rq = none → firstS2 s rq c = none → engWaits s rq c = false →
      (∀ j node, j < n → engAcc s rq .load (r.addr j) r.unit ≠ .remote node) →
      f 0 = { s with copies := tset s.copies id { c with phase := 1 } } →
      (∀ k, k < n * c.dsts.length → ∃ from_ dst, engAcc (f k) rq .load (r.addr (k % n)) r.unit = .ok from_ ∧ poisonedT (f k) from_ r.unit = false
        ∧ let v := touch (f k) none from_ r.unit false
          engAcc v rq .store ((dest k).addr (k % n)) (dest k).unit = .ok dst ∧ (∀ core off, dst ≠ .window core off)
          ∧ f (k + 1) = writeT v dst (dest k).unit (readT (f k) from_ r.unit)) →
      let u := { tagCopy (f (n * c.dsts.length)) c (n * c.dsts.length) with locks := s.locks.filter (fun l => decide (l.op ≠ id)) }
      let ends := fun v : State => ∃ t, exec (.copyComplete id) s = .next t ∧ only t { x with out := before ++ after } ∧ tget t.copies id = none
        ∧ (∀ k, k ≠ id → tget t.copies k = tget v.copies k) ∧ t = { v with groups := t.groups, copies := t.copies }
      (c.status = none → ends u)
      ∧ ∀ at_ v, c.status = some at_ → ctxWrite u rq at_ (BitVec.ofNat 64 (r.elems % 2 ^ 40 * 2 ^ 24 + 1)) 0 = .done v → ends v)
    ∧ (x.st = .resident → ∀ side : Nat, side ≤ 1 →
      let sl := slotOf x side
      let next := setSlot x side (on side)
      let answers := fun d => setSlot (setSreg x d 0) side (on side)
      let quiet := x.ref = none ∧ x.nbwin.getLsbD 12 = false
      let left := fun (c : OCls) (n : Nat) => n = 15 ∨ (x.out.filter (fun o => decide (o.cls = c))).length ≤ n
      (∀ lim : BitVec 23, sl.wait = .counters lim → quiet →
        let k := fun j => lim.toNat / 2 ^ (4 * j) % 16
        (left .ld (k 0) ∧ left .st (k 1) ∧ left .cp (k 2) ∧ left .op (k 3) ∧ left .nb (k 4) → becomes (.waitSatisfied gid side) next)
        ∧ (¬(left .ld (k 0) ∧ left .st (k 1) ∧ left .cp (k 2) ∧ left .op (k 3) ∧ left .nb (k 4)) → exec (.waitSatisfied gid side) s = .next s))
      ∧ (∀ core i d, sl.wait = .opFree core i d → tget s.ops (core * 64 + i) = none → becomes (.waitSatisfied gid side) (answers d))
      ∧ (∀ core i w d, sl.wait = .opGrant core i w d → (∀ h ∈ s.heldAcc, storeFor s (core * 64 + i) w h = true → h.grant = none) →
        becomes (.waitSatisfied gid side) (answers d))
      ∧ (∀ (id : Nat) (e : Bind), sl.wait = .engine id → tget s.copies id = none → tget s.binds id = some e → e.gid = gid → e.side = side →
        standsStill s x = false → (∀ o ∈ e.ops, opBusy s o.2 = false) → ∃ t, exec (.waitSatisfied gid side) s = .next t
          ∧ only t (setSlot (setSreg x e.d e.handle) side (on side)) ∧ t.ops = e.ops.foldl (fun u o => tset u o.1 o.2) s.ops
          ∧ tget t.binds id = none ∧ (∀ k, k ≠ id → tget t.binds k = tget s.binds k)
          ∧ t = { s with groups := t.groups, ops := t.ops, binds := t.binds })
      ∧ (∀ d id, sl.wait = .flip d id → tget s.flips id = none → becomes (.waitSatisfied gid side) (answers d))
      ∧ (∀ core i w d (p : Oper), sl.wait = .opDisc core i (some w) d → tget s.ops (core * 64 + i) = some p →
        (∀ j, j < p.s → (entryOf p (w * p.s + j)).q = 0) → ∃ t q, exec (.waitSatisfied gid side) s = .next t ∧ only t (answers d)
        ∧ tget t.ops (core * 64 + i) = some q ∧ q = { p with entries := q.entries }
        ∧ (∀ j, entryOf q j = if w * p.s ≤ j ∧ j < w * p.s + p.s then Entry.empty else entryOf p j)
        ∧ (∀ k, k ≠ core * 64 + i → tget t.ops k = tget s.ops k) ∧ t = { s with groups := t.groups, ops := t.ops })
      ∧ (∀ sm : BitVec 4, sl.wait = .fence sm → quiet → (∀ o ∈ x.out, o.cls ≠ .ld ∧ o.cls ≠ .st) → (sm.toNat < 12 ∨ x.posted = 0) →
        becomes (.fenceComplete gid side) next)
      ∧ (sl.wait = .cwait → x.kids = 0 → becomes (.cwaitComplete gid side) next))

/-- R143, R146, R149, R150, R159, R256, R260, R265, R266, R272, R274, R277, R279: what the device does to a waiting group. The allocator
grants, parks the victim and returns it with the registers its park area holds; a barrier's next phase, a fired monitor or a
reread word ends a wait; a drained exit is EXITED; a service call's reply is read and a second-stage wait resumes. -/
def Obligations.GroupEvents : Prop :=
  ∀ (s : State) (gid : Nat) (x : Group) (b : Block) (cx : Ctx), tget s.groups gid = some x → tget s.blocks x.blk = some b →
    tget s.ctxs (b.part * 1024 + b.ctx) = some cx →
    let others := fun t : State => ∀ k, k ≠ gid → tget t.groups k = tget s.groups k
    let becomes := fun (i : Instr) (y : Group) => ∃ t, exec i s = .next t ∧ OnlyGroup s t gid y
    let on := fun side : Nat => slotAt (slotOf x side) ((slotOf x side).pc + 4)
    let go := fun sl : Slot => match sl.wait with
      | .xacq _ => slotAt sl (sl.pc + 4)
      | _ => sl
    let rq : Req := { part := b.part, ctx := b.ctx, user := false }
    let at_ := cx.park + BitVec.ofNat 64 (x.pidx * 18432)
    (∀ core n, oldestWant s core = some (gid, x, n) → x.st = .resident → n - x.held ≤ freeExt s core →
      becomes (.xacqGrant core) { x with held := max x.held n, xreq := none, a := go x.a, b := go x.b })
    ∧ (∀ core u, allocDeadlock s core = true → allocVictim s core = some gid → (∀ o ∈ x.out, o.cls ≠ .ld ∧ o.cls ≠ .st ∧ o.stores = []) →
      devWrite2 s rq at_ (parkHead x 1 0) (at_ + 0x800) (parkRegs x) = .done u →
      ∃ t y, exec (.allocatorPark core) s = .next t ∧ tget t.groups gid = some y ∧ others t
        ∧ t = { u with groups := t.groups, copies := t.copies, nbcmds := t.nbcmds, binds := t.binds, nblds := t.nblds }
        ∧ ((∀ id, x.a.wait ≠ .engine id ∧ x.b.wait ≠ .engine id) → t = { u with groups := t.groups })
        ∧ y.st = .parked ∧ y.reason = 1 ∧ y.a = Slot.free ∧ y.b = Slot.free ∧ y.v = [] ∧ y.s = [] ∧ y.p = [] ∧ y.stack = [])
    ∧ (∀ core n w vw, oldestWant s core = some (gid, x, n) → x.st = .parked → x.reason = 1 → n ≤ freeExt s core → x.susp = [] → x.held ≤ 3 →
      devRead s rq at_ 256 = .done w → devRead s rq (at_ + 0x800) (16 * (32 + 32 * x.held)) = .done vw →
      let a := readSlot (w.drop 8)
      (w.getD 0 0).toNat / 2 ^ 16 % 256 = 0 → a.live = true → a.exec ≠ 0 → mrValid a.mr = true → pcValid a.pc = true →
      (a.jp = true → pcValid a.jpc = true) → (w.getD 13 0).getLsbD 27 = false →
      ∃ y, becomes (.allocatorReturn core) y ∧ y.st = .resident ∧ y.core = core ∧ y.gslot = x.gslot ∧ y.age = x.age
        ∧ y.a = (if (w.getD 9 0).getLsbD 28 then { a with wait := .resume } else a) ∧ y.b = Slot.free
        ∧ y.stack = [] ∧ y.held = (if x.xreq.isSome then max x.held n else x.held) ∧ y.out = x.out
        ∧ (∀ r, r < 24 → sreg y r = w.getD (16 + r) 0)
        ∧ (∀ r, r < 7 → preg y r = BitVec.ofNat 32 ((w.getD (40 + r / 2) 0).toNat / 2 ^ (32 * (r % 2))))
        ∧ ∀ r l, r < 32 + 32 * x.held → l < 32 → vreg y r l = BitVec.ofNat 32 ((vw.getD (16 * r + l / 2) 0).toNat / 2 ^ (32 * (l % 2))))
    ∧ (∀ side, side ≤ 1 → x.st = .resident →
      (∀ k phase, (slotOf x side).wait = .barWait k phase →
        let now := (b.bars.getD k { phase := 0, arrived := [], expect := none, gathering := false }).phase
        (now ≠ phase → becomes (.barrierWaitEnd gid side) (setSlot x side (on side)))
        ∧ (now = phase → exec (.barrierWaitEnd gid side) s = .next s)))
    ∧ (∀ side d id m v, side ≤ 1 → x.st = .resident → watchSide x = side → (slotOf x side).wait = .watchMon d id → tget b.mons id = some m →
      m.cap = some v → ∃ t, exec (.monitorResume gid) s = .next t ∧ tget t.groups gid = some (setSlot (setSreg x d v) side (on side)) ∧ others t
        ∧ tget t.blocks x.blk = some { b with mons := tdel b.mons id } ∧ (∀ k, k ≠ x.blk → tget t.blocks k = tget s.blocks k)
        ∧ t = { s with groups := t.groups, blocks := t.blocks })
    ∧ (∀ side d va n cond v t pte, side ≤ 1 → x.st = .resident → watchSide x = side → (slotOf x side).wait = .watchPoll d va n cond v →
      checkAcc { s with locks := [], ops := [] } (reqOf s x) .load va n va.toNat n = .ok t pte → elsewhere t = false → (∀ j m, t ≠ .nbctl j m) →
      ownWordHits s gid t = false → poisonedT s t n = false → let old := BitVec.ofNat 64 (readT s t n)
      (watchHolds cond n old v = true → ∃ u, exec (.watchReread gid) s = .next u
        ∧ OnlyGroup { s with co := u.co } u gid (setSlot (setSreg x d old) side (on side)))
      ∧ (watchHolds cond n old v = false → exec (.watchReread gid) s = .next s))
    ∧ (∀ k h, x.st = .exiting → x.out = [] → k ≠ gid → tget s.groups k = some h → h.blk = x.blk → h.wgid = x.wgid → h.st = .resident →
      rgbAt h = none → b.joint = false → ∃ t, exec (.groupExitComplete gid) s = .next t ∧ others t
        ∧ tget t.groups gid = some { x with st := .exited, a := Slot.free, b := Slot.free, v := [], s := [], p := [], held := 0, stack := [] }
        ∧ t = { s with groups := t.groups, blocks := t.blocks })
    ∧ (∀ id r, requestOf s gid = some (id, r) → r.hit = true → r.woken = false →
      let woken := fun w => ∃ t, exec (.serviceWake gid) s = .next t ∧ tget t.svcreqs id = some { r with woken := true, reply := w }
        ∧ (∀ k, k ≠ id → tget t.svcreqs k = tget s.svcreqs k) ∧ t = { s with svcreqs := t.svcreqs }
      (0x400000 ≤ r.kind → woken [])
      ∧ ∀ w, r.kind < 0x400000 → devRead s { part := r.part, ctx := r.ctx, user := false } (r.slot + 0x840) 256 = .done w → woken w)
    ∧ ∀ core die page w vw, x.st = .parked → x.reason = 5 → x.s2at = some (die, page) → (b.part, die, page) ∉ s.s2wait →
      resumeCore s gid x b = some core → x.susp = [] → x.held ≤ 3 → devRead s rq at_ 256 = .done w →
      devRead s rq (at_ + 0x800) (16 * (32 + 32 * x.held)) = .done vw →
      let a := readSlot (w.drop 8)
      (w.getD 0 0).toNat / 2 ^ 16 % 256 = 0 → a.live = true → a.exec ≠ 0 → mrValid a.mr = true → pcValid a.pc = true →
      (a.jp = true → pcValid a.jpc = true) → (w.getD 13 0).getLsbD 27 = false →
      ∃ t y, exec (.serviceResume gid) s = .next t ∧ tget t.groups gid = some y ∧ others t ∧ t = { s with groups := t.groups, uid := s.uid + 1 }
        ∧ y.st = .resident ∧ y.core = core ∧ y.age = s.uid
        ∧ y.a = (if (w.getD 9 0).getLsbD 28 then { a with wait := .resume } else a) ∧ y.s2at = none ∧ ∀ r, r < 24 → sreg y r = w.getD (16 + r) 0

/-- R124, R127 to R129, R132, R354 to R358, R360 to R364: the dispatcher and its queues. A queue is enabled with its record, follows TAIL, reads
its head into a QUEUED or ELIGIBLE grid, and goes to OFF; the first candidate's grid is admitted or refused; its next block is
placed with fresh groups; a block returns; a candidate passed over 64 times reserves a run. -/
def Obligations.DispatchEvents : Prop :=
  ∀ (s : State) (p : Nat) (pt : Part), tget s.parts p = some pt →
    (∀ q, q < 256 →
      let k := p * 256 + q
      let at_ := pt.qtab + BitVec.ofNat 64 (64 * q)
      let tells := fun (u : State) (w : List DWord) (v : State) => devWrite u { part := p, ctx := 0, user := false } (at_ + 24) w = .done v
      (∀ w v, (∀ x, tget s.queues k = some x → x.st = .off ∧ x.en = false) → queueRecord s p q = some w → (w.getD 1 0).getLsbD 0 = true → (w.getD 1 0).toNat / 2 ^ 4 % 16 ≤ 12 →
        w.getD 1 0 &&& 0xFFFFFC00FFFFFE0E#64 = 0 → ctxLive s p ((w.getD 1 0).toNat / 2 ^ 32 % 2 ^ 10) = true →
        tells { s with queues := tset s.queues k {
          st := .active, tail := w.getD 3 0, head := w.getD 3 0, cause := 0, haddr := 0, ring := w.getD 0 0
          ctx := (w.getD 1 0).toNat / 2 ^ 32 % 2 ^ 10, logn := (w.getD 1 0).toNat / 2 ^ 4 % 16, serial := (w.getD 1 0).getLsbD 8
          grid := none, prev := (tget s.queues k).bind (fun x => x.prev), en := true } } [w.getD 3 0, 1, 0] v → exec (.queueEnable p q) s = .next v)
      ∧ ∀ x : Queue, tget s.queues k = some x →
        (∀ w, queueRecord s p q = some w → (w.getD 1 0).getLsbD 0 = false → x.en = true → x.st ≠ .off →
          ∃ t, exec (.queueDisable p q) s = .next t ∧ tget t.queues k = some { x with st := .off, en := false, grid := none }
            ∧ (∀ j, j ≠ k → tget t.queues j = tget s.queues j) ∧ (∀ n, x.grid = some n → tget t.grids n = none))
        ∧ (∀ w, queueRecord s p q = some w → x.st = .active → x.grid = none → w.getD 2 0 ≠ x.tail →
          let t := (w.getD 2 0).toNat
          (x.tail.toNat ≤ t → t - x.head.toNat ≤ 2 ^ x.logn →
            exec (.queueTailRaise p q) s = .next { s with queues := tset s.queues k { x with tail := w.getD 2 0 } })
          ∧ (t < x.tail.toNat ∨ 2 ^ x.logn < t - x.head.toNat → ∃ t, exec (.queueTailRaise p q) s = .next t
            ∧ tget t.queues k = some { x with st := .halted, cause := 3, haddr := 0 }))
        ∧ ∀ w, x.st = .active → x.grid = none → x.tail ≠ x.head → ctxServed s p x.ctx = true → x.serial = false →
          let at_ := x.ring + BitVec.ofNat 64 (x.head.toNat % 2 ^ x.logn * 128)
          dispRead s { part := p, ctx := x.ctx, user := false } at_ 16 = .words w → ∃ t g, exec (.queueRecordRead p q) s = .next t
            ∧ tget t.grids s.uid = some g ∧ g.part = p ∧ g.ctx = x.ctx ∧ g.src = .queue q ∧ g.addr = at_ ∧ g.lrec = w ∧ g.depth = 1 ∧ g.next = 0
            ∧ g.st = (if depsMet s p w then .eligible else .queued)
            ∧ tget t.queues k = some { x with grid := some s.uid, st := if depsMet s p w then .active else .blocked })
    ∧ (∀ n g q, tget s.grids n = some g → g.part = p → g.st = .queued → g.src = .queue q → depsMet s p g.lrec = true →
      ∃ t, exec (.notifyDependenceMet n) s = .next t ∧ tget t.grids n = some { g with st := .eligible } ∧ t.groups = s.groups)
    ∧ ∀ (d : Disp) (u : State) (c : Cand), decider s p = some (d, u) → candidates u p d = [c] →
      let decisions := fun t : State => ∃ y, tget t.disps p = some y ∧ y.decisions = d.decisions + 1
      (d.reserving = none → d.waiters = [] →
        (∀ n g q x, c.ask = .enter n → tget u.grids n = some g → g.part = p → g.src = .queue q → tget u.queues (p * 256 + q) = some x →
          let passed := fun t : State => tget t.queues (p * 256 + q) = some { x with head := x.head + 1, grid := none, prev := some n }
          (∀ i, badRecord (capOn u p capNotify) false g.lrec = some i → x.st ≠ .blocked → ∃ t, exec (.dispatchAdmit p) s = .next t
            ∧ tget t.grids n = none ∧ passed t ∧ decisions t)
          ∧ ∀ e sl, badRecord (capOn u p capNotify) false g.lrec = none → checkLaunch u g = .ok e sl → fitsEmpty u n g e sl = true →
            lrecResident g.lrec = false → ∃ t, exec (.dispatchAdmit p) s = .next t
            ∧ tget t.grids n = some { g with st := .placing, passed := 0 } ∧ passed t ∧ t.groups = s.groups ∧ decisions t)
        ∧ (∀ n g e sl (x : Spot), c.ask = .place n → tget u.grids n = some g → g.part = p → isService g = false →
          (∀ b ∈ u.blocks, b.2.part = p → b.2.stop = false) → checkLaunch u g = .ok e sl → spotOf u g e (lrecPrio g.lrec) = some x →
          let v := e.variants.getD x.variant noVariant
          ∃ t bl, exec (.dispatchPlaceBlock p) s = .next t ∧ tget t.blocks s.uid = some bl ∧ bl.grid = n ∧ bl.lin = g.next ∧ bl.variant = x.variant
            ∧ bl.desc = e ∧ bl.slots = sl ∧ bl.vcores.length = x.run.length
            ∧ tget t.grids n = some { g with
                next := g.next + 1, live := g.live + 1, passed := 0, st := if g.next + 1 = lrecBlocks g.lrec then .running else .placing }
            ∧ decisions t ∧ ∀ i, i < v.wgs * v.groups → ∃ h, tget t.groups (s.uid + 1 + i) = some h ∧ h.blk = s.uid ∧ h.idx = i
              ∧ h.wgid = i / v.groups ∧ h.grpid = i % v.groups ∧ h.core = x.run.getD (i / v.groups) 0 ∧ h.pidx = x.parks.getD i 0
              ∧ h.a = { Slot.free with live := true, pc := v.entry, exec := 0xFFFFFFFF, mr := 7 } ∧ h.b = Slot.free ∧ h.v = [] ∧ h.p = []
              ∧ sreg h 0 = g.lrec.getD 7 0 ∧ sreg h 1 = spadAddr (bl.vcores.getD (i / v.groups) 0) (bl.spadOff.getD (i / v.groups) 0)
              ∧ (∀ r, 2 ≤ r → r < 24 → sreg h r = 0) ∧ h.st = .resident ∧ h.hlev = 0 ∧ h.out = [])
        ∧ ∀ k x cx v, c.ask = .ret k → tget u.blocks k = some x → lostCore u x = false → returnFits u k x (heldCores u x.part x.prio (some (.ret k))) = true →
          ctxOf u x = some cx → restoreSpads u k x cx = .done v →
          (∀ h ∈ groupsOf u k, h.2.st ≠ .parked ∨ (h.2.reason ≠ 3 ∧ h.2.reason ≠ 4)) → ∃ t, exec (.dispatchReturnBlock p) s = .next t
            ∧ tget t.blocks k = some { x with swapped := false, claimed := false, marked := none, passed := 0 } ∧ decisions t
            ∧ t = { v with blocks := t.blocks, disps := t.disps })
      ∧ ∀ w rest y v run, d.reserving = none → d.waiters = w :: rest → c.src = w → 64 ≤ passedOf u c → reserveFor u p c = .ok (some (v, run)) →
        occupants s run = [] → tget s.disps p = some y → ∃ t, exec (.gangReserve p) s = .next t
          ∧ tget t.disps p = some { y with waiters := rest, reserving := some { src := w, prio := c.prio, variant := v, cores := run } }
          ∧ (∀ j, j ≠ p → tget t.disps j = tget s.disps j) ∧ t = { s with disps := t.disps }

/-- R297, R299, R302 to R304, R308, R318, R321, R322, R326, R327: operators. A store that arrives at its owner fills the entry's bytes, and the one
that completes the vector queues a pass on it; without a grant it is refused. A load of a READY entry takes its bytes, and may
consume it. A macro's step adds one tile's products to the cells; the last step done, the pass ends with its entry READY. -/
def Obligations.OperatorEvents : Prop :=
  ∀ (s : State) (core key : Nat) (o : Oper), tget s.ops key = some o → o.st = .bound →
    let opsNow := fun (t : State) (p : Oper) => tget t.ops key = some p ∧ p = { o with entries := p.entries } ∧ ∀ k, k ≠ key → tget t.ops k = tget s.ops k
    (∀ (before after : List HeldAcc) (h : HeldAcc) (l : StLane) (a : WinAt), s.heldAcc = before ++ h :: after → s.inreqs = [] →
      (∀ y ∈ before, y.core ≠ core) → h.core = core → h.lanes = [l] → h.req = none → h.grant = none → heldOwner s h l = some (key, o, a) →
      let e := entryOf o a.entry
      let others := fun p : Oper => ∀ j, j ≠ a.entry → entryOf p j = entryOf o j
      let answered := fun (t : State) (f : Group → Out → Out) (r : Group → Group) => ∀ g uid x, h.who.gid = some (g, uid) → tget s.groups g = some x →
        tget t.groups g = some { r x with out := (r x).out.map (fun w => if w.uid = uid then f x w else w) }
      let ends := fun w : Out => { w with pend := w.pend - 1 }
      (∀ i : Instr, h.load = false → a.input = true → (i = .operatorInputStore core ∧ h.held = false) ∨ (i = .heldStoreApply core ∧ h.held = true) →
        let bytes := ((List.range l.size).map (· + a.byte)).filter (fun k => decide (k < opUb o))
        let data := fun k => BitVec.ofNat 8 (l.data.toNat / 2 ^ (8 * (k - a.byte)))
        let filled := fun k => k ∈ e.fill ∨ k ∈ bytes
        (grantOk key o (a.entry / o.s) h.who = false → ∃ t, exec i s = .next t ∧ t.ops = s.ops ∧ t.heldAcc = before ++ after
          ∧ answered t (fun _ => ends) (fun x => addRefusal x l.addr ((outLanes x ((h.who.gid.map Prod.snd).getD 0)).getD (BitVec.ofNat 32 (2 ^ l.lane)))
              (refClass (outClass x ((h.who.gid.map Prod.snd).getD 0)))))
        ∧ (grantOk key o (a.entry / o.s) h.who = true → (∀ k ∈ bytes, k ∉ e.fill) → bytes ≠ [] → e.r = false →
          (e.fill = [] → e.q = 0 ∨ o.overwrite = true) →
          ((∃ k, k < opUb o ∧ ¬filled k) → ∃ t p, exec i s = .next t ∧ opsNow t p ∧ others p ∧ t.heldAcc = before ++ after
            ∧ (entryOf p a.entry).q = e.q ∧ (entryOf p a.entry).r = false ∧ (∀ k, k ∈ (entryOf p a.entry).fill ↔ k < opUb o ∧ filled k)
            ∧ (∀ k, mget (entryOf p a.entry).staged k = if k ∈ bytes then data k else mget e.staged k)
            ∧ answered t (fun _ => ends) id)
          ∧ ((∀ k, k < opUb o → filled k) → placesFree s o = true → h.who.gid = none → ∃ t p q, exec i s = .next t ∧ opsNow t p ∧ others p
            ∧ t.heldAcc = before ++ after ∧ entryOf p a.entry = { e with q := e.q + 1, fill := [], staged := [] }
            ∧ tget t.passes s.uid = some q ∧ q.op = key ∧ q.entry = a.entry ∧ q.tiles = passTiles s o ∧ q.cells = [] ∧ q.arrived = [] ∧ q.gid = none
            ∧ (fsROT (o.slot.getD 0 0) = false → ∀ k, k < opUb o → mget q.input k = if k ∈ bytes then data k else mget e.staged k)
            ∧ ∀ k, k ≠ s.uid → tget t.passes k = tget s.passes k)))
      ∧ (∀ g uid x, h.load = true → a.input = false → readOk key o (a.entry / o.s) h.who = true → e.q = 0 → h.reg < 200 → h.who.gid = some (g, uid) →
        tget s.groups g = some x →
        let n := (l.size + 3) / 4
        let reads := fun (v : Nat) (t : State) (r : Group → Group) => answered t (fun _ w => { w with
          pend := w.pend - 1, vw := w.vw ++ (List.range n).map (fun k => (32 * (h.reg + k) + l.lane, BitVec.ofNat 32 (v / 2 ^ (32 * k)))) }) r
        (e.r = true → ∃ t p, exec (.operatorResultLoad core) s = .next t ∧ opsNow t p ∧ others p ∧ t.heldAcc = before ++ after
          ∧ entryOf p a.entry = (if h.consume then { e with r := false, result := [] } else e) ∧ reads (mbytes e.result a.byte l.size) t id)
        ∧ (e.r = false → o.zeroabs = true → ∃ t p, exec (.operatorResultLoad core) s = .next t ∧ opsNow t p ∧ others p
          ∧ entryOf p a.entry = e ∧ reads 0 t (fun x => { x with opst := x.opst ||| 1 }))))
    ∧ ∀ (pid : Nat) (p : Pass), tget s.passes pid = some p → p.op = key →
      let rest := fun t : State => ∀ k, k ≠ pid → tget t.passes k = tget s.passes k
      (∀ mac j mk tile m, choosePass s core mac = some pid → passTileAt s core mac p = some (j, mk, tile) → tget s.ops mk = some m →
        let w := m.slot.getD 0 0
        let kt := tile % shareKT m
        let nt := tile / shareKT m
        let rows := min 128 (m.sk - 128 * kt)
        let cols := min 64 (m.sn - 64 * nt)
        let base := skey core (m.deck + tile * opTile m)
        let weight := fun r q => packedVal (fsWFMT w) (slotCodebook m.slot) (fun i => (mget s.spad (base + i)).toNat) (r * 64 + q)
        let inp := packedVal (inFmt o) (slotCodebook m.slot) (fun i => (mget p.input i).toNat)
        let add := fun (c : BitVec 128) (x y : FVal) => BitVec.ofNat 128 (cellBits (a96Add (fsL w) (cellOf c.toNat) (fMulV x y)))
        ∃ t q, exec (.tileStep core mac) s = .next t ∧ tget t.passes pid = some q ∧ t = { s with passes := t.passes, arbLast := t.arbLast, arbSkips := t.arbSkips }
          ∧ (∀ k u, k ≠ pid → tget s.passes k = some u → ∃ v, tget t.passes k = some v ∧ v = { u with skips := v.skips })
          ∧ q.tiles = p.tiles.filter (fun x => decide (x ≠ (j, tile))) ∧ q.input = p.input ∧ q.arrived = p.arrived ∧ q.gid = p.gid
          ∧ (o.trans = false → ∀ c, c < cols → let at_ := m.n0 + 64 * nt + c
            mget q.cells (j * 65536 + at_) = (List.range rows).foldl (fun a r => add a (inp (m.k0 + 128 * kt + r)) (weight r c)) (mget p.cells (j * 65536 + at_)))
          ∧ (o.trans = true → ∀ r, r < rows → let at_ := m.k0 + 128 * kt + r
            mget q.cells (j * 65536 + at_) = (List.range cols).foldl (fun a c => add a (inp (m.n0 + 64 * nt + c)) (weight r c)) (mget p.cells (j * 65536 + at_))))
      ∧ (∀ stripe, key / 64 = core → stripe ≠ 0 → stripe < o.members.length → stripe ∉ p.arrived → (∀ x ∈ p.tiles, x.1 ≠ stripe) →
        (∀ e ∈ s.passes, e = (pid, p) ∨ e.2.op / 64 ≠ core) →
        ∃ t, exec (.trussCellsArrive core stripe) s = .next t ∧ tget t.passes pid = some { p with arrived := p.arrived ++ [stripe] } ∧ rest t
          ∧ t = { s with passes := t.passes })
      ∧ (key / 64 = core → p.tiles = [] → p.poisoned = false → (∀ j, 0 < j → j < o.members.length → j ∈ p.arrived) →
        (∀ e ∈ s.passes, e.1 < pid → e.2.op = key → e.2.entry ≠ p.entry) →
        let e := entryOf o p.entry
        let n := opResElem o
        let w := o.slot.getD 0 0
        let value := fun k => let c := passCell p o k
          if o.raw then cellBits c else a96Drain (fsL w) (fsDSH w) (fsDSAT w) (dfmtOfCode (fsDFMT w)) c (match o.scale with
            | some a => fDecode .bf16 (mbytes s.spad (skey core (a + 2 * k)) 2)
            | none => .fin false 1 0)
        ∃ t q, exec (.passEnd core pid) s = .next t ∧ opsNow t q ∧ (entryOf q p.entry).q = e.q - 1 ∧ (entryOf q p.entry).r = true
          ∧ (∀ j, j ≠ p.entry → entryOf q j = entryOf o j)
          ∧ (∀ k, k < opN o → mbytes (entryOf q p.entry).result (k * n) n = value k % 2 ^ (8 * n))
          ∧ tget t.passes pid = none ∧ rest t ∧ t = { s with ops := t.ops, passes := t.passes, groups := t.groups }
          ∧ (∀ k, (∀ u, p.gid ≠ some (k, u)) → tget t.groups k = tget s.groups k)
          ∧ ∀ (g uid : Nat) (x : Group) (y z : List Out), p.gid = some (g, uid) → tget s.groups g = some { x with out := y ++ z } → (∀ v ∈ y, v.uid = uid ∧ v.cls = .op) → y.length = 1 →
            (∀ v ∈ z, v.uid ≠ uid ∧ v.cls ≠ .op) → tget t.groups g = some { x with out := z })

/-- R217, R218, R223, R226, R228, R335, R337, R341, R342, R344 to R346: near-bank commands and the device's paging. A command at the head of its bank prepares,
runs once no unit is queued, writes its rows, and completes with its locks released and its failure noted; Quinmin resolves or
refuses a second-stage failure; a flip to device bias snoops the host first, and a flip ends with BIAS changed; an invalidation is
answered. -/
def Obligations.BankAndPageEvents : Prop :=
  ∀ (s : State),
    (∀ (id : Nat) (c : NbCmd), tget s.nbcmds id = some c →
      let die := nwDie c.word
      let now := fun (t : State) (d : NbCmd) => tget t.nbcmds id = some d ∧ ∀ k, k ≠ id → tget t.nbcmds k = tget s.nbcmds k
      let unit := fun (u v : NbUnit) => { c with units := c.units.map (fun x => if x.lane = u.lane then v else x) }
      let row := fun (pages : List Nat) (k : Nat) => hkey die (pages.getD (k / 8) 0 + k % 8 * 1024)
      let plain := fun pages : List Nat => pages.Nodup ∧ ∀ p ∈ pages, p % 8192 = 0
      (∀ stack bank u rest a b, bankQueue s (stack * 2048 + bank) = (id, u) :: rest → u.st = .queued →
        c.spans.find? (fun x => decide (x.1 = u.lane)) = some (u.lane, a, b) → c.kind ≠ 1 →
        let tr := spanTr s { part := c.part, ctx := c.ctx, user := c.user } (if c.kind = 0 then .amo else .store) c.word u.lane a
        (∀ ps, tr = .ok ps → ∃ t, exec (.nbQueueHead stack bank) s = .next t
          ∧ now t (unit u { u with st := .preparing, src := ps, dst := [] }) ∧ t = { s with nbcmds := t.nbcmds })
        ∧ ∀ code, tr = .bad code → ∃ t, exec (.nbQueueHead stack bank) s = .next t
          ∧ now t (unit u { u with st := .ended, code := code }) ∧ t = { s with nbcmds := t.nbcmds })
      ∧ (c.started = true → (∀ u ∈ c.units, u.st ≠ .queued) → c.kind = 0 → ∃ t, exec (.nbPreparationDone id) s = .next t
        ∧ now t { c with units := c.units.map (fun u => if u.st = .preparing then
            (if (List.range (8 * u.src.length)).all (fun k => (rowPoison s die (rowAt u.src k)).isEmpty) then { u with st := .running }
              else { u with st := .ended, code := 7 }) else u) }
        ∧ t = { s with nbcmds := t.nbcmds, co := t.co })
      ∧ (∀ lane u, c.units.find? (fun u => decide (u.lane = lane)) = some u → u.st = .running → plain u.src →
        let kept := fun (t : State) (pages : List Nat) => ∀ a, (∀ p ∈ pages, a < hkey die p ∨ hkey die p + 8192 ≤ a) → mget t.hbm a = mget s.hbm a
        let only := fun t : State => t = { s with nbcmds := t.nbcmds, hbm := t.hbm, poison := t.poison, ctag := t.ctag }
        (c.kind = 2 → ∃ t, exec (.nbUnitEnd id lane) s = .next t ∧ now t (unit u { u with st := .ended, code := 1 }) ∧ only t ∧ kept t u.src
          ∧ ∀ p j, p ∈ u.src → j < 8192 → mget t.hbm (hkey die p + j) = 0)
        ∧ (c.kind = 1 → plain u.dst → u.dst.length = u.src.length → (∀ p ∈ u.src, p ∉ u.dst) →
          (∀ k, k < 8 * u.src.length → rowPoison s die (rowAt u.src k) = []) →
          ∃ t, exec (.nbUnitEnd id lane) s = .next t ∧ now t (unit u { u with st := .ended, code := 1 }) ∧ only t ∧ kept t u.dst
            ∧ ∀ k j, k < 8 * u.src.length → j < 1024 → mget t.hbm (row u.dst k + j) = mget s.hbm (row u.src k + j)))
      ∧ (∀ ip, c.at? = some ip → c.issued + 1 = 2 ^ 24 → fetchNb s c ip ≠ 0 → ∃ t d, exec (.nbIssueLimit id) s = .next t ∧ now t d ∧ t = { s with nbcmds := t.nbcmds }
        ∧ d.units = c.units.map (fun u => if u.st = .running then { u with st := .stopped, code := 8 } else u))
      ∧ (∀ x, c.started = true → (∀ u ∈ c.units, u.st = .ended ∨ u.st = .stopped) → c.status = none → c.word.getLsbD 28 = true →
        tget s.groups c.gid = some x → x.st = .resident →
        let code := match c.units.find? (fun u => decide (u.code ≠ 1)) with
          | some u => u.code
          | none => 1
        let failed := maskOf (fun l => c.units.any (fun u => decide (u.lane = l) && decide (u.code ≠ 1)))
        let window := fun i => if code = 8 then i else 0xFFF
        ∃ t, exec (.nbCommandComplete id) s = .next t ∧ tget t.nbcmds id = none ∧ (∀ k, k ≠ id → tget t.nbcmds k = tget s.nbcmds k)
          ∧ t.locks = s.locks.filter (fun l => decide (l.op ≠ id)) ∧ (∀ k, k ≠ c.gid → tget t.groups k = tget s.groups k)
          ∧ tget t.groups c.gid = some { x with
              posted := x.posted - 1
              nbwin := if code = 1 then x.nbwin else if x.nbwin.getLsbD 12 then x.nbwin ||| BitVec.ofNat 64 (failed.toNat * 2 ^ 32)
                else BitVec.ofNat 64 (failed.toNat * 2 ^ 32 + code * 2 ^ 28 + window c.last * 2 ^ 16 + window c.first) ||| 0x1000 }
          ∧ t.hbm = s.hbm ∧ t.spad = s.spad ∧ t.host = s.host))
    ∧ (∀ (p : Nat) (ia leaf : BitVec 64), let die := vaDie ia
      let off := vaOff ia
      let key := (p, die, off / 8192)
      s.devq = [] → s.inreqs = [] → key ∈ s.s2wait →
      (exec (.stage2Resolve p ia leaf false) s = .next { s with s2wait := s.s2wait.filter (fun x => decide (x ≠ key)), s2refused := s.s2refused ++ [key] })
      ∧ (∀ root k pa, s2rootOf s p die = some root → s2slot s.hbm die off 4 (pteOff root) = some (k, pa) → pteV leaf = true → pteT leaf = false →
        let u := writeT s (.hbm die pa) 8 leaf.toNat
        (s2translate u p die off).isSome = true → exec (.stage2Resolve p ia leaf true) s = .next { u with
          s2wait := s.s2wait.filter (fun x => decide (x ≠ key)), s2refused := s.s2refused.filter (fun x => decide (x ≠ key)) }))
    ∧ (∀ (p : Nat) (ia : BitVec 64), (∀ k g, (k, g) ∈ s.groups → ∀ o ∈ g.out, o.stores = []) →
      let hits := fun t : Stale => decide (t.part = p) && decide (t.die = vaDie ia)
        && framesMeet t.die (frameNum t.pte) (leafSize (3 - t.lvl) / 8192) t.die (vaOff ia / 8192) 1
      exec (.secondStageInvalidation p ia) s = .next { s with
        stale := s.stale.map (fun t => if hits t then { t with used := false } else t), s2old := s2left s p (vaDie ia) (vaOff ia) })
    ∧ (∀ (id : Nat) (f : Flip) (pa : Nat), tget s.flips id = some f → f.run = false → f.host = none → s.inreqs = [] → s.devq = [] →
      (∀ fn, fn < 16 → (mget s.biasreq fn).toNat % 4 ≠ 1) → flipLocked s f (leafSize (3 - f.lvl)) = false →
      slotOfLeaf s f.part f.ctx f.die f.off (3 - f.lvl) = .slot pa →
      let old := rdPte s.hbm f.die pa
      (f.toHost = false → f.snoop = 0 → ∃ t g, exec (.biasFlipEnd id) s = .next t ∧ tget t.flips id = some g ∧ g = { f with snoop := g.snoop }
        ∧ t.hbm = s.hbm ∧ t.stale = s.stale ∧ ∀ ph, (s2translate s f.part f.die (pteOff old)).map Prod.fst = some ph →
          CHost.biSnpInv f.die ph (leafSize (3 - f.lvl)) ∈ t.co.tell)
      ∧ (f.toHost = true ∨ f.snoop = 2 → ∃ t, exec (.biasFlipEnd id) s = .next t ∧ tget t.flips id = none ∧ (∀ k, k ≠ id → tget t.flips k = tget s.flips k)
        ∧ rdPte t.hbm f.die pa = (if f.toHost then old ||| 0x800 else old &&& ~~~0x800)
        ∧ (∀ a, a < hkey f.die pa ∨ hkey f.die pa + 8 ≤ a → mget t.hbm a = mget s.hbm a)
        ∧ t.stale = s.stale.map (fun t => if decide (t.part = f.part) && decide (t.ctx = f.ctx) && staleIn t f.die f.off (leafSize (3 - f.lvl))
            then { t with used := false } else t)
        ∧ ∀ g x d, tget s.groups g = some x → x.st = .resident → x.a.wait = .flip d id → (∀ d k, x.b.wait ≠ .flip d k) →
          tget t.groups g = some { setSreg x d 0 with a := slotAt x.a (x.a.pc + 4) }))
    ∧ ∀ (pasid : Nat) (addr : BitVec 64), s.reqs = [] → s.devq = [] →
      let page := vaOff addr / 4096
      ∃ t, exec (.atsInvalidation pasid addr) s = .next t ∧ t.sent = s.sent ++ [.atsDone pasid] ∧ t = { s with sent := t.sent, hostRefused := t.hostRefused }
        ∧ (Config.hostMaps s.clock page = true → (pasid, page) ∉ t.hostRefused) ∧ (Config.hostMaps s.clock page = false → (pasid, page) ∈ t.hostRefused)
        ∧ ∀ x, x ≠ (pasid, page) → (x ∈ t.hostRefused ↔ x ∈ s.hostRefused)

/-- R235 to R246: coherence. A cache asks for what its own copy does not give it, at its home slice, or at the RDC of its die for a line
homed elsewhere. A place takes a request on an idle line at once and queues one on a busy line; it probes the owner, or every holder that
its tracking names; an RDC that cannot serve asks the home, and the port asks the host. A probed cache supplies data if it owns the line or
still has it to write back, else it acknowledges; with the last answer the place sends Cmp and lists the outcome; a requester that holds data
and Cmp takes the line, and the line is idle again. WBD and EVC free a copy and are acknowledged, in the line's turn. The snoops of the host
probe the RDCs that the port names. -/
def Obligations.CoherenceEvents : Prop :=
  ∀ (s : State) (cache line : Nat), cache < 1028 →
    let c := s.co
    let k := ckey line cache
    let p := placeFor cache line
    let slice := sliceOf s line
    let goes := fun (i : Instr) (d : Coh) => exec i s = .next { s with co := d }
    let has := fun kind : CKind => ({ kind := kind, cache := cache, line := line } : CMsg) ∈ c.cmsgs
    let left := fun kind : CKind => c.cmsgs.erase { kind := kind, cache := cache, line := line }
    let msg := fun (kind : CKind) (x : Nat) => ({ kind := kind, cache := x, line := line } : CMsg)
    let busy := fun place : Nat => ∃ x ∈ c.ctxn, x.line = line ∧ x.place = place
    let stuck := ∀ q ∈ c.cqueue, heldUp c q = true
    let probed := fun (place : Nat) (share : Bool) (req but : Nat) =>
      let owner := match ownerAt c place line with
        | some (o, _) => if o = req then [] else [o]
        | none => []
      let l := named c place line but
      if share then owner else if owner.all (fun o => l.contains o) then l else owner ++ l
    let asks := fun (r : CReqK) (place req : Nat) (up : Bool) => ({
      line := line, place := place, req := req, kind := r, probes := [], sent := false, keep := false, grant := 0, up := up, slice := slice } : CTx)
    let own := mget c.cst k
    ((∀ w ∈ c.cwait, w.line = line → w.cache ≠ cache) → canHold s cache line = true →
      ∀ (i : Instr) (r : CReqK), (i = .rds cache line ∧ r = .rds) ∨ (i = .rdx cache line ∧ r = .rdx) ∨ (i = .upg cache line ∧ r = .upg) →
      let needs := if r = .rds then own = 0 else own ≠ Machine.stM ∧ own ≠ stE ∧ cache < 516
      (¬needs → exec i s = .next s) ∧ (needs →
      let waiting := fun d : Bool => c.cwait ++ [{ line := line, cache := cache, data := d, cmp := false }]
      (busy p → stuck → goes i { c with cqueue := c.cqueue ++ [asks r p cache false], cwait := waiting false })
      ∧ (p = 0 → hostLine line = false → ¬busy 0 → c.cqueue = [] →
        let asked := probed 0 (decide (r = .rds)) cache (cacheCore cache)
        let kept := decide (r = .upg) && (decide (own = stS) || decide (own = stO)) && (named c 0 line 2048).contains cache
        let grant := if r ≠ .rds then Machine.stM else if named c 0 line (cacheCore cache) = [] ∧ cache < 516 then stE else stS
        (mget c.dir (line / 4) ≠ 0 ∨ victim s c line slice = none →
          (asked ≠ [] → goes i { c with
            ctxn := c.ctxn ++ [{ asks r 0 cache false with probes := asked, sent := kept, grant := grant }], cwait := waiting kept
            cmsgs := c.cmsgs ++ asked.map (msg (if r = .rds then .prbShr else .prbInv)) })
          ∧ (asked = [] → ∃ d, goes i d ∧ d.ctxn = c.ctxn ++ [{ asks r 0 cache false with sent := true, grant := grant }]
            ∧ d.cwait = waiting kept ∧ d.cmsgs = c.cmsgs ++ (if kept then [] else [msg (if r = .rds then .data else .dataX) cache]) ++ [msg .cmp cache]
            ∧ d.cst = c.cst ∧ d.evict = c.evict ∧ d.tell = c.tell ∧ d.cqueue = [] ∧ (owns grant = true → ownerAt d 0 line = some (cache, grant))))
        ∧ ∀ v, mget c.dir (line / 4) = 0 → victim s c line slice = some v → v ≠ line / 4 → quietRegion c v = true →
          ∃ d, goes i d ∧ (∀ j, j / 2048 / 4 = v → mget d.cst j = 0) ∧ mget d.dir v = 0)
      ∧ (p ≠ 0 → ¬busy p → c.cqueue = [] → busy 0 →
        let rdc := 511 + p
        let x := mget c.cst (ckey line rdc)
        (if r = .rds then x = 0 else x ≠ Machine.stM ∧ x ≠ stE) → goes i { c with
          ctxn := c.ctxn ++ [asks r p cache true]
          cqueue := [asks (if r = .rds then .rds else if x = stS ∨ x = stO then .upg else .rdx) 0 rdc false]
          cwait := waiting false ++ [{ line := line, cache := rdc, data := false, cmp := false }] })
      ∧ (p = 0 → hostLine line = true → ¬busy 0 → c.cqueue = [] → ownerAt c 0 line = none → goes i { c with
          ctxn := c.ctxn ++ [asks r 0 cache true], cwait := waiting false
          tell := c.tell ++ [if r = .rds then .rdShared line else if r = .upg then .rdOwnNoData line else .rdOwn line] })))
    ∧ ((∀ w ∈ c.cwait, w.line = line → w.cache ≠ cache) → ∀ (i : Instr) (dirty : Bool),
      (i = .wbd cache line ∧ dirty = true ∧ (own = Machine.stM ∨ own = stO)) ∨ (i = .evc cache line ∧ dirty = false ∧ cache < 516 ∧ (own = stE ∨ own = stS)) →
      let ev := c.evict ++ [(line, cache, !dirty)]
      let r : CReqK := if dirty then .wbd else .evc
      (busy p → stuck → ∃ d, goes i d ∧ d = { c with cst := d.cst, own := d.own, bay := d.bay, evict := ev, cqueue := c.cqueue ++ [asks r p cache false] }
        ∧ mget d.cst k = 0 ∧ (isRdc cache = true → ∀ x ∈ named c (cache - 511) line 2048, mget d.cst (ckey line x) = 0)
        ∧ (isRdc cache = false → d.own = c.own ∧ d.bay = c.bay ∧ ∀ j, j ≠ k → mget d.cst j = mget c.cst j))
      ∧ (¬busy p → c.cqueue = [] → isRdc cache = false → ∃ d, goes i d ∧ d.evict = ev ∧ d.cmsgs = c.cmsgs ++ [msg .wbAck cache] ∧ d.cqueue = []
        ∧ d.ctxn = c.ctxn ∧ mget d.cst k = 0 ∧ (∀ j, j ≠ k → p = 0 ∨ j ≠ ckey line (511 + p) → mget d.cst j = mget c.cst j)
        ∧ ∀ o x, ownerAt d p line = some (o, x) → o ≠ cache))
    ∧ (has .wbAck → goes (.wback cache line) { c with cmsgs := left .wbAck, evict := c.evict.filter (fun e => decide (e.1 ≠ line ∨ e.2.1 ≠ cache)) })
    ∧ (∀ (i : Instr) (kind : CKind) (inv : Bool), (i = .prbshr cache line ∧ kind = .prbShr ∧ inv = false) ∨ (i = .prbinv cache line ∧ kind = .prbInv ∧ inv = true) →
      has kind →
      (isRdc cache = false → ∀ (before after : List CTx) (t : CTx), c.ctxn = before ++ t :: after → t.line = line → cache ∈ t.probes →
        (∀ y ∈ before, y.line = line → cache ∉ y.probes) → (∀ y ∈ before ++ after, y ≠ t) →
        let supply := owns own = true ∨ (line, cache, false) ∈ c.evict
        let now := if inv then 0 else if own = Machine.stM then (if hostLine line then stS else stO) else if own = stE then stS else own
        let fwd := t.kind = .fshr ∨ t.kind = .finv
        ∃ d, goes i d ∧ d = { c with cst := d.cst, ctxn := d.ctxn, cmsgs := d.cmsgs, evict := d.evict } ∧ mget d.cst k = now
          ∧ (∀ j, j ≠ k → (inv = true → j ≠ ckey line (516 + cache)) → p = 0 ∨ j ≠ ckey line (511 + p) → mget d.cst j = mget c.cst j)
          ∧ d.evict = c.evict.map (fun e => if e = (line, cache, false) then (line, cache, true) else e)
          ∧ (¬supply → d.ctxn = c.ctxn ∧ d.cmsgs = left kind ++ [msg .invAck cache])
          ∧ (supply → d.ctxn = before ++ { t with sent := true, keep := t.keep || decide (now = stO) } :: after
            ∧ d.cmsgs = left kind ++ (if t.sent = true ∨ fwd then [] else [msg (if t.kind = .rds then .data else .dataX) t.req]) ++ [msg .prbRsp cache]))
      ∧ (isRdc cache = true → (∀ t ∈ c.ctxn, t.line = line → t.place = cache - 511 → t.up = true) → c.cqueue = [] →
        let asked := probed (cache - 511) (!inv) cache 2048
        asked ≠ [] → goes i { c with
          ctxn := c.ctxn ++ [{ asks (if inv then .finv else .fshr) (cache - 511) cache false with probes := asked, grant := Machine.stM, slice := 0 }]
          cmsgs := left kind ++ asked.map (msg kind) }))
    ∧ (∀ (i : Instr) (kind : CKind) (before after : List CTx) (t : CTx), (i = .prbrsp cache line ∧ kind = .prbRsp) ∨ (i = .invack cache line ∧ kind = .invAck) →
      has kind → c.ctxn = before ++ t :: after → t.line = line → cache ∈ t.probes → (∀ y ∈ before, y.line = line → cache ∉ y.probes) →
      (∀ y ∈ before ++ after, y.line = line → y.place ≠ t.place) →
      (t.probes.erase cache ≠ [] → goes i { c with cmsgs := left kind, ctxn := before ++ { t with probes := t.probes.erase cache } :: after })
      ∧ (t.probes.erase cache = [] → t.kind = .rds ∨ t.kind = .rdx ∨ t.kind = .upg → t.place = 0 → t.req < 1028 → c.cqueue = [] → ∃ d, goes i d
        ∧ d.ctxn = before ++ { t with probes := [], sent := true } :: after ∧ d.cst = c.cst ∧ d.cwait = c.cwait
        ∧ d.cmsgs = left kind ++ (if t.sent then [] else [msg (if t.kind = .rds then .data else .dataX) t.req]) ++ [msg .cmp t.req]
        ∧ (owns t.grant = true → t.req < 516 → ownerAt d 0 line = some (t.req, t.grant))))
    ∧ (∀ (i : Instr) (kind : CKind) (d0 c0 : Bool) (wb wa : List CWait), (i = .data cache line ∧ kind = .data) ∨ (i = .datax cache line ∧ kind = .dataX)
        ∨ (i = .cmp cache line ∧ kind = .cmp) → has kind → c.cwait = wb ++ { line := line, cache := cache, data := d0, cmp := c0 } :: wa →
      (∀ w ∈ wb ++ wa, w.line = line → w.cache ≠ cache) →
      let data := d0 || decide (kind ≠ .cmp)
      let cmp := c0 || decide (kind = .cmp)
      (data = false ∨ cmp = false → goes i { c with
        cmsgs := left kind, cwait := wb ++ { line := line, cache := cache, data := data, cmp := cmp } :: wa })
      ∧ (data = true → cmp = true → isRdc cache = false → c.cqueue = [] → ∀ (before after : List CTx) (t : CTx), c.ctxn = before ++ t :: after →
        t.line = line → t.req = cache → t.up = false → t.kind ≠ .fshr → t.kind ≠ .finv → (∀ y ∈ before ++ after, y.line = line → y.req ≠ cache) →
        ∃ d, goes i d ∧ d = { c with cmsgs := left kind, cwait := wb ++ wa, cst := d.cst, ctxn := before ++ after }
          ∧ ∀ j, mget d.cst j = if t.grant = Machine.stM ∧ cache < 512 ∧ j = ckey line (516 + cache) then 0 else if j = k then t.grant else mget c.cst j))
    ∧ ((hostLine line = false ∨ lineThere line = false → exec (.snpdata line) s = .next s ∧ exec (.snpinv line) s = .next s ∧ exec (.snpcur line) s = .next s)
      ∧ (hostLine line = true → lineThere line = true →
        goes (.snpcur line) { c with tell := c.tell ++ [.snoop line (ownerAt c 0 line).isSome] }
        ∧ ∀ (i : Instr) (inv : Bool), (i = .snpdata line ∧ inv = false) ∨ (i = .snpinv line ∧ inv = true) →
          let tx := { asks (if inv then .finv else .fshr) 0 hostSnoop false with slice := 0 }
          let asked := probed 0 (!inv) hostSnoop 2048
          ((∃ x ∈ c.ctxn, x.line = line ∧ x.place = 0 ∧ x.up = false) → stuck → goes i { c with cqueue := c.cqueue ++ [tx] })
          ∧ ((∀ x ∈ c.ctxn, x.line = line → x.place = 0 → x.up = true) → c.cqueue = [] →
            (asked ≠ [] → goes i { c with
              ctxn := c.ctxn ++ [{ tx with probes := asked, grant := Machine.stM }], cmsgs := c.cmsgs ++ asked.map (msg (if inv then .prbInv else .prbShr)) })
            ∧ (asked = [] → ∃ d, goes i d ∧ d.tell = c.tell ++ [.snoop line false] ∧ d.cst = c.cst ∧ d.cmsgs = c.cmsgs ∧ d.ctxn = c.ctxn))))

/-- R227, R246, R352, R359, R417, R419 to R422: the host. It performs a request to its memory while it serves the page, else the request ends
REVOKED; its own access through a valid window reads or writes the device's memory, or fails with a code that PCERR keeps; writes
to the notify page write or add; TAIL of queue 0 is stored for the dispatcher; BIASREQ starts a flip; CLR clears PCERR; and a read
over port H finds them. -/
def Obligations.HostEvents : Prop :=
  ∀ (s : State),
    (∀ (id gid uid lane reg n : Nat) (r : RReq) (x : Group) (before after : List Out) (o : Out), s.reqs = [(id, r)] → s.devq = [] → r.node = 510 →
      id < 2 ^ 60 → portUp s 19 = true → r.owner = .lane gid uid lane reg n → tget s.groups gid = some x → x.out = before ++ o :: after → o.uid = uid →
      (∀ e ∈ before ++ after, e.uid ≠ uid) →
      let a := vaOff r.addr
      let old := readT s (.host a) r.size
      let new := if r.kind = .wr then r.a.toNat else rmw r.op r.size old r.a.toNat r.b.toNat
      let u := if r.kind = .wr ∨ r.kind = .amo then writeT s (.host a) r.size new else s
      let ends := fun (v : State) (f : Nat → Word) (h : Group → Group) => ∃ t y, exec (.hostCacheCompletion id) s = .next t
        ∧ tget t.groups gid = some y ∧ t = { v with groups := t.groups, reqs := [], co := t.co } ∧ (∀ k, k ≠ gid → tget t.groups k = tget s.groups k)
        ∧ y = h { x with out := before ++ { o with pend := o.pend - 1, vw := o.vw ++ (List.range n).map (fun k => (32 * (reg + k) + lane, f k)) } :: after }
      let served := ∃ cx, tget s.ctxs (r.part * 1024 + r.ctx) = some cx ∧ (cx.pasid, a / 4096) ∉ s.hostRefused ∧ mget s.tdi r.part = 2
      let bad := r.kind ≠ .wr ∧ poisonedT s (.host a) r.size = true
      (served → r.kind ≠ .ntf → ¬bad → ends u (fun k => if r.kind = .wr then 0 else BitVec.ofNat 32 (old / 2 ^ (32 * k))) (fun y => y))
      ∧ (¬served ∨ (r.kind ≠ .ntf ∧ bad) → ends s (fun _ => 0) (fun y => addRefusal y r.addr (o.lanes.getD (BitVec.ofNat 32 (2 ^ lane))) (refClass o.cls))))
    ∧ (∀ (addr : BitVec 64) (size : Nat) (data : BitVec 512), hostSizeOk addr size = true → portUp s 19 = true →
      let ones := BitVec.allOnes 512
      let err := fun (t : State) (p code : Nat) => t = { s with sent := t.sent, pcerr := t.pcerr, pcerrAddr := t.pcerrAddr }
        ∧ (∀ q, q ≠ p → mget t.pcerr q = mget s.pcerr q ∧ mget t.pcerrAddr q = mget s.pcerrAddr q)
        ∧ ((mget s.pcerr p).toNat / 2 ^ 48 % 2 ^ 15 = 0 → (mget t.pcerr p).toNat = 2 ^ 48 + code ∧ mget t.pcerrAddr p = addr)
        ∧ (∀ c, (mget s.pcerr p).toNat / 2 ^ 48 % 2 ^ 15 = c → c ≠ 0 →
          (mget t.pcerr p).toNat = min (c + 1) (2 ^ 15 - 1) * 2 ^ 48 + (mget s.pcerr p).toNat % 2 ^ 48 ∧ mget t.pcerrAddr p = mget s.pcerrAddr p)
      let fails := fun (p code : Nat) => (∃ t, exec (.hostMemRead addr size) s = .next t ∧ err t p code ∧ t.sent = s.sent ++ [.host p code ones])
        ∧ ∃ t, exec (.hostMemWrite addr size data) s = .next t ∧ err t p code ∧ t.sent = s.sent ++ [.host p code 0]
      let off := addr.toNat % 2 ^ 46
      ((∀ p, p < 16 → winV (mget s.windows p) = false ∨ winBase (mget s.windows p) ≠ addr.toNat / 2 ^ 46 * 2 ^ 46) → fails 16 4)
      ∧ ∀ p, p < 16 → winV (mget s.windows p) = true → winBase (mget s.windows p) = addr.toNat / 2 ^ 46 * 2 ^ 46 →
        (∀ q, q < p → winV (mget s.windows q) = false ∨ winBase (mget s.windows q) ≠ addr.toNat / 2 ^ 46 * 2 ^ 46) →
        (winT (mget s.windows p) = true → mget s.tdi p ≠ 2 → fails p 5)
        ∧ (winT (mget s.windows p) = false ∨ mget s.tdi p = 2 → off / 2 ^ 43 % 2 = 1 → off / 2 ^ 40 % 8 ≠ 0 → fails p 4)
        ∧ (winT (mget s.windows p) = false ∨ mget s.tdi p = 2 → off / 2 ^ 43 % 2 = 0 → s.inreqs = [] → s.heldAcc = [] →
          let va := va509 (off / 2 ^ 44 % 4) (off % 2 ^ 43)
          let line := BitVec.ofNat 64 (va.toNat / 128 * 128)
          let rq : Req := { part := p, ctx := winCtx (mget s.windows p), user := false }
          let place := fun (kind : AKind) (a : DWord) => match route s p a with
            | .paged d o => translate s rq kind d o
            | _ => .absent
          let die := fun a : DWord => match route s p a with
            | .paged d _ => d
            | _ => 0
          (∀ d o pa e, route s p va = .paged d o → translate s rq .load d o = .ok pa e →
            ∃ t, exec (.hostMemRead addr size) s = .next t ∧ t = { s with uid := s.uid + 1, sent := t.sent, co := t.co }
              ∧ t.sent = s.sent ++ [.host p (if poisonedT s (.hbm (die va) pa) size then 9 else 0)
                  (BitVec.ofNat 512 (readT s (.hbm (die va) pa) size))])
          ∧ (∀ pa e, place .store line = .ok pa e → ∃ t, exec (.hostMemWrite addr size data) s = .next t
              ∧ t = { writeT s (.hbm (die line) (pa + va.toNat % 128)) size (data.toNat % 2 ^ (8 * size)) with
                  uid := s.uid + 1, sent := s.sent ++ [.host p 0 0], co := t.co })))
    ∧ (∀ (p i : Nat) (v : BitVec 64), barServed s p = true →
      (capOn s p capNotify = true → i < 4096 →
        exec (.notifyPageWrite p i v) s = .next (writeT s (.notify p i) 8 v.toNat)
        ∧ exec (.notifyPageAdd p i v) s = .next (writeT s (.notify p i) 8 (mget s.notify (p * 4096 + i) + v).toNat))
      ∧ (∀ pt d o pa e, tget s.parts p = some pt → route s p (pt.qtab + 16) = .paged d o →
        translate s { part := p, ctx := 0, user := false } .store d o = .ok pa e → pteBias e = false ∨ portUp s 19 = true →
        exec (.queue0TailWrite p v) s = .next (writeT s (biased e d pa) 8 v.toNat))
      ∧ ((mget s.biasreq p).toNat % 4 ≠ 1 → ∃ t, exec (.biasreq p v) s = .next t
        ∧ t = { s with biasreq := t.biasreq, flips := t.flips, uid := t.uid, s2wait := t.s2wait, sent := t.sent }
        ∧ (mget t.biasreq p).toNat / 4 = (v &&& 0x3FFFFFFFE004).toNat / 4 ∧ (∀ q, q ≠ p → mget t.biasreq q = mget s.biasreq q)
        ∧ (v.toNat / 2 ^ 46 ≠ 0 ∨ v.toNat / 8 % 1024 ≠ 0 ∨ v.toNat / 2 ^ 43 % 2 = 1 → (mget t.biasreq p).toNat % 4 = 3 ∧ t.flips = s.flips)
        ∧ (let die := v.toNat / 2 ^ 44
          let off := v.toNat / 2 ^ 13 * 2 ^ 13 % 2 ^ 43
          let c := winCtx (mget s.windows p)
          ∀ pte k r, v.toNat < 2 ^ 46 → v.toNat / 8 % 1024 = 0 → v.toNat / 2 ^ 43 % 2 = 0 → winV (mget s.windows p) = true →
            (v.getLsbD 2 = true → capOn s p capPortC = true) → s1of s p c die off = .leaf pte k r → flipAt s p c die off = none →
            (pteBias pte = v.getLsbD 2 → (mget t.biasreq p).toNat % 4 = 2 ∧ t.flips = s.flips)
            ∧ (pteBias pte ≠ v.getLsbD 2 → (mget t.biasreq p).toNat % 4 = 1
              ∧ ∃ f, tget t.flips s.uid = some f ∧ f.part = p ∧ f.ctx = c ∧ f.die = die ∧ f.pte = pte ∧ f.toHost = v.getLsbD 2 ∧ f.host = some p)))
      ∧ (v.getLsbD 63 = true → ∃ t, exec (.pcerrClr p v) s = .next t ∧ t = { s with pcerr := t.pcerr, pcerrAddr := t.pcerrAddr }
        ∧ (∀ q, mget t.pcerr q = if q = p then 0 else mget s.pcerr q) ∧ ∀ q, mget t.pcerrAddr q = if q = p then 0 else mget s.pcerrAddr q)
      ∧ let gives := fun (off : Nat) (w : BitVec 64) => barRead s p off 8 = { s with sent := s.sent ++ [.bar p off w] }
        (capOn s p capNotify = true → i < 4096 → gives (0x10000 + 8 * i) (mget s.notify (p * 4096 + i))) ∧ gives 0x20100 (mget s.biasreq p)
        ∧ gives 0x20200 (mget s.pcerr p) ∧ gives 0x20208 (mget s.pcerrAddr p)
        ∧ ∀ pt d o pa e, tget s.parts p = some pt → route s p (pt.qtab + 16) = .paged d o →
          translate s { part := p, ctx := 0, user := false } .load d o = .ok pa e → pteBias e = false ∨ portUp s 19 = true →
          gives 0x20000 (BitVec.ofNat 64 (readT s (biased e d pa) 8)))

/-- R412, R413, R416, R419, R423, R425, R427, R428, R431, R435, R437: the ports and the harts' events. A link's state, ATT, WIDTH and RETRY change as
the table of R412 says; requests on a link that leaves service end. A request of a node whose peering entry lets it in is
performed and answered, and another is REFUSED; an answer of a node ends the request it answers. A hart's access is checked and
performed, its trap from VU saves KP in k14, and its sret takes KP from k14. Only M and HS levels write the tables. -/
def Obligations.LinkAndNodeEvents : Prop :=
  ∀ (s : State),
    (∀ (port h : Nat) (x : Hart) (l : Link), s.links[port]? = some l → tget s.harts h = some x → s.reqs = [] → s.devq = [] → s.inreqs = [] →
      let becomes := fun (i : Instr) (m : Link) => exec i s = .next { s with links := s.links.set port m }
      let up := l.st = .up ∨ l.st = .degraded
      (x.lvl = .m → (l.st = .down → becomes (.linkEnable h port) { l with st := .training, en := true, att := 0 })
        ∧ (l.st ≠ .down → becomes (.linkEnable h port) { l with en := true })
        ∧ (l.st = .down ∨ l.st = .failed → becomes (.linkDisable h port) { l with en := false })
        ∧ (up ∨ l.st = .training → becomes (.linkDisable h port) { l with st := .down, en := false, width := 0 })
        ∧ (l.st = .failed → becomes (.linkClear h port) { l with st := .down }))
      ∧ (x.lvl ≠ .m → exec (.linkEnable h port) s = .next s ∧ exec (.linkDisable h port) s = .next s ∧ exec (.linkClear h port) s = .next s)
      ∧ (l.st = .training →
        let full := if port < 18 then 4 else 16
        (∀ width, width = 1 ∨ width = 2 ∨ width = 4 ∨ (18 ≤ port ∧ (width = 8 ∨ width = 16)) →
          becomes (.linkTrained port width) { l with st := if width = full then .up else .degraded, width := width })
        ∧ (l.att < 7 → becomes (.trainingAttemptFail port) { l with att := l.att + 1 })
        ∧ (l.att = 7 → becomes (.linkTrainingFailed port) { l with st := .failed, att := 8, width := 0 }))
      ∧ (up → becomes (.linkLockLost port) { l with st := .training, att := 0, width := 0 }
        ∧ becomes (.flitRetry port) { l with retry := min (l.retry + 1) (2 ^ 32 - 1) }))
    ∧ (∀ (port h : Nat) (x : Hart) (l : Link), s.links[port]? = some l → tget s.harts h = some x → x.lvl = .m → l.st = .up →
      let m := { l with st := .down, en := false, width := 0 }
      s.devq = [] → ((∀ e ∈ s.reqs, (∃ k, e.2.owner = .post k) ∧ e.2.port = some port) →
        exec (.linkDisable h port) s = .next { s with links := s.links.set port m, reqs := [] })
      ∧ ∀ (id gid uid lane reg n : Nat) (r : RReq) (g : Group) (before after : List Out) (o : Out), s.reqs = [(id, r)] → r.port = some port →
        r.owner = .lane gid uid lane reg n → tget s.groups gid = some g → g.out = before ++ o :: after → o.uid = uid → (∀ e ∈ before ++ after, e.uid ≠ uid) →
        ∃ t, exec (.linkDisable h port) s = .next t ∧ t = { s with links := s.links.set port m, groups := t.groups, reqs := [] }
          ∧ tget t.groups gid = some (addRefusal
            { g with out := before ++ { o with pend := o.pend - 1, vw := o.vw ++ (List.range n).map (fun k => (32 * (reg + k) + lane, 0)) } :: after }
            r.addr (o.lanes.getD (BitVec.ofNat 32 (2 ^ lane))) (refClass o.cls))
          ∧ ∀ k, k ≠ gid → tget t.groups k = tget s.groups k)
    ∧ (∀ (snode spart : Nat) (addr : BitVec 64) (size op idx k : Nat) (consume add : Bool) (mask a b : BitVec 128) (data : BitVec 1024) (v : BitVec 64),
      let va := BitVec.ofNat 64 (509 * 2 ^ 55 + addr.toNat % 2 ^ 55)
      let line := BitVec.ofNat 64 (va.toNat / 128 * 128)
      let answers := fun (i : Instr) (st : Nat) (u : State) (poison : Bool) (x : Nat) => ∃ t, exec i s = .next t
        ∧ t = { u with sent := s.sent ++ [.urradAns snode st poison (BitVec.ofNat 1024 x)], co := t.co }
      let reads := [1, 2, 4, 8, 16, 128].contains size = true
      let amo := size = 4 ∨ size = 8 ∨ size = 16
      (peerFor s snode spart = none ∨ (∃ j, peerFor s snode spart = some j ∧ capOn s (peerLPART (mget s.peers j)) capViaduct = false) →
        (reads → answers (.urradRd snode spart addr size consume) 2 s false 0) ∧ answers (.urradWr snode spart addr mask data) 2 s false 0
        ∧ (amo → answers (.urradAmo snode spart addr op size a b) 2 s false 0)
        ∧ (idx < 4096 → answers (.urradNtf snode spart idx add v) 2 s false 0))
      ∧ ∀ j, peerFor s snode spart = some j → s.inreqs = [] → s.heldAcc = [] → s.locks = [] →
        let p := peerLPART (mget s.peers j)
        let rq : Req := { part := p, ctx := peerLCTX (mget s.peers j), user := false }
        let u := { s with uid := s.uid + 1 }
        capOn s p capViaduct = true →
        (∀ d o, route s p va = .paged d o →
          (∀ pa e, reads → addr.toNat % size = 0 → translate s rq .load d o = .ok pa e → pteBias e = false ∨ portUp s 19 = true →
            answers (.urradRd snode spart addr size consume) 0 u (poisonedT s (biased e d pa) size) (readT s (biased e d pa) size))
          ∧ (reads → addr.toNat % size = 0 → translate s rq .load d o = .absent → answers (.urradRd snode spart addr size consume) 1 u false 0)
          ∧ (reads → addr.toNat % size = 0 → translate s rq .load d o = .denied → answers (.urradRd snode spart addr size consume) 2 u false 0)
          ∧ (∀ pa e, amo → addr.toNat % size = 0 → translate s rq .amo d o = .ok pa e → pteBias e = false ∨ portUp s 19 = true →
            poisonedT s (biased e d pa) size = false →
            let old := readT s (biased e d pa) size
            answers (.urradAmo snode spart addr op size a b) 0 { writeT s (biased e d pa) size (rmw op size old a.toNat b.toNat) with uid := s.uid + 1 } false old))
        ∧ (∀ d o pa e, 0 < size → k + size ≤ 128 → mask = BitVec.ofNat 128 ((2 ^ size - 1) * 2 ^ k) → route s p line = .paged d o →
          translate s rq .store d o = .ok pa e → pteBias e = false ∨ portUp s 19 = true →
          answers (.urradWr snode spart addr mask data) 0 { writeT s (biased e d (pa + k)) size (data.toNat / 2 ^ (8 * k)) with uid := s.uid + 1 } false 0)
        ∧ (idx < 4096 → capOn s p capNotify = true → let old := mget s.notify (p * 4096 + idx)
          answers (.urradNtf snode spart idx add v) 0 { writeT s (.notify p idx) 8 (if add then old + v else v).toNat with uid := s.uid + 1 } false old.toNat))
    ∧ (∀ (id st gid uid lane reg n port : Nat) (poison : Bool) (data : BitVec 1024) (r : RReq) (x : Group) (before after : List Out) (o : Out),
      s.reqs = [(id, r)] → s.devq = [] → r.port = some port → portUp s port = true → st < 4 → r.owner = .lane gid uid lane reg n → tget s.groups gid = some x →
      x.out = before ++ o :: after → o.uid = uid → (∀ e ∈ before ++ after, e.uid ≠ uid) →
      let ok := st = 0 ∧ poison = false
      let y := { x with out := before ++ { o with
        pend := o.pend - 1
        vw := o.vw ++ (List.range n).map (fun k => (32 * (reg + k) + lane, if ok then BitVec.ofNat 32 (data.toNat / 2 ^ (32 * k)) else 0)) } :: after }
      ∃ t, exec (.urradAnswer id st poison data) s = .next t ∧ t = { s with groups := t.groups, reqs := [] }
        ∧ tget t.groups gid = some (if ok then y else addRefusal y r.addr (o.lanes.getD (BitVec.ofNat 32 (2 ^ lane))) (refClass o.cls))
        ∧ ∀ k, k ≠ gid → tget t.groups k = tget s.groups k)
    ∧ (∀ (h : Nat) (x : Hart), tget s.harts h = some x →
      let becomes := fun (i : Instr) (u : State) (y : Hart) => ∃ t, exec i s = .next t ∧ tget t.harts h = some y
        ∧ (∀ k, k ≠ h → tget t.harts k = tget u.harts k) ∧ t = { u with harts := t.harts }
      let raises := fun (i : Instr) (cause : Nat) (v : DWord) => exec i s = .next (takeException s h x cause v)
      (∀ (store : Bool) (size : Nat) (addr : BitVec 64) (reg : Nat), x.busy = false → x.refused = none →
        size = 1 ∨ size = 2 ∨ size = 4 ∨ size = 8 → reg < 32 →
        let i := Instr.hartDeviceAccess h store size addr reg
        let chk := capCheck (kget x 15) [if store then 1 else 0] addr.toNat size
        let wc := x.icr.getLsbD 26 && (decide (x.lvl ≠ .vu) || (BitVec.ofNat 16 (capPerm (kget x 15))).getLsbD 8)
        (∀ code, x.lvl = .vu → chk = some code → raises i 28 (BitVec.ofNat 64 code))
        ∧ ((x.lvl = .vu → chk = none) →
          (addr.toNat % size ≠ 0 → raises i (if store then 6 else 4) addr)
          ∧ ∀ u data, addr.toNat % size = 0 → hartReq s x (hartIn x h (if store then .wr else .rd) size addr (xget x reg).toNat wc reg) = .done u data →
            ∃ y, becomes i u y ∧ y = { x with x := y.x }
              ∧ ∀ r, xget y r = if store = false ∧ r = reg ∧ r ≠ 0 then BitVec.ofNat 64 data else xget x r))
      ∧ (∀ (cause : Nat) (tval : BitVec 64), x.lvl = .vu → x.busy = false → x.refused = none → ∃ y, becomes (.hartTrap h cause tval) s y
        ∧ y.lvl = .vs ∧ csrGet y 0x241 = x.pc ∧ csrGet y 0x242 = BitVec.ofNat 64 cause ∧ csrGet y 0x243 = tval
        ∧ (csrGet y 0x200).getLsbD 8 = false ∧ (csrGet y 0x200).getLsbD 1 = false ∧ (csrGet y 0x200).getLsbD 5 = (csrGet x 0x200).getLsbD 1
        ∧ (cause < 2 ^ 63 → y.pc.toNat = (csrGet x 0x205).toNat / 4 * 4)
        ∧ (∀ q, kget y q = if q = 14 then mkCap (capTag x.kp) x.pc.toNat (capE x.kp) (capBM x.kp) (capTM x.kp) (capPerm x.kp) (capType x.kp) else kget x q)
        ∧ y = { x with pc := y.pc, csr := y.csr, k := y.k, lvl := y.lvl, fetched := none })
      ∧ (x.lvl = .vs → x.busy = false → x.refused = none → (csrGet x 0x200).getLsbD 8 = false →
        let k14 := kget x 14
        let i := Instr.hartSret h
        (capTag k14 = false → raises i 28 1) ∧ (capTag k14 = true → capType k14 ≠ 0 → raises i 28 2)
        ∧ (capTag k14 = true → capType k14 = 0 → (BitVec.ofNat 16 (capPerm k14)).getLsbD 2 = false → raises i 28 3)
        ∧ (capTag k14 = true → capType k14 = 0 → (BitVec.ofNat 16 (capPerm k14)).getLsbD 2 = true → ∃ y, becomes i s y ∧ y.lvl = .vu
          ∧ y.pc = csrGet x 0x241 ∧ y.kp = mkCap true (csrGet x 0x241).toNat (capE k14) (capBM k14) (capTM k14) (capPerm k14) 0
          ∧ (csrGet y 0x200).getLsbD 1 = (csrGet x 0x200).getLsbD 5 ∧ (csrGet y 0x200).getLsbD 5 = true
          ∧ y = { x with pc := y.pc, csr := y.csr, kp := y.kp, lvl := y.lvl, fetched := none }))
      ∧ (∀ (idx : Nat) (v : BitVec 128), idx < 16 → x.lvl = .m ∨ x.lvl = .hs →
        let e := v &&& 0x3FFFFFFC00000000003
        ∃ t, exec (.windowEntryWrite h idx v) s = .next t ∧ t = { s with windows := t.windows, tdi := t.tdi }
          ∧ (∀ j, mget t.windows j = if j = idx then e else mget s.windows j)
          ∧ ∀ j, mget t.tdi j = if j = idx ∧ mget s.windows idx ≠ e ∧ (mget s.tdi j = 1 ∨ mget s.tdi j = 2) then 3 else mget s.tdi j)
      ∧ (∀ (idx : Nat) (v : BitVec 64), idx < 64 → x.lvl = .m ∨ x.lvl = .hs → s.inreqs = [] →
        ∃ t, exec (.peeringEntryWrite h idx v) s = .next t ∧ t = { s with peers := t.peers }
          ∧ ∀ j, mget t.peers j = if j = idx then v &&& 0x81FF0F0F000003FF else mget s.peers j)
      ∧ (x.lvl = .vs ∨ x.lvl = .vu → ∀ idx v w, exec (.windowEntryWrite h idx v) s = .next s ∧ exec (.peeringEntryWrite h idx w) s = .next s))

/-- R369 to R376, R379, R383 to R386, R391 to R395, R397, R399 to R408, R449, R450: the commands of contexts and of partitions. A command that the
state does not accept completes BADSTATE; one that it accepts completes with its CODE, DSEQ becomes CSEQ, and the state is the one
R374 or R397 names. A resize runs its phases in order; its joining resources are zeroised, its targets take effect at the end, and
an ABORT leaves everything as before. An alarm of a context destroys it. -/
def Obligations.ContextAndPartitionEvents : Prop :=
  ∀ (s : State) (p : Nat),
    (∀ (c : Nat) (x : Ctx), tget s.ctxs (p * 1024 + c) = some x →
      let key := p * 1024 + c
      let others := fun (t : State) => ∀ k, k ≠ key → tget t.ctxs k = tget s.ctxs k
      let holds := fun (t : State) (f : Ctx → Prop) => ∃ z, tget t.ctxs key = some z ∧ f z
      (∀ (pt : Part) (cmd : Nat) (q : Word) (w : List DWord), tget s.parts p = some pt → x.cmd = 0 → pt.st = .active →
        ctxCommand s p x x.dseq = some (cmd, q, w) →
        let y := { x with cseq := q, nv := (w.getD 2 0).getLsbD 12, nidx := (w.getD 2 0).toNat % 4096 }
        let prot := (w.getD 3 0).getLsbD 0
        let ends := fun (i : Instr) (code : Nat) (z : Ctx) => ∃ u, exec i s = .next (ctxDone u p c code) ∧ tget u.ctxs key = some z ∧ others u
          ∧ u = { s with ctxs := u.ctxs, keys := u.keys, tdi := u.tdi } ∧ (i ≠ .contextLoad p c → u.keys = s.keys)
          ∧ ∀ j, mget u.tdi j = if j = p ∧ z.st ≠ .loaded ∧ z.pasid ≠ x.pasid ∧ (mget s.tdi p = 1 ∨ mget s.tdi p = 2) then 3 else mget s.tdi j
        let saves := x.st = .loaded ∨ x.st = .running ∨ x.st = .faulted
        let full := x.prot = true ∧ ∃ k, tget s.keys key = some k ∧ k.ctr = BitVec.allOnes 64
        (∀ (i : Instr) (n : Nat) (accepts : Prop), (i = .contextLoad p c ∧ n = 1 ∧ accepts = (x.st = .created))
            ∨ (i = .contextRun p c ∧ n = 2 ∧ accepts = (x.st = .loaded)) ∨ (i = .contextSave p c ∧ n = 3 ∧ accepts = saves)
            ∨ (i = .contextRestore p c ∧ n = 4 ∧ accepts = (x.st = .saved)) ∨ (i = .contextDrain p c ∧ n = 5 ∧ accepts = (x.st ≠ .destroyed)) →
          x.st ≠ .restoring → cmd = 0 ∨ 6 < cmd ∨ (cmd = n ∧ ¬accepts) → ends i 1 y)
        ∧ (cmd = 1 → x.st = .created → badCtxRecord s p w = true → ends (.contextLoad p c) 2 { y with cmd := 1 })
        ∧ (cmd = 1 → x.st = .created → badCtxRecord s p w = false → ends (.contextLoad p c) 0 { readCtx y w with st := .loaded, prot := prot, cmd := 1 }
          ∧ ∃ t, exec (.contextLoad p c) s = .next t ∧ (prot = true → tget t.keys key = some { key := Config.randomKey s.clock, ctr := 0, nseg := 0, refusals := 0 })
            ∧ ∀ k, k ≠ key ∨ prot = false → tget t.keys k = tget s.keys k)
        ∧ (cmd = 2 → x.st = .loaded → ends (.contextRun p c) 0 { readCtx y w with st := .running, cmd := 2 })
        ∧ (cmd = 3 → saves → full → ends (.contextSave p c) 1 { y with cmd := 3 })
        ∧ (cmd = 3 → saves → ¬full → ∃ t, exec (.contextSave p c) s = .next t
          ∧ holds t (fun z => z = { readCtx y w with cmd := 3, st := .preempting, before := x.st, stopped := true, ph := 1 })
          ∧ ∀ k b, tget t.blocks k = some b → b.part = p → b.ctx = c → b.stop = true)
        ∧ (cmd = 4 → x.st = .saved → x.prot = false → blocksOf s p c = [] → s.inreqs = [] → ∃ t, exec (.contextRestore p c) s = .next t
          ∧ holds t (fun z => z.st = .running ∧ z.stopped = false ∧ z.dseq = q ∧ z.cmd = 0))
        ∧ (cmd = 5 → x.st ≠ .destroyed → ∃ u, ((drainPools u p c).2.waits (drainPools u p c).1 p = false →
            exec (.contextDrain p c) s = .next (ctxDone (drainPools u p c).1 p c 0)) ∧ tget u.ctxs key = some { y with cmd := 5 } ∧ others u ∧ u = { s with ctxs := u.ctxs })
        ∧ (cmd = 6 → x.st = .destroyed → ends (.contextDestroy p c) 1 { y with cmd := 6 })
        ∧ (cmd = 6 → x.st ≠ .destroyed → queuesOf s p c = [] → (∀ g ∈ s.grids, g.2.part = p → g.2.ctx ≠ c) → s.inreqs = [] → s.devq = [] →
          ∃ t, exec (.contextDestroy p c) s = .next t ∧ holds t (fun z => z.st = .destroyed ∧ z.frames = [] ∧ z.dseq = q ∧ z.cmd = 0)
            ∧ tget t.keys key = none ∧ (∀ k, k ≠ key → tget t.keys k = tget s.keys k)
            ∧ (∀ r ∈ t.svcreqs, r.2.part = p → r.2.ctx ≠ c) ∧ (∀ f ∈ t.flips, f.2.part = p → f.2.ctx ≠ c) ∧ ∀ m ∈ t.stale, m.part = p → m.ctx ≠ c))
      ∧ (x.st = .preempting → x.ph = 1 → blocksOf s p c = [] → ctxQuiet s p c = true →
        (x.prot = false → ∃ u, exec (.saveQuiesced p c) s = .next (ctxDone u p c 0)
          ∧ tget u.ctxs key = some { x with st := .saved, sgrid := none, checks := [] } ∧ others u ∧ u = { s with ctxs := u.ctxs })
        ∧ (x.prot = true → (serviceRecord s p c x.saverec).waits s p = false →
          let u := { s with keys := tmod s.keys key (fun k => { k with ctr := k.ctr + 1 }) }
          (∀ v, launchService (showCtx u p c) p c x.saverec false = some v → exec (.saveQuiesced p c) s = .next v)
          ∧ (launchService (showCtx u p c) p c x.saverec false = none → ∃ t, exec (.saveQuiesced p c) s = .next t ∧ holds t (fun z => z.st = .faulted))))
      ∧ (∀ n g, serviceEnd s x = some (n, g) →
        let all := g.st = .done ∧ ∀ i, i < segPlaced x → segCodes x i = [0]
        (x.st = .preempting → ∃ t, exec (.saveGridEnd p c) s = .next t
          ∧ holds t (fun z => z.st = (if all then .saved else .faulted) ∧ z.sgrid = none ∧ z.checks = [] ∧ z.dseq = x.cseq ∧ z.cmd = 0))
        ∧ (x.st = .restoring → x.ph = 2 →
          let code := restoreCode x g (match tget s.keys key with
            | some k => k.nseg
            | none => 0)
          (code ≠ 0 → ∃ t, exec (.restoreGridEnd p c) s = .next t ∧ holds t (fun z => z.st = .saved ∧ z.dseq = x.cseq ∧ z.cmd = 0))
          ∧ (code = 0 → blocksOf s p c = [] → s.inreqs = [] → ∃ t, exec (.restoreGridEnd p c) s = .next t ∧ holds t (fun z => z.st = .running ∧ z.dseq = x.cseq))))
      ∧ (∀ i : Instr, (i = .tagRefusalLimit p c ∧ ∃ k, tget s.keys key = some k ∧ 4 ≤ k.refusals) ∨ (i = .keystoneKillRequest p c ∧ p < 16 ∧ c < 1024 ∧ s.hold = .none)
          ∨ (i = .keyStoreError p c false ∧ p < 16 ∧ c < 1024) → ∃ u, exec i s = .next (logError u 5 2 p 0 0 c 0)
        ∧ (x.st = .destroyed → u = s) ∧ (x.st ≠ .destroyed → queuesOf s p c = [] → (∀ g ∈ s.grids, g.2.part = p → g.2.ctx ≠ c) → s.inreqs = [] → s.devq = [] →
          tget u.keys key = none ∧ holds u (fun z => z.st = .destroyed))))
    ∧ (∀ c : PCmd, partCommand s p = some c →
      let now := fun (t : State) (f : Part → Prop) => ∃ y, tget t.parts p = some y ∧ f y
      let m := readMap c.w 160
      (tget s.parts p = none →
        let refuses := fun code : Nat => exec (.partitionCreate p) s = .next (svcWrite s c.pcb 0 [BitVec.ofNat 64 (c.q.toNat * 2 ^ 32 + code * 2 ^ 8)])
        let home := (c.w.getD 3 0).toNat / 16 % 4
        (c.cmd ≠ 1 → refuses 1) ∧ (c.cmd = 1 → badPcb s p c.w = true → refuses 2) ∧ (c.cmd = 1 → badPcb s p c.w = false → busy s p c.w = true → refuses 3)
        ∧ (c.cmd = 1 → badPcb s p c.w = false → busy s p c.w = false →
          ((readSlices c.w 288).getD home 0 = 0 → refuses 7)
          ∧ ((readSlices c.w 288).getD home 0 ≠ 0 → ∃ t, exec (.partitionCreate p) s = .next t
            ∧ now t (fun y => y.st = .active ∧ y.pcb = c.pcb ∧ y.dseq = c.q ∧ y.capen.toNat = (c.w.getD 2 0).toNat % 2 ^ 18 ∧ y.ndie = home ∧ y.cmap = m
              ∧ y.slices = readSlices c.w 288 ∧ y.chans = readChans c.w 296 ∧ y.s2root = (c.w.drop 7).take 4)
            ∧ (∀ k off, k ∈ mapCores m → off < 2 ^ 21 → mget t.spad (skey k off) = 0) ∧ (∀ i, i < 4096 → mget t.notify (p * 4096 + i) = 0)
            ∧ (∀ d a, d < 4 → inChan d ((readChans c.w 296).getD d 0) (16 * a) = true → mget t.ctag a = 0)
            ∧ ∀ k, k ≠ p → tget t.parts k = tget s.parts k)))
      ∧ ∀ x : Part, tget s.parts p = some x →
        let u := takePcb { s with parts := tmod s.parts p (fun x => { x with cseq := c.q }) } p c.w
        (c.cmd = 0 ∨ c.cmd = 1 ∨ 5 < c.cmd ∨ (c.cmd = 3 ∧ x.st ≠ .resizing) → ∃ t, exec (.partitionCreate p) s = .next t
          ∧ now t (fun y => y = { x with cseq := c.q, dseq := c.q }))
        ∧ (c.cmd = 5 → x.st ≠ .destroying →
          let arg := (c.w.getD 1 0).toNat / 2 ^ 16 % 2 ^ 16
          (1024 ≤ arg → exec (.partitionEnter p) s = .next (partDone u p 11 c.q))
          ∧ (∀ e w, arg < 1024 → (∀ y, tget s.ctxs (p * 1024 + arg) = some y → y.st = .destroyed) → svcRead u ((c.w.getD 5 0).toNat + 8 * arg) 1 = some [e] →
            let addr := e.toNat / 2 ^ 12 * 2 ^ 12 % 2 ^ 53
            e.getLsbD 0 = true → recRead u p addr 0 512 = .done w → recordFresh w = true →
            exec (.partitionEnter p) s = .next (partDone { u with ctxs := tset u.ctxs (p * 1024 + arg) (newCtx addr) } p 0 c.q)))
        ∧ (c.cmd = 2 → (¬(x.phase = 1 ∧ x.st = .resizing)) →
          let waits := anyCtx s p (fun st => decide (st = .preempting) || decide (st = .restoring))
          (x.st ≠ .active → ∃ t, exec (.partitionResize p) s = .next t ∧ now t (fun y => y = { x with cseq := c.q, dseq := c.q }))
          ∧ (x.st = .active → waits = false → capOn s p capLive = true ∨ anyCtx s p (fun st => decide (st = .running)) = false → 
            let v := toPhase { u with parts := tmod u.parts p (fun x =>
              { x with st := .resizing, cmd := 2, force := (c.w.getD 1 0).getLsbD 8, forced := false, tmap := [], tslices := [], tchans := [] }) } p 1
            ∃ t y, exec (.partitionResize p) s = .next t ∧ tget v.parts p = some y
            ∧ let code := if badTarget v p c.w then 2 else if busy v p c.w then 3 else planCode v p y m (readSlices c.w 288) (readChans c.w 296)
              now t (fun z => (code = 0 → z.st = .resizing ∧ z.phase = 2 ∧ z.tmap = m ∧ z.tslices = readSlices c.w 288 ∧ z.tchans = readChans c.w 296)
                ∧ (code ≠ 0 → z.st = .active ∧ z.phase = 0 ∧ z.dseq = c.q) ∧ z.cmap = x.cmap ∧ z.slices = x.slices ∧ z.chans = x.chans)))
        ∧ (c.cmd = 3 → x.st = .resizing → ∃ t, exec (.partitionAbort p) s = .next t
          ∧ (x.phase ≠ 2 → x.phase ≠ 3 → now t (fun y => y = { x with cseq := c.q, dseq := c.q }))
          ∧ (x.phase = 2 ∨ x.phase = 3 → (∀ b ∈ s.blocks, b.2.part ≠ p) → now t (fun y => y.st = .active ∧ y.phase = 0 ∧ y.dseq = c.q ∧ y.tmap = [] ∧ y.cmap = x.cmap
            ∧ y.slices = x.slices ∧ y.chans = x.chans)))
        ∧ (c.cmd = 4 → x.st = .active ∨ x.phase < 4 → ∃ t, exec (.partitionDestroy p) s = .next t ∧ tget t.parts p = none ∧ tget t.disps p = none
          ∧ (∀ y ∈ t.ctxs, y.1 / 1024 ≠ p) ∧ (∀ y ∈ t.queues, y.1 / 256 ≠ p) ∧ ∀ y ∈ t.ops, y.2.part ≠ p))
    ∧ ∀ x : Part, tget s.parts p = some x → x.st = .resizing →
      let now := fun (t : State) (f : Part → Prop) => ∃ y, tget t.parts p = some y ∧ f y
      (x.phase = 2 → s.blocks = [] → ∃ t, exec (.resizeAdmitEnd p) s = .next t ∧ now t (fun y => y = { x with phase := 3 })
        ∧ (∀ k off, k ∈ mapCores x.tmap → k ∉ mapCores x.cmap → off < 2 ^ 21 → mget t.spad (skey k off) = 0)
        ∧ (∀ k off, k ∈ mapCores x.cmap → off < 2 ^ 21 → mget t.spad (skey k off) = mget s.spad (skey k off))
        ∧ ∀ v, v < 512 → addedV x v = true → mget t.moved (p * 512 + v) = mget x.tmap v)
      ∧ (x.phase = 3 → onRemoved s p x = [] → s.ops = [] → ∃ t, exec (.resizeDrainEnd p) s = .next t
        ∧ now t (fun y => y = { x with phase := y.phase, sweep := y.sweep }
          ∧ ((∀ d, d < 4 → x.slices.getD d 0 = x.tslices.getD d 0) → y.phase = 5 ∧ y.sweep = [])
          ∧ ∀ d k, d < 4 → k < 80 → x.slices.getD d 0 ≠ x.tslices.getD d 0 → (x.slices.getD d 0).testBit k = true → y.phase = 4 ∧ (d * 80 + k, 0) ∈ y.sweep))
      ∧ (∀ b blk, x.phase = 3 → x.force = true → onRemoved s p x = [(b, blk)] → tget s.blocks b = some blk →
        (mayLeave s b blk = true → exec (.resizeForce p) s = .next (swapOut s b true))
        ∧ (mayLeave s b blk = false → exec (.resizeForce p) s
          = .next (stopAndEnd gridFuel { s with parts := tmod s.parts p (fun x => { x with forced := true }) } blk.grid .killed 9 0 0 0)))
      ∧ (∀ k sp rest, x.phase = 4 → x.sweep = (k, sp) :: rest →
        let mine := (liveRegions s (k / 80)).filter (fun r => decide (sp ≤ r * 512) && decide (homeSlice (x.slices.getD (k / 80) 0) (r * 512) = k % 80))
        (mine = [] → ∃ t, exec (.rehashHandover p) s = .next t ∧ now t (fun y => y = { x with sweep := rest, phase := if rest = [] then 5 else 4 }))
        ∧ (∀ r ∈ mine, (∀ q ∈ mine, r ≤ q) → (∀ t ∈ s.co.ctxn, t.line / 2 ^ 46 = k / 80 → t.line * 128 % 2 ^ 53 / 512 ≠ r) → ∃ t, exec (.rehashHandover p) s = .next t
          ∧ now t (fun y => y = { x with sweep := (k, (r + 1) * 512) :: rest }) ∧ t = { s with parts := t.parts }))
      ∧ (∀ v old new, x.phase = 5 → v < 512 → x.moving = none → remappedV x v = true → mget s.moved (p * 512 + v) = 0 → moveChain s p x 512 v = [(v, old, new)] →
        old ≠ new → s.groups = [] → s.blocks = [] → s.ops = [] → s.passes = [] → s.copies = [] → s.nbcmds = [] → s.locks = [] → s.inreqs = [] →
        mwf s.spad = true → ∃ t, exec (.coreMove p v) s = .next t ∧ mget t.moved (p * 512 + v) = mget x.tmap v
          ∧ (∀ off, off < 2 ^ 21 → mget t.spad (skey new off) = mget s.spad (skey old off))
          ∧ (∀ k off, k ≠ old → k ≠ new → off < 2 ^ 21 → mget t.spad (skey k off) = mget s.spad (skey k off)) ∧ t.hbm = s.hbm)
      ∧ (∀ d ia lv slot e f, x.phase = 5 → (List.range 4).findSome? (fun d => (leavingLeaf s p x d).map (fun l => (d, l))) = some (d, ia, lv, slot, e) → pteRun e = false →
        s.locks = [] → s.nbcmds = [] → s.inreqs = [] → freeRunOf s x d 1 = some f → Memory.wf s = true → slot % 8 = 0 → ia % 8192 = 0 →
        let old := pteOff (rdPte s.hbm d slot)
        let new := f * 8192
        slot + 8 ≤ new ∨ new + 8192 ≤ slot → ∃ t, exec (.pageMove p) s = .next t
          ∧ (∀ j, j < 8192 → mget t.hbm (hkey d new + j) = mget s.hbm (hkey d old + j))
          ∧ rdPte t.hbm d slot = (rdPte s.hbm d slot &&& 0xFFE0000000001FFF) ||| BitVec.ofNat 64 (f * 2 ^ 13)
          ∧ ∀ a, (a < hkey d new ∨ hkey d new + 8192 ≤ a) → (a < hkey d slot ∨ hkey d slot + 8 ≤ a) → mget t.hbm a = mget s.hbm a)
      ∧ (x.phase = 5 → (∀ v, v < 512 → remappedV x v = true → mget s.moved (p * 512 + v) ≠ 0) → (∀ d, d < 4 → leavingLeaf s p x d = none) →
        ∃ t, exec (.resizeDetach p) s = .next t ∧ now t (fun y => y.st = .active ∧ y.phase = 0 ∧ y.cmap = x.tmap ∧ y.slices = x.tslices ∧ y.chans = x.tchans
          ∧ y.dseq = x.cseq ∧ y.tmap = [] ∧ y.cmd = 0) ∧ ∀ v, v < 512 → mget t.moved (p * 512 + v) = 0)

/-- R9, R392, R414 to R416, R424, R430, R445 to R454, R457 to R462: the keystone, errors, power and registers. Each verified stage is measured
and the next starts; one that does not verify takes every port DOWN. The mailbox answers in its order and signs what it attests;
keys and states of streams and interfaces follow their messages. An ERASE alarm and a thermal trip hold the module in reset until
its power is removed; every other request resets it. Errors are recorded and poison what they hit. The power loop keeps its limits,
and only the levels that may write a register do. -/
def Obligations.KeystoneAndPowerEvents : Prop :=
  ∀ (s : State),
    (∀ (stage svn : Nat) (ok : Bool) (pk digest : BitVec 512), s.hold = .boot → s.bootSt = 0 → stage = s.stage + 1 → stage ≤ 4 →
      let i := Instr.bootStageVerify stage ok svn pk digest
      let good := ok = true ∧ pk = Config.keyDigest ∧ Config.minSvn.toNat ≤ svn
      (good → ∃ t, exec i s = .next t ∧ t.stage = stage ∧ (∀ k, mget t.meas k = if k = stage then digest else mget s.meas k)
        ∧ (stage = 1 → t.ident = true ∧ t.aliasOf = some digest)
        ∧ (stage ≠ 1 → t.aliasOf = s.aliasOf) ∧ (stage = 2 → ∀ port l, port = 18 ∨ port = 19 → s.links[port]? = some l → l.st = .down →
          t.links[port]? = some { l with st := .training, en := true, att := 0 })
        ∧ (stage = 4 → t.hold = .none ∧ t.bootSt = 15) ∧ (stage ≠ 4 → t.hold = .boot ∧ t.bootSt = 0))
      ∧ (¬good → ∃ t, exec i s = .next t ∧ t.bootSt = stage ∧ t.hold = .boot ∧ t.stage = s.stage ∧ t.meas = s.meas
        ∧ (∀ l ∈ t.links, l.st = .down) ∧ ∃ e, t.elog.getLast? = some e ∧ e.kind = 7))
    ∧ (∀ r : Nat, s.aliasOf ≠ none → portUp s 18 = true →
      let answers := fun (i : Instr) (u : State) (m : Msg) => exec i s = .next { u with sent := s.sent ++ [m] }
      let error := fun i : Instr => answers i s (.spdm r 0x7F [4] none)
      let spdm := fun (stage : Nat) (l : List Nat) => { s with spdm := { stage := stage, sessions := l } }
      let open_ := s.spdm.sessions
      let bytes := fun l : List Nat => l.map (BitVec.ofNat 8)
      answers (.getVersion r) (spdm 1 []) (.spdm r 0x04 [0x13] none)
      ∧ (1 ≤ s.spdm.stage → answers (.getCapabilities r) (spdm (max s.spdm.stage 2) open_) (.spdm r 0x61 [] none))
      ∧ (2 ≤ s.spdm.stage → answers (.negotiateAlgorithms r) (spdm 3 open_) (.spdm r 0x63 (bytes (asciiBytes "ML-DSA-87 SHA3-512")) none))
      ∧ (s.spdm.stage < 1 → error (.getCapabilities r)) ∧ (s.spdm.stage < 2 → error (.negotiateAlgorithms r))
      ∧ (∀ (nonce key : BitVec 256) (data : BitVec 512) (stream op f msg : Nat),
        (s.spdm.stage < 3 → ∀ i ∈ [Instr.getDigests r, .getCertificate r, .challenge r nonce, .getMeasurements r nonce, .keyExchange r data,
          .ideKmMessage r stream op key, .tdispMessage r f msg nonce], error i)
        ∧ (3 ≤ s.spdm.stage →
          let chain := Config.certificate identitySeed (aliasSeed (s.aliasOf.getD 0))
          let hash := fun l : List Byte => bytes (sha3 (l.map BitVec.toNat))
          let all := bytes (measIndices.flatMap (fun i => i :: bytesLittle (measurement s i).toNat 64))
          let sign := fun (n : BitVec 256) (d : List Byte) => some (Config.signature (aliasSeed (s.aliasOf.getD 0)) n d)
          answers (.getDigests r) s (.spdm r 0x01 (hash chain) none) ∧ answers (.getCertificate r) s (.spdm r 0x02 chain none)
          ∧ answers (.challenge r nonce) s (.spdm r 0x03 (hash chain ++ hash all) (sign nonce (hash chain ++ hash all)))
          ∧ answers (.getMeasurements r nonce) s (.spdm r 0x60 all (sign nonce all))
          ∧ (let d := Config.keyShare s.clock data
            answers (.keyExchange r data) (spdm s.spdm.stage (if r ∈ open_ then open_ else open_ ++ [r])) (.spdm r 0x64 d (sign 0 d)))
          ∧ (r ∉ open_ → error (.ideKmMessage r stream op key) ∧ error (.tdispMessage r f msg nonce))
          ∧ (r ∈ open_ →
            let ans := fun (code : Nat) (d : List Nat) => Msg.spdm r 0x7E (bytes (code :: d)) none
            let becomes := fun (i : Instr) (m : Msg) (g : State → Prop) => ∃ t, exec i s = .next t ∧ t.sent = s.sent ++ [m] ∧ g t
            let ide := ideOf s stream
            let ides := fun (t : State) (y : IdeSt) => t = { s with ide := t.ide, ideKeys := t.ideKeys, sent := t.sent }
              ∧ ∀ k, ideOf t k = if k = stream then y else ideOf s k
            let keyed := fun (t : State) (y : BitVec 256) => ∀ k, mget t.ideKeys k = if k = stream then y else mget s.ideKeys k
            (18 ≤ stream ∨ (op ≠ 0 ∧ op ≠ 2 ∧ op ≠ 4 ∧ op ≠ 5) ∨ (op = 4 ∧ ide ≠ .keyed ∧ ide ≠ .secure) →
              answers (.ideKmMessage r stream op key) s (ans 0x7F []))
            ∧ (stream < 18 → op = 0 → answers (.ideKmMessage r stream op key) s (ans 1 [match ide with
                | .off => 0
                | .keyed => 1
                | .secure => 2
                | .failed => 3]))
            ∧ (stream < 18 → op = 2 → becomes (.ideKmMessage r stream op key) (ans 3 []) (fun t =>
              ides t (if ide = .secure then .secure else .keyed) ∧ keyed t key))
            ∧ (stream < 18 → op = 4 → ide = .keyed ∨ ide = .secure → becomes (.ideKmMessage r stream op key) (ans 6 []) (fun t =>
              ides t .secure ∧ t.ideKeys = s.ideKeys))
            ∧ (stream < 18 → op = 5 → becomes (.ideKmMessage r stream op key) (ans 6 []) (fun t => ides t .off ∧ keyed t 0))
            ∧ (let i := Instr.tdispMessage r f msg nonce
              let st := mget s.tdi f
              let sec := ideOf s f = .secure
              let tdi := fun (t : State) (y : BitVec 2) (n : BitVec 256) => t = { s with tdi := t.tdi, tdiNonce := t.tdiNonce, sent := t.sent }
                ∧ (∀ k, mget t.tdi k = if k = f then y else mget s.tdi k) ∧ ∀ k, mget t.tdiNonce k = if k = f then n else mget s.tdiNonce k
              (16 ≤ f ∨ tget s.parts f = none → answers i s (ans 0x7F []))
              ∧ (f < 16 → tget s.parts f ≠ none →
                (msg = 0x83 → st = 0 → sec → let n := Config.randomKey s.clock
                  becomes i (ans 3 (bytesLittle n.toNat 32)) (fun t => tdi t 1 n))
                ∧ (msg = 0x83 → st ≠ 0 ∨ ¬sec → answers i s (ans 0x7F []))
                ∧ (msg = 0x85 → answers i s (ans 5 [st.toNat]))
                ∧ (msg = 0x86 → st = 1 → sec → mget s.tdiNonce f = nonce → becomes i (ans 6 []) (fun t => tdi t 2 0))
                ∧ (msg = 0x86 → st ≠ 1 ∨ ¬sec ∨ mget s.tdiNonce f ≠ nonce → answers i s (ans 0x7F []))
                ∧ (msg = 0x87 → becomes i (ans 7 []) (fun t => tdi t 0 0))
                ∧ (msg ≠ 0x83 → msg ≠ 0x85 → msg ≠ 0x86 → msg ≠ 0x87 → answers i s (ans 0x7F []))))))))
    ∧ (∀ stream : Nat, ideOf s stream = .keyed ∨ ideOf s stream = .secure → ∃ t, exec (.ideStreamFailure stream) s = .next t
      ∧ t = { s with ide := t.ide, tdi := t.tdi } ∧ (∀ k, ideOf t k = if k = stream then .failed else ideOf s k)
      ∧ ∀ k, mget t.tdi k = if k = stream ∧ stream < 16 then 3 else mget s.tdi k)
    ∧ (∀ (p : Nat) (digest : BitVec 512), p < 16 → capOn s p capService = true → ∃ t, exec (.tenantImageLoad p digest) s = .next t ∧ t = { s with meas := t.meas }
      ∧ ∀ k, mget t.meas k = if k = 0x10 + p then digest else mget s.meas k)
    ∧ (∀ src c : Nat, src < 3 → s.hold ≠ .power → ∀ i ∈ [Instr.eraseAlarm src, .keyStoreError src c true], ∃ t, exec i s = .next t
      ∧ t.hold = .erase ∧ t.keys = [] ∧ t.ident = false ∧ t.aliasOf = none ∧ t.logKeep = true ∧ (∀ l ∈ t.links, l.st = .down) ∧ t.groups = [] ∧ t.parts = []
      ∧ t.host = s.host ∧ ∃ e, t.elog.getLast? = some e ∧ e.kind = 5 ∧ (s.elog = [] → e.cls = 3))
    ∧ (∀ (hop unit : Nat) (addr : BitVec 64), 1 ≤ hop → hop ≤ 6 →
      let n := errRun s hop unit addr
      let fresh_ := ∀ e, s.elog.getLast? = some e → e.kind ≠ 1 ∨ e.addr ≠ addr ∨ e.unit ≠ unit ∨ e.ctx ≠ 0
      let rec_ := fun (t : State) (kind : Nat) => ∃ e, t.elog.getLast? = some e ∧ e.kind = kind ∧ e.hop = hop ∧ e.addr = addr ∧ e.unit = unit ∧ e.count = 1
      (∀ i : Instr, i = .correctedError hop unit addr ∨ (i = .repeatedCorrection hop unit addr ∧ n = 8) → ∃ t, exec i s = .next t
        ∧ t = { s with elog := t.elog, elogSeq := t.elogSeq, elogLost := t.elogLost, corr := t.corr }
        ∧ (∃ x, tget t.corr (hop * 65536 + unit % 65536) = some x ∧ x.2 = if n = 8 then 0 else n)
        ∧ (fresh_ → n ≠ 8 → rec_ t 1) ∧ (n = 8 → rec_ t 4))
      ∧ (hop < 6 → ∃ t, exec (.uncorrectableError hop unit addr) s = .next t
        ∧ t = { s with elog := t.elog, elogSeq := t.elogSeq, elogLost := t.elogLost, poison := t.poison, spoison := t.spoison, hostPoison := t.hostPoison }
        ∧ (∀ k, mget t.spoison k = if hop = 3 ∧ k = addr.toNat / 8 then 1 else mget s.spoison k)
        ∧ (∀ k, mget t.poison k = if hop ≠ 3 ∧ vaNode addr ≠ 510 ∧ k = addr.toNat / 16 then 1 else mget s.poison k)
        ∧ (∀ k, mget t.hostPoison k = if hop ≠ 3 ∧ vaNode addr = 510 ∧ k = vaOff addr / 16 then 1 else mget s.hostPoison k)
        ∧ ∃ e, t.elog.getLast? = some e ∧ e.kind = 2 ∧ e.addr = addr ∧ e.unit = unit))
    ∧ (let reset := fun (t : State) (h : Hold) => t.hold = h ∧ t.groups = [] ∧ t.grids = [] ∧ t.parts = [] ∧ t.ctxs = [] ∧ t.keys = [] ∧ t.hbm = [] ∧ t.spad = []
        ∧ t.reqs = [] ∧ t.stage = 0 ∧ t.bootSt = 0 ∧ t.aliasOf = none ∧ (∀ l ∈ t.links, l.st = .down) ∧ t.harts = State.reset.harts
        ∧ t.host = s.host ∧ t.clock = s.clock ∧ t.uid = s.uid ∧ t.sent = s.sent
      exec .powerGood s = .next { s with pgood := true }
      ∧ (∃ t, exec .powerRemoved s = .next t ∧ reset t .power ∧ t.pgood = false ∧ t.elog = s.elog ∧ t.tripped = s.tripped)
      ∧ (s.pgood = true → s.hold = .power → ∃ t, exec .powerOnReset s = .next t ∧ reset t .boot ∧ t.trip = s.tripped ∧ t.tripped = false
        ∧ t.elog = (if s.logKeep then s.elog else []) ∧ t.logKeep = false)
      ∧ (∀ i : Instr, i = .pcieFundamentalReset ∨ (∃ h x, i = .mrst h ∧ tget s.harts h = some x ∧ x.lvl = .m) →
        (s.hold = .none ∨ s.hold = .boot → ∃ t, exec i s = .next t ∧ reset t .boot ∧ t.elog = s.elog ∧ t.pgood = s.pgood)
        ∧ (s.hold = .power ∨ s.hold = .erase ∨ s.hold = .trip → exec i s = .next s))
      ∧ (∀ unit temp, unit < 13 → 110 ≤ temp → s.hold ≠ .power → s.hold ≠ .erase → ∃ t, exec (.thermalTrip unit temp) s = .next t ∧ reset t .trip ∧ t.tripped = true))
    ∧ (∀ stack temp, stack < 8 → 95 ≤ temp → temp < 256 → ∃ t, exec (.hbmHot stack temp) s = .next t ∧ t = { s with refresh2 := t.refresh2, stemps := t.stemps }
      ∧ (∀ k, k < 8 → t.refresh2.getLsbD k = (decide (k = stack) || s.refresh2.getLsbD k))
      ∧ ∀ k, k < 8 → t.stemps.toNat / 2 ^ (8 * k) % 256 = if k = stack then temp else s.stemps.toNat / 2 ^ (8 * k) % 256)
    ∧ (∀ (meas : Nat) (temps : BitVec 104), s.hold = .none → meas < 2 ^ 32 → (∀ k, k < 13 → sensor temps k < 110) →
      let limit := min 2400 (max 600 s.plim.toNat)
      let warm := (∃ k, k < 4 ∧ s.twarn.toNat ≤ sensor temps k) ∨ ∃ k, k < 8 ∧ 95 ≤ sensor temps (5 + k)
      ∃ t, exec (.powerComparison meas temps) s = .next t
        ∧ t = { s with noww := t.noww, maxw := t.maxw, steps := t.steps, temps := t.temps, stemps := t.stemps, refresh2 := t.refresh2 }
        ∧ t.noww.toNat = meas ∧ t.maxw.toNat = max s.maxw.toNat meas ∧ t.temps = temps.setWidth 40 ∧ t.stemps = temps.extractLsb' 40 64
        ∧ (∀ d, d < 4 → let cur := s.steps.toNat / 2 ^ (4 * d) % 16
          let new := t.steps.toNat / 2 ^ (4 * d) % 16
          (limit < meas ∨ s.twarn.toNat ≤ sensor temps d → new = max 3 (min (cur - 1) s.cmax.toNat))
          ∧ (meas * 100 < limit * 95 → ¬warm → new = max 3 (min (cur + 1) s.cmax.toNat))
          ∧ (meas ≤ limit → sensor temps d < s.twarn.toNat → limit * 95 ≤ meas * 100 ∨ warm → new = max 3 (min cur s.cmax.toNat)))
        ∧ ∀ k, k < 8 → t.refresh2.getLsbD k = decide (95 ≤ sensor temps (5 + k)))
    ∧ ∀ (h reg idx : Nat) (x : Hart) (v : BitVec 64), tget s.harts h = some x →
      let m := x.lvl = .m
      let hs := x.lvl = .m ∨ x.lvl = .hs
      let w := fun reg => Instr.registerWrite h reg idx v
      let sets := fun {n : Nat} (reg : Nat) (f : State → SMap n) (y : BitVec n) (g : SMap n → State) => ∃ t, exec (w reg) s = .next t ∧ t = g (f t)
        ∧ ∀ k, mget (f t) k = if k = idx then y else mget (f s) k
      (m → exec (.mstatTripClear h v) s = .next (if v.getLsbD 16 then { s with trip := false } else s)
        ∧ exec (.mpowMaxwClear h v) s = .next { s with maxw := s.maxw &&& ~~~(v.extractLsb' 32 32) }
        ∧ exec (w 0) s = .next { s with plim := v.setWidth 12 } ∧ exec (w 1) s = .next { s with cmax := v.extractLsb' 32 4 }
        ∧ exec (w 2) s = .next { s with twarn := v.extractLsb' 56 8 }
        ∧ (idx < 4 → exec (w 4) s = .next { s with svcRoots := s.svcRoots.set idx v }))
      ∧ (¬m → exec (.mstatTripClear h v) s = .next s ∧ exec (.mpowMaxwClear h v) s = .next s ∧ exec (.mrst h) s = .next s
        ∧ (reg ≤ 2 ∨ reg = 4 → exec (w reg) s = .next s))
      ∧ (hs → idx < 16 → sets 3 State.pregs (v &&& 0xFFFFFFFFFFFFF001) (fun y => { s with pregs := y }))
      ∧ (hs → idx < 384 → sets 6 State.routes (v.setWidth 18) (fun y => { s with routes := y }))
      ∧ (hs → ∃ t, exec (w 5) s = .next t ∧ t = { s with harts := t.harts } ∧ tget t.harts h = some { x with icr := v &&& 0x7FF001F }
        ∧ ∀ k, k ≠ h → tget t.harts k = tget s.harts k)
      ∧ (¬hs → (reg = 3 ∨ reg = 6 → exec (w reg) s = .next s) ∧ ∃ tval, exec (w 5) s = .next (takeException s h x 22 tval))
      ∧ ∀ f, f ≤ 16 → idx < 256 → portUp s 18 = true →
        let key := f * 256 + idx
        let i := fun reg => Instr.registerWrite (48 + f) reg idx v
        let old := mget s.msix key
        (∃ t, exec (i 7) s = .next t ∧ t = { s with msix := t.msix } ∧ ∀ k, mget t.msix k = if k = key then v ++ old.setWidth 32 else mget s.msix k)
        ∧ (∃ t, exec (i 8) s = .next t ∧ t = { s with msix := t.msix } ∧ ∀ k, mget t.msix k = if k = key then old.extractLsb' 32 64 ++ v.setWidth 32 else mget s.msix k)
        ∧ ∃ t, exec (i 9) s = .next t ∧ (∀ k, mget t.msixOn k = if k = key then (if v.getLsbD 0 then 0 else 1) else mget s.msixOn k)
          ∧ t = { s with msixOn := t.msixOn, msixPend := t.msixPend, sent := t.sent }
          ∧ (v.getLsbD 0 = false → mget s.msixPend key = 1 → mget t.msixPend key = 0 ∧ t.sent = s.sent ++ [.msix f idx])
          ∧ (v.getLsbD 0 = true ∨ mget s.msixPend key ≠ 1 → t.msixPend = s.msixPend ∧ t.sent = s.sent)

/-- R25, R48, R142, R146, R168, R216, R337, R440 and the step table: a step runs the decoded instruction. The move given first is taken: a slot, a hart
or a near-bank command runs the instruction that the bytes at its PC decode to, and an event is what it says. The fetch is noted in
the copies of its line. A hart's word that is none of the capability extension is a base word, or an illegal instruction; an interrupt that pends and is
enabled comes first and saves the PC of the word, a WFN that waits among them (R444; which interrupts pend is log 116). With no
move given, the turn of a core that has a ready slot is that move of the slot its arbiter chooses. -/
def Obligations.StepRunsDecoded : Prop :=
  ∀ (s : State) (ms : List Move), s.hold = .none →
    let taken := fun who : Issuer => { s with inputs := ms, clock := s.clock + 1, issuer := who }
    (∀ (gid side : Nat) (g : Group) (d pa : Nat) (t : Target) (e : DWord) (i : Instr), t = .hbm d pa ∨ t = .hdm d pa → s.inputs = .slot gid side :: ms → tget s.groups gid = some g →
      let u := taken (.slot gid side)
      let pc := (slotOf g side).pc
      mayIssue u g (slotOf g side) = true → checkAcc u (reqOf u g) .fetch pc 4 pc.toNat 4 = .ok t e → poisonedT u t 4 = false →
      decode ((List.range 4).map (fun k => mget s.hbm (hkey d pa + k))) = .ok i → step s = exec i (noteFetch u g.core t))
    ∧ (∀ (h : Nat) (x : Hart) (w : Word) (i : Instr), s.inputs = .hart h :: ms → tget s.harts h = some x →
      fetchHart (taken (.hart h)) h x = .word w → decodeHart w = some i → step s = exec i (taken (.hart h)))
    ∧ (∀ (h : Nat) (x : Hart) (w : Word), s.inputs = .hart h :: ms → tget s.harts h = some x → fetchHart (taken (.hart h)) h x = .word w →
      decodeHart w = none → (capOpcode w = true → ∃ tval, step s = .next (takeException (taken (.hart h)) h x 2 tval))
        ∧ (capOpcode w = false → step s = .next (baseStep (taken (.hart h)) h x w)))
    ∧ (∀ (h k : Nat) (x : Hart) (lvl : HLevel), s.inputs = .hart h :: ms → tget s.harts h = some x → x.busy = false → x.refused = none →
      hartInt x = some (k, lvl) → step s = .next (takeInterrupt (taken (.hart h)) h x k lvl)
        ∧ ∃ y, tget (takeInterrupt (taken (.hart h)) h x k lvl).harts h = some y ∧ y.lvl = lvl ∧ y.x = x.x
          ∧ csrGet y (match lvl with
            | .m => 0x341
            | .hs => 0x141
            | .vs => 0x241
            | .vu => 0x241) = x.pc)
    ∧ (∀ (id ip : Nat) (c : NbCmd) (i : Instr), s.inputs = .nb id :: ms → tget s.nbcmds id = some c → c.at? = some ip →
      let at_ := (2 * nwDie c.word + nwStack c.word) * 4096 + (allotment s c.part).1 + ip
      decodeNb (mget s.seqst at_) = some i → step s = exec i (taken (.nb id)))
    ∧ (∀ i : Instr, s.inputs = .event i :: ms → step s = exec i (taken .device))
    ∧ (∀ fn off size : Nat, s.inputs = .bar fn off size :: ms → step s = .next (barRead (taken .device) fn off size))
    ∧ ∀ (core gid side : Nat), s.inputs = [] → (s.clock + 1) % 4 = 0 →
      let v := { s with clock := s.clock + 1 }
      nextCore v (slotMoves v) = some core → chosen v (slotMoves v) core = some (gid, side) →
      step s = step { passOver64 v (slotMoves v) core gid side with turn := core, clock := s.clock, inputs := [.slot gid side] }

/-- R25, R26, R336, R440: words written out from the encodings of the spec decode to the instructions they stand for, one or more of each
class; a reserved opcode, and a nonzero reserved bit, are refused. -/
def Obligations.DecodeWords : Prop :=
  decodeTableWord 32 0b00000000100000000000000000000101 = some (.bra 5)
  ∧ decodeTableWord 32 0b00000101100000000000001100110111 = some (.mode 0 3 3 0 7)
  ∧ decodeTableWord 32 0b00100001000000001100001000000011 = some (.sadd 3 4 3)
  ∧ decodeTableWord 32 0b01000000100000010100001100000111 = some (.vadd 0 5 6 7)
  ∧ decodeTableWord 32 0b01100000001000000100000100000011 = some (.fadd 1 1 2 3)
  ∧ decodeTableWord 32 0b10000001000000001000001000000110 = some (.pack 0 2 4 6)
  ∧ decodeTableWord 32 0b10100001000100001010000110001001 = some (.vld32 2 10 3 9)
  ∧ decodeTableWord 32 0b11000000000000000001000100000011 = some (.amoadd 0 1 2 3)
  ∧ decodeTableWord 32 0b11100000100001000000101000000000 = some (.opunb 4 5)
  ∧ decodeTableWord 32 0b00000000010100011000010101111011 = some (.csetbnd 5 3 10)
  ∧ decodeTableWord 32 0b00000010010100011011010100101011 = some (.ntfySet 5 3 10)
  ∧ decodeTableWord 32 0b00000011000000000000000000000001 = none
  ∧ decodeTableWord 32 0b00001111000000000000000000000000 = none
  ∧ decodeTableWord 64 (0x6 * 2 ^ 60 + 0x2A * 2 ^ 48) = some (.nbDjnz 0x2A)
  ∧ decodeTableWord 64 (0x2 * 2 ^ 60 + 1 * 2 ^ 16 + 0xF0 * 2 ^ 8 + 0x0F) = some (.nbCmp 1 0xF0 0x0F)
  ∧ decodeTableWord 64 (0x2 * 2 ^ 60 + 1 * 2 ^ 20) = none

/-- R25, R26, R41, R45, R336, R337, R440: decoding and encoding agree. Every well-formed instruction that has a word decodes from it again, with each
operand as it was; the encoding of a word of a group lies in memory as four bytes, the least significant first. -/
def Obligations.DecodeEncode : Prop :=
  ∀ i : Instr, i.wf = true →
    (kindOf i = .harran → decode (bytesOfWord (encode i)) = .ok i) ∧ (kindOf i = .hart → decodeHart (encode i) = some i)
    ∧ (kindOf i = .nearBank → decodeNb (encodeNb i) = some i)

/-- R449, R461: an ERASE alarm holds the module in reset, with its key store erased, every port DOWN and nothing placed, until power is
removed: every step that does not remove power keeps it so, and every step is taken. -/
def Obligations.EraseIsKept : Prop :=
  ∀ s : State,
    let erased := fun t : State => t.hold = .erase ∧ t.keys = [] ∧ t.groups = [] ∧ t.parts = [] ∧ t.aliasOf = none ∧ ∀ l ∈ t.links, l.st = .down
    erased s → (∀ ms, s.inputs ≠ .event .powerRemoved :: ms) → ∃ t, step s = .next t ∧ erased t

/-- R9, R165, R296, R396, R411, R413, R416, R445, R461, R462: the machine right after reset, with the values the spec gives. The keystone is about to verify stage
1; ports are DOWN and disabled; no partition, context, group or key exists; the management registers hold their Reset values;
and every memory is in canonical form. -/
def Obligations.ResetState : Prop :=
  let r := State.reset
  r.hold = .boot ∧ r.stage = 0 ∧ r.bootSt = 0 ∧ r.parts = [] ∧ r.ctxs = [] ∧ r.keys = [] ∧ r.groups = [] ∧ r.blocks = [] ∧ r.grids = [] ∧ r.ops = []
    ∧ r.links = List.replicate 20 { st := .down, en := false, att := 0, width := 0, retry := 0 } ∧ r.trip = false ∧ r.plim = 2400 ∧ r.maxw = 0 ∧ r.noww = 0
    ∧ r.cmax = 15 ∧ r.steps = 0 ∧ r.twarn = 95 ∧ r.temps = 0 ∧ r.stemps = 0 ∧ (∀ p, mget r.windows p = 0) ∧ (∀ i, mget r.peers i = 0) ∧ (∀ p, mget r.biasreq p = 0)
    ∧ (∀ p, mget r.pcerr p = 0 ∧ mget r.pcerrAddr p = 0) ∧ Memory.wf r = true
end

