-- ==== Sys2Proof/Laws/Dispatch.lean ====
section
/-! SUPPORT. The meaning that each instruction has, one lemma per arm of `exec`. -/

namespace Sys2Proof.Machine

@[simp] theorem exec_nop (s : State) : exec (.nop) s = execNop s := rfl
@[simp] theorem exec_bra (i0 : BitVec 23) (s : State) : exec (.bra i0) s = execBra i0 s := rfl
@[simp] theorem exec_bc (s0 : BitVec 1) (p : BitVec 3) (i0 : BitVec 16) (s : State) : exec (.bc s0 p i0) s = execBc s0 p i0 s := rfl
@[simp] theorem exec_bany (s0 : BitVec 1) (p : BitVec 3) (i0 : BitVec 16) (s : State) : exec (.bany s0 p i0) s = execBany s0 p i0 s := rfl
@[simp] theorem exec_ball (s0 : BitVec 1) (p : BitVec 3) (i0 : BitVec 16) (s : State) : exec (.ball s0 p i0) s = execBall s0 p i0 s := rfl
@[simp] theorem exec_jset (i0 : BitVec 16) (s : State) : exec (.jset i0) s = execJset i0 s := rfl
@[simp] theorem exec_join (s : State) : exec (.join) s = execJoin s := rfl
@[simp] theorem exec_call (i0 : BitVec 23) (s : State) : exec (.call i0) s = execCall i0 s := rfl
@[simp] theorem exec_ret (s : State) : exec (.ret) s = execRet s := rfl
@[simp] theorem exec_jr (a : BitVec 7) (i0 : BitVec 9) (s : State) : exec (.jr a i0) s = execJr a i0 s := rfl
@[simp] theorem exec_exit (s : State) : exec (.exit) s = execExit s := rfl
@[simp] theorem exec_mode (t : BitVec 1) (r : BitVec 2) (e : BitVec 4) (g : BitVec 1) (p : BitVec 3) (s : State) : exec (.mode t r e g p) s = execMode t r e g p s := rfl
@[simp] theorem exec_lit (i0 : BitVec 23) (s : State) : exec (.lit i0) s = execLit i0 s := rfl
@[simp] theorem exec_xacq (n : BitVec 2) (s : State) : exec (.xacq n) s = execXacq n s := rfl
@[simp] theorem exec_xrel (n : BitVec 2) (s : State) : exec (.xrel n) s = execXrel n s := rfl
@[simp] theorem exec_rgb (s0 : BitVec 1) (p : BitVec 3) (i0 : BitVec 16) (s : State) : exec (.rgb s0 p i0) s = execRgb s0 p i0 s := rfl
@[simp] theorem exec_refill (d : BitVec 7) (i0 : BitVec 16) (s : State) : exec (.refill d i0) s = execRefill d i0 s := rfl
@[simp] theorem exec_itemp (d : BitVec 7) (a : BitVec 7) (i0 : BitVec 9) (s : State) : exec (.itemp d a i0) s = execItemp d a i0 s := rfl
@[simp] theorem exec_yield (s : State) : exec (.yield) s = execYield s := rfl
@[simp] theorem exec_brk (i0 : BitVec 23) (s : State) : exec (.brk i0) s = execBrk i0 s := rfl
@[simp] theorem exec_sysc (i0 : BitVec 23) (s : State) : exec (.sysc i0) s = execSysc i0 s := rfl
@[simp] theorem exec_trapret (k : BitVec 1) (s : State) : exec (.trapret k) s = execTrapret k s := rfl
@[simp] theorem exec_sret (k : BitVec 1) (s : State) : exec (.sret k) s = execSret k s := rfl
@[simp] theorem exec_vsw (j : BitVec 6) (s : State) : exec (.vsw j) s = execVsw j s := rfl
@[simp] theorem exec_claunch (d : BitVec 7) (a : BitVec 7) (i0 : BitVec 9) (s : State) : exec (.claunch d a i0) s = execClaunch d a i0 s := rfl
@[simp] theorem exec_cwait (s : State) : exec (.cwait) s = execCwait s := rfl
@[simp] theorem exec_capr (d : BitVec 7) (a : BitVec 7) (i0 : BitVec 9) (s : State) : exec (.capr d a i0) s = execCapr d a i0 s := rfl
@[simp] theorem exec_smov (d : BitVec 7) (b : BitVec 7) (s : State) : exec (.smov d b) s = execSmov d b s := rfl
@[simp] theorem exec_sli (d : BitVec 7) (i0 : BitVec 16) (s : State) : exec (.sli d i0) s = execSli d i0 s := rfl
@[simp] theorem exec_sadd (d : BitVec 7) (a : BitVec 7) (b : BitVec 7) (s : State) : exec (.sadd d a b) s = execSadd d a b s := rfl
@[simp] theorem exec_saddi (d : BitVec 7) (a : BitVec 7) (i0 : BitVec 9) (s : State) : exec (.saddi d a i0) s = execSaddi d a i0 s := rfl
@[simp] theorem exec_ssub (d : BitVec 7) (a : BitVec 7) (b : BitVec 7) (s : State) : exec (.ssub d a b) s = execSsub d a b s := rfl
@[simp] theorem exec_smul (d : BitVec 7) (a : BitVec 7) (b : BitVec 7) (s : State) : exec (.smul d a b) s = execSmul d a b s := rfl
@[simp] theorem exec_smulh (d : BitVec 7) (a : BitVec 7) (b : BitVec 7) (s : State) : exec (.smulh d a b) s = execSmulh d a b s := rfl
@[simp] theorem exec_smulhu (d : BitVec 7) (a : BitVec 7) (b : BitVec 7) (s : State) : exec (.smulhu d a b) s = execSmulhu d a b s := rfl
@[simp] theorem exec_sdiv (d : BitVec 7) (a : BitVec 7) (b : BitVec 7) (s : State) : exec (.sdiv d a b) s = execSdiv d a b s := rfl
@[simp] theorem exec_sdivu (d : BitVec 7) (a : BitVec 7) (b : BitVec 7) (s : State) : exec (.sdivu d a b) s = execSdivu d a b s := rfl
@[simp] theorem exec_srem (d : BitVec 7) (a : BitVec 7) (b : BitVec 7) (s : State) : exec (.srem d a b) s = execSrem d a b s := rfl
@[simp] theorem exec_sremu (d : BitVec 7) (a : BitVec 7) (b : BitVec 7) (s : State) : exec (.sremu d a b) s = execSremu d a b s := rfl
@[simp] theorem exec_sand (d : BitVec 7) (a : BitVec 7) (b : BitVec 7) (s : State) : exec (.sand d a b) s = execSand d a b s := rfl
@[simp] theorem exec_sor (d : BitVec 7) (a : BitVec 7) (b : BitVec 7) (s : State) : exec (.sor d a b) s = execSor d a b s := rfl
@[simp] theorem exec_sxor (d : BitVec 7) (a : BitVec 7) (b : BitVec 7) (s : State) : exec (.sxor d a b) s = execSxor d a b s := rfl
@[simp] theorem exec_sshl (d : BitVec 7) (a : BitVec 7) (b : BitVec 7) (s : State) : exec (.sshl d a b) s = execSshl d a b s := rfl
@[simp] theorem exec_sshr (d : BitVec 7) (a : BitVec 7) (b : BitVec 7) (s : State) : exec (.sshr d a b) s = execSshr d a b s := rfl
@[simp] theorem exec_ssra (d : BitVec 7) (a : BitVec 7) (b : BitVec 7) (s : State) : exec (.ssra d a b) s = execSsra d a b s := rfl
@[simp] theorem exec_smin (d : BitVec 7) (a : BitVec 7) (b : BitVec 7) (s : State) : exec (.smin d a b) s = execSmin d a b s := rfl
@[simp] theorem exec_smax (d : BitVec 7) (a : BitVec 7) (b : BitVec 7) (s : State) : exec (.smax d a b) s = execSmax d a b s := rfl
@[simp] theorem exec_sminu (d : BitVec 7) (a : BitVec 7) (b : BitVec 7) (s : State) : exec (.sminu d a b) s = execSminu d a b s := rfl
@[simp] theorem exec_smaxu (d : BitVec 7) (a : BitVec 7) (b : BitVec 7) (s : State) : exec (.smaxu d a b) s = execSmaxu d a b s := rfl
@[simp] theorem exec_sclz (d : BitVec 7) (b : BitVec 7) (s : State) : exec (.sclz d b) s = execSclz d b s := rfl
@[simp] theorem exec_spopc (d : BitVec 7) (b : BitVec 7) (s : State) : exec (.spopc d b) s = execSpopc d b s := rfl
@[simp] theorem exec_ssetlt (d : BitVec 7) (a : BitVec 7) (b : BitVec 7) (s : State) : exec (.ssetlt d a b) s = execSsetlt d a b s := rfl
@[simp] theorem exec_ssetltu (d : BitVec 7) (a : BitVec 7) (b : BitVec 7) (s : State) : exec (.ssetltu d a b) s = execSsetltu d a b s := rfl
@[simp] theorem exec_sseteq (d : BitVec 7) (a : BitVec 7) (b : BitVec 7) (s : State) : exec (.sseteq d a b) s = execSseteq d a b s := rfl
@[simp] theorem exec_gets (d : BitVec 7) (i0 : BitVec 9) (s : State) : exec (.gets d i0) s = execGets d i0 s := rfl
@[simp] theorem exec_puts (a : BitVec 7) (i0 : BitVec 9) (s : State) : exec (.puts a i0) s = execPuts a i0 s := rfl
@[simp] theorem exec_sbcast (d : BitVec 7) (b : BitVec 7) (s : State) : exec (.sbcast d b) s = execSbcast d b s := rfl
@[simp] theorem exec_slane (h : BitVec 2) (d : BitVec 7) (a : BitVec 7) (b : BitVec 7) (s : State) : exec (.slane h d a b) s = execSlane h d a b s := rfl
@[simp] theorem exec_vmov (h : BitVec 2) (d : BitVec 7) (b : BitVec 7) (s : State) : exec (.vmov h d b) s = execVmov h d b s := rfl
@[simp] theorem exec_vadd (h : BitVec 2) (d : BitVec 7) (a : BitVec 7) (b : BitVec 7) (s : State) : exec (.vadd h d a b) s = execVadd h d a b s := rfl
@[simp] theorem exec_vsub (h : BitVec 2) (d : BitVec 7) (a : BitVec 7) (b : BitVec 7) (s : State) : exec (.vsub h d a b) s = execVsub h d a b s := rfl
@[simp] theorem exec_vmul (h : BitVec 2) (d : BitVec 7) (a : BitVec 7) (b : BitVec 7) (s : State) : exec (.vmul h d a b) s = execVmul h d a b s := rfl
@[simp] theorem exec_vmulh (h : BitVec 2) (d : BitVec 7) (a : BitVec 7) (b : BitVec 7) (s : State) : exec (.vmulh h d a b) s = execVmulh h d a b s := rfl
@[simp] theorem exec_vmad (h : BitVec 2) (d : BitVec 7) (a : BitVec 7) (b : BitVec 7) (s : State) : exec (.vmad h d a b) s = execVmad h d a b s := rfl
@[simp] theorem exec_vmin (h : BitVec 2) (d : BitVec 7) (a : BitVec 7) (b : BitVec 7) (s : State) : exec (.vmin h d a b) s = execVmin h d a b s := rfl
@[simp] theorem exec_vmax (h : BitVec 2) (d : BitVec 7) (a : BitVec 7) (b : BitVec 7) (s : State) : exec (.vmax h d a b) s = execVmax h d a b s := rfl
@[simp] theorem exec_vabs (h : BitVec 2) (d : BitVec 7) (a : BitVec 7) (s : State) : exec (.vabs h d a) s = execVabs h d a s := rfl
@[simp] theorem exec_vneg (h : BitVec 2) (d : BitVec 7) (a : BitVec 7) (s : State) : exec (.vneg h d a) s = execVneg h d a s := rfl
@[simp] theorem exec_vand (h : BitVec 2) (d : BitVec 7) (a : BitVec 7) (b : BitVec 7) (s : State) : exec (.vand h d a b) s = execVand h d a b s := rfl
@[simp] theorem exec_vor (h : BitVec 2) (d : BitVec 7) (a : BitVec 7) (b : BitVec 7) (s : State) : exec (.vor h d a b) s = execVor h d a b s := rfl
@[simp] theorem exec_vxor (h : BitVec 2) (d : BitVec 7) (a : BitVec 7) (b : BitVec 7) (s : State) : exec (.vxor h d a b) s = execVxor h d a b s := rfl
@[simp] theorem exec_vnot (h : BitVec 2) (d : BitVec 7) (a : BitVec 7) (s : State) : exec (.vnot h d a) s = execVnot h d a s := rfl
@[simp] theorem exec_vshl (h : BitVec 2) (d : BitVec 7) (a : BitVec 7) (b : BitVec 7) (s : State) : exec (.vshl h d a b) s = execVshl h d a b s := rfl
@[simp] theorem exec_vshr (h : BitVec 2) (d : BitVec 7) (a : BitVec 7) (b : BitVec 7) (s : State) : exec (.vshr h d a b) s = execVshr h d a b s := rfl
@[simp] theorem exec_vsra (h : BitVec 2) (d : BitVec 7) (a : BitVec 7) (b : BitVec 7) (s : State) : exec (.vsra h d a b) s = execVsra h d a b s := rfl
@[simp] theorem exec_vclz (h : BitVec 2) (d : BitVec 7) (a : BitVec 7) (s : State) : exec (.vclz h d a) s = execVclz h d a s := rfl
@[simp] theorem exec_vpopc (h : BitVec 2) (d : BitVec 7) (a : BitVec 7) (s : State) : exec (.vpopc h d a) s = execVpopc h d a s := rfl
@[simp] theorem exec_vbfx (h : BitVec 2) (d : BitVec 7) (a : BitVec 7) (b : BitVec 7) (s : State) : exec (.vbfx h d a b) s = execVbfx h d a b s := rfl
@[simp] theorem exec_vbfi (h : BitVec 2) (d : BitVec 7) (a : BitVec 7) (b : BitVec 7) (s : State) : exec (.vbfi h d a b) s = execVbfi h d a b s := rfl
@[simp] theorem exec_vsel (h : BitVec 2) (d : BitVec 7) (a : BitVec 7) (b : BitVec 7) (s : State) : exec (.vsel h d a b) s = execVsel h d a b s := rfl
@[simp] theorem exec_vcmpeq (h : BitVec 2) (d : BitVec 7) (a : BitVec 7) (b : BitVec 7) (s : State) : exec (.vcmpeq h d a b) s = execVcmpeq h d a b s := rfl
@[simp] theorem exec_vcmplt (h : BitVec 2) (d : BitVec 7) (a : BitVec 7) (b : BitVec 7) (s : State) : exec (.vcmplt h d a b) s = execVcmplt h d a b s := rfl
@[simp] theorem exec_vcmple (h : BitVec 2) (d : BitVec 7) (a : BitVec 7) (b : BitVec 7) (s : State) : exec (.vcmple h d a b) s = execVcmple h d a b s := rfl
@[simp] theorem exec_vpand (d : BitVec 7) (a : BitVec 7) (b : BitVec 7) (s : State) : exec (.vpand d a b) s = execVpand d a b s := rfl
@[simp] theorem exec_vpor (d : BitVec 7) (a : BitVec 7) (b : BitVec 7) (s : State) : exec (.vpor d a b) s = execVpor d a b s := rfl
@[simp] theorem exec_vpxor (d : BitVec 7) (a : BitVec 7) (b : BitVec 7) (s : State) : exec (.vpxor d a b) s = execVpxor d a b s := rfl
@[simp] theorem exec_vpnot (d : BitVec 7) (a : BitVec 7) (s : State) : exec (.vpnot d a) s = execVpnot d a s := rfl
@[simp] theorem exec_vshfl (h : BitVec 2) (d : BitVec 7) (a : BitVec 7) (b : BitVec 7) (s : State) : exec (.vshfl h d a b) s = execVshfl h d a b s := rfl
@[simp] theorem exec_vradd (h : BitVec 2) (d : BitVec 7) (a : BitVec 7) (s : State) : exec (.vradd h d a) s = execVradd h d a s := rfl
@[simp] theorem exec_vrmin (h : BitVec 2) (d : BitVec 7) (a : BitVec 7) (s : State) : exec (.vrmin h d a) s = execVrmin h d a s := rfl
@[simp] theorem exec_vrmax (h : BitVec 2) (d : BitVec 7) (a : BitVec 7) (s : State) : exec (.vrmax h d a) s = execVrmax h d a s := rfl
@[simp] theorem exec_vscan (h : BitVec 2) (d : BitVec 7) (a : BitVec 7) (s : State) : exec (.vscan h d a) s = execVscan h d a s := rfl
@[simp] theorem exec_vlane (h : BitVec 2) (d : BitVec 7) (a : BitVec 7) (b : BitVec 7) (s : State) : exec (.vlane h d a b) s = execVlane h d a b s := rfl
@[simp] theorem exec_vaddi (d : BitVec 7) (a : BitVec 7) (i0 : BitVec 9) (s : State) : exec (.vaddi d a i0) s = execVaddi d a i0 s := rfl
@[simp] theorem exec_fadd (h : BitVec 2) (d : BitVec 7) (a : BitVec 7) (b : BitVec 7) (s : State) : exec (.fadd h d a b) s = execFadd h d a b s := rfl
@[simp] theorem exec_fsub (h : BitVec 2) (d : BitVec 7) (a : BitVec 7) (b : BitVec 7) (s : State) : exec (.fsub h d a b) s = execFsub h d a b s := rfl
@[simp] theorem exec_fmul (h : BitVec 2) (d : BitVec 7) (a : BitVec 7) (b : BitVec 7) (s : State) : exec (.fmul h d a b) s = execFmul h d a b s := rfl
@[simp] theorem exec_fma (h : BitVec 2) (d : BitVec 7) (a : BitVec 7) (b : BitVec 7) (s : State) : exec (.fma h d a b) s = execFma h d a b s := rfl
@[simp] theorem exec_fms (h : BitVec 2) (d : BitVec 7) (a : BitVec 7) (b : BitVec 7) (s : State) : exec (.fms h d a b) s = execFms h d a b s := rfl
@[simp] theorem exec_fnma (h : BitVec 2) (d : BitVec 7) (a : BitVec 7) (b : BitVec 7) (s : State) : exec (.fnma h d a b) s = execFnma h d a b s := rfl
@[simp] theorem exec_fmin (h : BitVec 2) (d : BitVec 7) (a : BitVec 7) (b : BitVec 7) (s : State) : exec (.fmin h d a b) s = execFmin h d a b s := rfl
@[simp] theorem exec_fmax (h : BitVec 2) (d : BitVec 7) (a : BitVec 7) (b : BitVec 7) (s : State) : exec (.fmax h d a b) s = execFmax h d a b s := rfl
@[simp] theorem exec_fabs (h : BitVec 2) (d : BitVec 7) (a : BitVec 7) (s : State) : exec (.fabs h d a) s = execFabs h d a s := rfl
@[simp] theorem exec_fneg (h : BitVec 2) (d : BitVec 7) (a : BitVec 7) (s : State) : exec (.fneg h d a) s = execFneg h d a s := rfl
@[simp] theorem exec_fcmpeq (h : BitVec 2) (d : BitVec 7) (a : BitVec 7) (b : BitVec 7) (s : State) : exec (.fcmpeq h d a b) s = execFcmpeq h d a b s := rfl
@[simp] theorem exec_fcmplt (h : BitVec 2) (d : BitVec 7) (a : BitVec 7) (b : BitVec 7) (s : State) : exec (.fcmplt h d a b) s = execFcmplt h d a b s := rfl
@[simp] theorem exec_fcmple (h : BitVec 2) (d : BitVec 7) (a : BitVec 7) (b : BitVec 7) (s : State) : exec (.fcmple h d a b) s = execFcmple h d a b s := rfl
@[simp] theorem exec_fcmpun (h : BitVec 2) (d : BitVec 7) (a : BitVec 7) (b : BitVec 7) (s : State) : exec (.fcmpun h d a b) s = execFcmpun h d a b s := rfl
@[simp] theorem exec_fdiv (h : BitVec 2) (d : BitVec 7) (a : BitVec 7) (b : BitVec 7) (s : State) : exec (.fdiv h d a b) s = execFdiv h d a b s := rfl
@[simp] theorem exec_fsqrt (h : BitVec 2) (d : BitVec 7) (a : BitVec 7) (s : State) : exec (.fsqrt h d a) s = execFsqrt h d a s := rfl
@[simp] theorem exec_frcp (h : BitVec 2) (d : BitVec 7) (a : BitVec 7) (s : State) : exec (.frcp h d a) s = execFrcp h d a s := rfl
@[simp] theorem exec_frsq (h : BitVec 2) (d : BitVec 7) (a : BitVec 7) (s : State) : exec (.frsq h d a) s = execFrsq h d a s := rfl
@[simp] theorem exec_fexp2 (h : BitVec 2) (d : BitVec 7) (a : BitVec 7) (s : State) : exec (.fexp2 h d a) s = execFexp2 h d a s := rfl
@[simp] theorem exec_flog2 (h : BitVec 2) (d : BitVec 7) (a : BitVec 7) (s : State) : exec (.flog2 h d a) s = execFlog2 h d a s := rfl
@[simp] theorem exec_fsin (h : BitVec 2) (d : BitVec 7) (a : BitVec 7) (s : State) : exec (.fsin h d a) s = execFsin h d a s := rfl
@[simp] theorem exec_fcos (h : BitVec 2) (d : BitVec 7) (a : BitVec 7) (s : State) : exec (.fcos h d a) s = execFcos h d a s := rfl
@[simp] theorem exec_ftanh (h : BitVec 2) (d : BitVec 7) (a : BitVec 7) (s : State) : exec (.ftanh h d a) s = execFtanh h d a s := rfl
@[simp] theorem exec_fclass (h : BitVec 2) (d : BitVec 7) (a : BitVec 7) (s : State) : exec (.fclass h d a) s = execFclass h d a s := rfl
@[simp] theorem exec_frint (h : BitVec 2) (d : BitVec 7) (a : BitVec 7) (s : State) : exec (.frint h d a) s = execFrint h d a s := rfl
@[simp] theorem exec_fradd (h : BitVec 2) (d : BitVec 7) (a : BitVec 7) (s : State) : exec (.fradd h d a) s = execFradd h d a s := rfl
@[simp] theorem exec_fdota (h : BitVec 2) (d : BitVec 7) (a : BitVec 7) (b : BitVec 7) (s : State) : exec (.fdota h d a b) s = execFdota h d a b s := rfl
@[simp] theorem exec_aadd (h : BitVec 2) (d : BitVec 7) (a : BitVec 7) (b : BitVec 7) (s : State) : exec (.aadd h d a b) s = execAadd h d a b s := rfl
@[simp] theorem exec_areda (h : BitVec 2) (d : BitVec 7) (a : BitVec 7) (s : State) : exec (.areda h d a) s = execAreda h d a s := rfl
@[simp] theorem exec_cvt (t : BitVec 4) (d : BitVec 7) (a : BitVec 7) (s : State) : exec (.cvt t d a) s = execCvt t d a s := rfl
@[simp] theorem exec_cvti (t : BitVec 4) (d : BitVec 7) (a : BitVec 7) (s : State) : exec (.cvti t d a) s = execCvti t d a s := rfl
@[simp] theorem exec_pack (h : BitVec 2) (d : BitVec 7) (a : BitVec 7) (b : BitVec 7) (s : State) : exec (.pack h d a b) s = execPack h d a b s := rfl
@[simp] theorem exec_unpk (h : BitVec 2) (d : BitVec 7) (a : BitVec 7) (b : BitVec 7) (s : State) : exec (.unpk h d a b) s = execUnpk h d a b s := rfl
@[simp] theorem exec_qnt (s0 : BitVec 3) (w : BitVec 1) (k : BitVec 5) (d : BitVec 7) (a : BitVec 7) (s : State) : exec (.qnt s0 w k d a) s = execQnt s0 w k d a s := rfl
@[simp] theorem exec_dqnt (s0 : BitVec 3) (w : BitVec 1) (k : BitVec 5) (d : BitVec 7) (a : BitVec 7) (s : State) : exec (.dqnt s0 w k d a) s = execDqnt s0 w k d a s := rfl
@[simp] theorem exec_hadr (s0 : BitVec 3) (b : BitVec 5) (d : BitVec 7) (a : BitVec 7) (s : State) : exec (.hadr s0 b d a) s = execHadr s0 b d a s := rfl
@[simp] theorem exec_hadi (s0 : BitVec 3) (b : BitVec 5) (d : BitVec 7) (a : BitVec 7) (s : State) : exec (.hadi s0 b d a) s = execHadi s0 b d a s := rfl
@[simp] theorem exec_amax (h : BitVec 2) (d : BitVec 7) (a : BitVec 7) (b : BitVec 7) (s : State) : exec (.amax h d a b) s = execAmax h d a b s := rfl
@[simp] theorem exec_adrn (s0 : BitVec 3) (c : BitVec 1) (d : BitVec 7) (a : BitVec 7) (s : State) : exec (.adrn s0 c d a) s = execAdrn s0 c d a s := rfl
@[simp] theorem exec_afrom (s0 : BitVec 3) (e : BitVec 1) (d : BitVec 7) (a : BitVec 7) (s : State) : exec (.afrom s0 e d a) s = execAfrom s0 e d a s := rfl
@[simp] theorem exec_fslt (d : BitVec 7) (w : BitVec 3) (s0 : BitVec 3) (s : State) : exec (.fslt d w s0) s = execFslt d w s0 s := rfl
@[simp] theorem exec_vld8 (s0 : BitVec 4) (d : BitVec 7) (b : BitVec 5) (o : BitVec 7) (s : State) : exec (.vld8 s0 d b o) s = execVld8 s0 d b o s := rfl
@[simp] theorem exec_vld16 (s0 : BitVec 4) (d : BitVec 7) (b : BitVec 5) (o : BitVec 7) (s : State) : exec (.vld16 s0 d b o) s = execVld16 s0 d b o s := rfl
@[simp] theorem exec_vld32 (s0 : BitVec 4) (d : BitVec 7) (b : BitVec 5) (o : BitVec 7) (s : State) : exec (.vld32 s0 d b o) s = execVld32 s0 d b o s := rfl
@[simp] theorem exec_vld64 (s0 : BitVec 4) (d : BitVec 7) (b : BitVec 5) (o : BitVec 7) (s : State) : exec (.vld64 s0 d b o) s = execVld64 s0 d b o s := rfl
@[simp] theorem exec_vld128 (s0 : BitVec 4) (d : BitVec 7) (b : BitVec 5) (o : BitVec 7) (s : State) : exec (.vld128 s0 d b o) s = execVld128 s0 d b o s := rfl
@[simp] theorem exec_vst8 (s0 : BitVec 4) (d : BitVec 7) (b : BitVec 5) (o : BitVec 7) (s : State) : exec (.vst8 s0 d b o) s = execVst8 s0 d b o s := rfl
@[simp] theorem exec_vst16 (s0 : BitVec 4) (d : BitVec 7) (b : BitVec 5) (o : BitVec 7) (s : State) : exec (.vst16 s0 d b o) s = execVst16 s0 d b o s := rfl
@[simp] theorem exec_vst32 (s0 : BitVec 4) (d : BitVec 7) (b : BitVec 5) (o : BitVec 7) (s : State) : exec (.vst32 s0 d b o) s = execVst32 s0 d b o s := rfl
@[simp] theorem exec_vst64 (s0 : BitVec 4) (d : BitVec 7) (b : BitVec 5) (o : BitVec 7) (s : State) : exec (.vst64 s0 d b o) s = execVst64 s0 d b o s := rfl
@[simp] theorem exec_vst128 (s0 : BitVec 4) (d : BitVec 7) (b : BitVec 5) (o : BitVec 7) (s : State) : exec (.vst128 s0 d b o) s = execVst128 s0 d b o s := rfl
@[simp] theorem exec_sld (s0 : BitVec 4) (d : BitVec 7) (b : BitVec 5) (s : State) : exec (.sld s0 d b) s = execSld s0 d b s := rfl
@[simp] theorem exec_sst (s0 : BitVec 4) (d : BitVec 7) (b : BitVec 5) (s : State) : exec (.sst s0 d b) s = execSst s0 d b s := rfl
@[simp] theorem exec_vldc (s0 : BitVec 4) (d : BitVec 7) (b : BitVec 5) (o : BitVec 7) (s : State) : exec (.vldc s0 d b o) s = execVldc s0 d b o s := rfl
@[simp] theorem exec_pft (b : BitVec 5) (o : BitVec 7) (s : State) : exec (.pft b o) s = execPft b o s := rfl
@[simp] theorem exec_cpy (d : BitVec 7) (a : BitVec 7) (b : BitVec 7) (s : State) : exec (.cpy d a b) s = execCpy d a b s := rfl
@[simp] theorem exec_cpyb (d : BitVec 7) (a : BitVec 7) (b : BitVec 7) (s : State) : exec (.cpyb d a b) s = execCpyb d a b s := rfl
@[simp] theorem exec_wait (n : BitVec 4) (p : BitVec 4) (c : BitVec 4) (s0 : BitVec 4) (l : BitVec 4) (s : State) : exec (.wait n p c s0 l) s = execWait n p c s0 l s := rfl
@[simp] theorem exec_fence (s0 : BitVec 4) (s : State) : exec (.fence s0) s = execFence s0 s := rfl
@[simp] theorem exec_flush (b : BitVec 5) (o : BitVec 7) (s : State) : exec (.flush b o) s = execFlush b o s := rfl
@[simp] theorem exec_invl (b : BitVec 5) (o : BitVec 7) (s : State) : exec (.invl b o) s = execInvl b o s := rfl
@[simp] theorem exec_zero (b : BitVec 5) (o : BitVec 7) (s : State) : exec (.zero b o) s = execZero b o s := rfl
@[simp] theorem exec_sealst (d : BitVec 7) (b : BitVec 5) (s : State) : exec (.sealst d b) s = execSealst d b s := rfl
@[simp] theorem exec_sealld (d : BitVec 7) (b : BitVec 5) (s : State) : exec (.sealld d b) s = execSealld d b s := rfl
@[simp] theorem exec_sealfin (d : BitVec 7) (a : BitVec 7) (s : State) : exec (.sealfin d a) s = execSealfin d a s := rfl
@[simp] theorem exec_sealchk (d : BitVec 7) (a : BitVec 7) (s : State) : exec (.sealchk d a) s = execSealchk d a s := rfl
@[simp] theorem exec_amoadd (s0 : BitVec 4) (d : BitVec 7) (b : BitVec 5) (o : BitVec 7) (s : State) : exec (.amoadd s0 d b o) s = execAmoadd s0 d b o s := rfl
@[simp] theorem exec_amomin (s0 : BitVec 4) (d : BitVec 7) (b : BitVec 5) (o : BitVec 7) (s : State) : exec (.amomin s0 d b o) s = execAmomin s0 d b o s := rfl
@[simp] theorem exec_amomax (s0 : BitVec 4) (d : BitVec 7) (b : BitVec 5) (o : BitVec 7) (s : State) : exec (.amomax s0 d b o) s = execAmomax s0 d b o s := rfl
@[simp] theorem exec_amominu (s0 : BitVec 4) (d : BitVec 7) (b : BitVec 5) (o : BitVec 7) (s : State) : exec (.amominu s0 d b o) s = execAmominu s0 d b o s := rfl
@[simp] theorem exec_amomaxu (s0 : BitVec 4) (d : BitVec 7) (b : BitVec 5) (o : BitVec 7) (s : State) : exec (.amomaxu s0 d b o) s = execAmomaxu s0 d b o s := rfl
@[simp] theorem exec_amoand (s0 : BitVec 4) (d : BitVec 7) (b : BitVec 5) (o : BitVec 7) (s : State) : exec (.amoand s0 d b o) s = execAmoand s0 d b o s := rfl
@[simp] theorem exec_amoor (s0 : BitVec 4) (d : BitVec 7) (b : BitVec 5) (o : BitVec 7) (s : State) : exec (.amoor s0 d b o) s = execAmoor s0 d b o s := rfl
@[simp] theorem exec_amoxor (s0 : BitVec 4) (d : BitVec 7) (b : BitVec 5) (o : BitVec 7) (s : State) : exec (.amoxor s0 d b o) s = execAmoxor s0 d b o s := rfl
@[simp] theorem exec_amoswp (s0 : BitVec 4) (d : BitVec 7) (b : BitVec 5) (o : BitVec 7) (s : State) : exec (.amoswp s0 d b o) s = execAmoswp s0 d b o s := rfl
@[simp] theorem exec_amofadd (s0 : BitVec 4) (d : BitVec 7) (b : BitVec 5) (o : BitVec 7) (s : State) : exec (.amofadd s0 d b o) s = execAmofadd s0 d b o s := rfl
@[simp] theorem exec_amoaadd (s0 : BitVec 4) (d : BitVec 7) (b : BitVec 5) (o : BitVec 7) (s : State) : exec (.amoaadd s0 d b o) s = execAmoaadd s0 d b o s := rfl
@[simp] theorem exec_cas (s0 : BitVec 4) (d : BitVec 7) (b : BitVec 5) (o : BitVec 7) (s : State) : exec (.cas s0 d b o) s = execCas s0 d b o s := rfl
@[simp] theorem exec_redadd (s0 : BitVec 4) (d : BitVec 7) (b : BitVec 5) (o : BitVec 7) (s : State) : exec (.redadd s0 d b o) s = execRedadd s0 d b o s := rfl
@[simp] theorem exec_redmin (s0 : BitVec 4) (d : BitVec 7) (b : BitVec 5) (o : BitVec 7) (s : State) : exec (.redmin s0 d b o) s = execRedmin s0 d b o s := rfl
@[simp] theorem exec_redmax (s0 : BitVec 4) (d : BitVec 7) (b : BitVec 5) (o : BitVec 7) (s : State) : exec (.redmax s0 d b o) s = execRedmax s0 d b o s := rfl
@[simp] theorem exec_redfadd (s0 : BitVec 4) (d : BitVec 7) (b : BitVec 5) (o : BitVec 7) (s : State) : exec (.redfadd s0 d b o) s = execRedfadd s0 d b o s := rfl
@[simp] theorem exec_redaadd (s0 : BitVec 4) (d : BitVec 7) (b : BitVec 5) (o : BitVec 7) (s : State) : exec (.redaadd s0 d b o) s = execRedaadd s0 d b o s := rfl
@[simp] theorem exec_watch (d : BitVec 7) (a : BitVec 7) (q : BitVec 3) (z : BitVec 1) (c : BitVec 3) (s : State) : exec (.watch d a q z c) s = execWatch d a q z c s := rfl
@[simp] theorem exec_bara (d : BitVec 7) (i0 : BitVec 4) (s : State) : exec (.bara d i0) s = execBara d i0 s := rfl
@[simp] theorem exec_barw (i0 : BitVec 4) (s : State) : exec (.barw i0) s = execBarw i0 s := rfl
@[simp] theorem exec_bars (d : BitVec 7) (i0 : BitVec 4) (s : State) : exec (.bars d i0) s = execBars d i0 s := rfl
@[simp] theorem exec_opbind (d : BitVec 7) (a : BitVec 7) (s0 : BitVec 3) (s : State) : exec (.opbind d a s0) s = execOpbind d a s0 s := rfl
@[simp] theorem exec_opunb (d : BitVec 7) (a : BitVec 7) (s : State) : exec (.opunb d a) s = execOpunb d a s := rfl
@[simp] theorem exec_opgnt (d : BitVec 7) (a : BitVec 7) (w : BitVec 4) (s : State) : exec (.opgnt d a w) s = execOpgnt d a w s := rfl
@[simp] theorem exec_oprev (d : BitVec 7) (a : BitVec 7) (w : BitVec 4) (s : State) : exec (.oprev d a w) s = execOprev d a w s := rfl
@[simp] theorem exec_opstat (d : BitVec 7) (a : BitVec 7) (e : BitVec 2) (f : BitVec 1) (w : BitVec 4) (s : State) : exec (.opstat d a e f w) s = execOpstat d a e f w s := rfl
@[simp] theorem exec_opdisc (d : BitVec 7) (a : BitVec 7) (l : BitVec 1) (w : BitVec 4) (s : State) : exec (.opdisc d a l w) s = execOpdisc d a l w s := rfl
@[simp] theorem exec_opgang (d : BitVec 7) (a : BitVec 7) (n : BitVec 4) (p : BitVec 1) (s0 : BitVec 3) (s : State) : exec (.opgang d a n p s0) s = execOpgang d a n p s0 s := rfl
@[simp] theorem exec_nbld (d : BitVec 7) (a : BitVec 7) (s : State) : exec (.nbld d a) s = execNbld d a s := rfl
@[simp] theorem exec_nbexec (h : BitVec 2) (d : BitVec 7) (a : BitVec 7) (b : BitVec 7) (s : State) : exec (.nbexec h d a b) s = execNbexec h d a b s := rfl
@[simp] theorem exec_nbcpy (h : BitVec 2) (d : BitVec 7) (a : BitVec 7) (b : BitVec 7) (s : State) : exec (.nbcpy h d a b) s = execNbcpy h d a b s := rfl
@[simp] theorem exec_nbz (h : BitVec 2) (d : BitVec 7) (a : BitVec 7) (b : BitVec 7) (s : State) : exec (.nbz h d a b) s = execNbz h d a b s := rfl
@[simp] theorem exec_nbstat (d : BitVec 7) (a : BitVec 7) (e : BitVec 2) (s : State) : exec (.nbstat d a e) s = execNbstat d a e s := rfl
@[simp] theorem exec_pmap (d : BitVec 7) (a : BitVec 7) (p : BitVec 1) (r : BitVec 1) (l : BitVec 2) (s : State) : exec (.pmap d a p r l) s = execPmap d a p r l s := rfl
@[simp] theorem exec_punmap (d : BitVec 7) (a : BitVec 7) (r : BitVec 1) (l : BitVec 2) (s : State) : exec (.punmap d a r l) s = execPunmap d a r l s := rfl
@[simp] theorem exec_tlbi (a : BitVec 7) (l : BitVec 1) (z : BitVec 6) (s : State) : exec (.tlbi a l z) s = execTlbi a l z s := rfl
@[simp] theorem exec_poolget (d : BitVec 7) (a : BitVec 7) (r : BitVec 1) (p : BitVec 1) (e : BitVec 1) (z : BitVec 2) (s : State) : exec (.poolget d a r p e z) s = execPoolget d a r p e z s := rfl
@[simp] theorem exec_nbEnd (s : State) : exec (.nbEnd) s = execNbEnd s := rfl
@[simp] theorem exec_nbSel (add : BitVec 1) (row : BitVec 6) (sj : BitVec 8) (s : State) : exec (.nbSel add row sj) s = execNbSel add row sj s := rfl
@[simp] theorem exec_nbCmp (cm : BitVec 2) (mask : BitVec 8) (key : BitVec 8) (s : State) : exec (.nbCmp cm mask key) s = execNbCmp cm mask key s := rfl
@[simp] theorem exec_nbWr (mask : BitVec 8) (key : BitVec 8) (s : State) : exec (.nbWr mask key) s = execNbWr mask key s := rfl
@[simp] theorem exec_nbTag (cm : BitVec 2) (s : State) : exec (.nbTag cm) s = execNbTag cm s := rfl
@[simp] theorem exec_nbCnt (imm : BitVec 12) (s : State) : exec (.nbCnt imm) s = execNbCnt imm s := rfl
@[simp] theorem exec_nbDjnz (imm : BitVec 12) (s : State) : exec (.nbDjnz imm) s = execNbDjnz imm s := rfl
@[simp] theorem exec_csetbnd (b : BitVec 5) (a : BitVec 5) (d : BitVec 5) (s : State) : exec (.csetbnd b a d) s = execCsetbnd b a d s := rfl
@[simp] theorem exec_candperm (b : BitVec 5) (a : BitVec 5) (d : BitVec 5) (s : State) : exec (.candperm b a d) s = execCandperm b a d s := rfl
@[simp] theorem exec_cincoff (b : BitVec 5) (a : BitVec 5) (d : BitVec 5) (s : State) : exec (.cincoff b a d) s = execCincoff b a d s := rfl
@[simp] theorem exec_csetoff (b : BitVec 5) (a : BitVec 5) (d : BitVec 5) (s : State) : exec (.csetoff b a d) s = execCsetoff b a d s := rfl
@[simp] theorem exec_cseal (b : BitVec 5) (a : BitVec 5) (d : BitVec 5) (s : State) : exec (.cseal b a d) s = execCseal b a d s := rfl
@[simp] theorem exec_cunseal (b : BitVec 5) (a : BitVec 5) (d : BitVec 5) (s : State) : exec (.cunseal b a d) s = execCunseal b a d s := rfl
@[simp] theorem exec_csubset (b : BitVec 5) (a : BitVec 5) (d : BitVec 5) (s : State) : exec (.csubset b a d) s = execCsubset b a d s := rfl
@[simp] theorem exec_cjalr (b : BitVec 5) (a : BitVec 5) (d : BitVec 5) (s : State) : exec (.cjalr b a d) s = execCjalr b a d s := rfl
@[simp] theorem exec_cgetbase (e : BitVec 5) (a : BitVec 5) (d : BitVec 5) (s : State) : exec (.cgetbase e a d) s = execCgetbase e a d s := rfl
@[simp] theorem exec_cgetlen (a : BitVec 5) (d : BitVec 5) (s : State) : exec (.cgetlen a d) s = execCgetlen a d s := rfl
@[simp] theorem exec_cgetperm (a : BitVec 5) (d : BitVec 5) (s : State) : exec (.cgetperm a d) s = execCgetperm a d s := rfl
@[simp] theorem exec_cgettag (a : BitVec 5) (d : BitVec 5) (s : State) : exec (.cgettag a d) s = execCgettag a d s := rfl
@[simp] theorem exec_cclrtag (a : BitVec 5) (d : BitVec 5) (s : State) : exec (.cclrtag a d) s = execCclrtag a d s := rfl
@[simp] theorem exec_clc (i0 : BitVec 12) (a : BitVec 5) (d : BitVec 5) (s : State) : exec (.clc i0 a d) s = execClc i0 a d s := rfl
@[simp] theorem exec_csc (i0 : BitVec 7) (b : BitVec 5) (a : BitVec 5) (j : BitVec 5) (s : State) : exec (.csc i0 b a j) s = execCsc i0 b a j s := rfl
@[simp] theorem exec_wfn (b : BitVec 5) (a : BitVec 5) (d : BitVec 5) (s : State) : exec (.wfn b a d) s = execWfn b a d s := rfl
@[simp] theorem exec_ntfy (b : BitVec 5) (a : BitVec 5) (d : BitVec 5) (s : State) : exec (.ntfy b a d) s = execNtfy b a d s := rfl
@[simp] theorem exec_ntfySet (b : BitVec 5) (a : BitVec 5) (d : BitVec 5) (s : State) : exec (.ntfySet b a d) s = execNtfySet b a d s := rfl
@[simp] theorem exec_loadReturn (g : Nat) (s : State) : exec (.loadReturn g) s = execLoadReturn g s := rfl
@[simp] theorem exec_storePerformed (g : Nat) (s : State) : exec (.storePerformed g) s = execStorePerformed g s := rfl
@[simp] theorem exec_refusalArrival (g : Nat) (cls : Nat) (addr : BitVec 64) (lanes : BitVec 32) (s : State) : exec (.refusalArrival g cls addr lanes) s = execRefusalArrival g cls addr lanes s := rfl
@[simp] theorem exec_engineLockRegister (die : Nat) (s : State) : exec (.engineLockRegister die) s = execEngineLockRegister die s := rfl
@[simp] theorem exec_copyComplete (id : Nat) (s : State) : exec (.copyComplete id) s = execCopyComplete id s := rfl
@[simp] theorem exec_waitSatisfied (g : Nat) (side : Nat) (s : State) : exec (.waitSatisfied g side) s = execWaitSatisfied g side s := rfl
@[simp] theorem exec_fenceComplete (g : Nat) (side : Nat) (s : State) : exec (.fenceComplete g side) s = execFenceComplete g side s := rfl
@[simp] theorem exec_cwaitComplete (g : Nat) (side : Nat) (s : State) : exec (.cwaitComplete g side) s = execCwaitComplete g side s := rfl
@[simp] theorem exec_xacqGrant (core : Nat) (s : State) : exec (.xacqGrant core) s = execXacqGrant core s := rfl
@[simp] theorem exec_allocatorPark (core : Nat) (s : State) : exec (.allocatorPark core) s = execAllocatorPark core s := rfl
@[simp] theorem exec_allocatorReturn (core : Nat) (s : State) : exec (.allocatorReturn core) s = execAllocatorReturn core s := rfl
@[simp] theorem exec_barrierWaitEnd (g : Nat) (side : Nat) (s : State) : exec (.barrierWaitEnd g side) s = execBarrierWaitEnd g side s := rfl
@[simp] theorem exec_monitorResume (g : Nat) (s : State) : exec (.monitorResume g) s = execMonitorResume g s := rfl
@[simp] theorem exec_watchReread (g : Nat) (s : State) : exec (.watchReread g) s = execWatchReread g s := rfl
@[simp] theorem exec_groupExitComplete (g : Nat) (s : State) : exec (.groupExitComplete g) s = execGroupExitComplete g s := rfl
@[simp] theorem exec_notifyDependenceMet (grid : Nat) (s : State) : exec (.notifyDependenceMet grid) s = execNotifyDependenceMet grid s := rfl
@[simp] theorem exec_dispatchAdmit (p : Nat) (s : State) : exec (.dispatchAdmit p) s = execDispatchAdmit p s := rfl
@[simp] theorem exec_dispatchPlaceBlock (p : Nat) (s : State) : exec (.dispatchPlaceBlock p) s = execDispatchPlaceBlock p s := rfl
@[simp] theorem exec_dispatchReturnBlock (p : Nat) (s : State) : exec (.dispatchReturnBlock p) s = execDispatchReturnBlock p s := rfl
@[simp] theorem exec_gangReserve (p : Nat) (s : State) : exec (.gangReserve p) s = execGangReserve p s := rfl
@[simp] theorem exec_queueEnable (p : Nat) (q : Nat) (s : State) : exec (.queueEnable p q) s = execQueueEnable p q s := rfl
@[simp] theorem exec_queueDisable (p : Nat) (q : Nat) (s : State) : exec (.queueDisable p q) s = execQueueDisable p q s := rfl
@[simp] theorem exec_queueTailRaise (p : Nat) (q : Nat) (s : State) : exec (.queueTailRaise p q) s = execQueueTailRaise p q s := rfl
@[simp] theorem exec_queueRecordRead (p : Nat) (q : Nat) (s : State) : exec (.queueRecordRead p q) s = execQueueRecordRead p q s := rfl
@[simp] theorem exec_serviceWake (g : Nat) (s : State) : exec (.serviceWake g) s = execServiceWake g s := rfl
@[simp] theorem exec_serviceResume (g : Nat) (s : State) : exec (.serviceResume g) s = execServiceResume g s := rfl
@[simp] theorem exec_stage2Resolve (p : Nat) (ia : BitVec 64) (leaf : BitVec 64) (ok : Bool) (s : State) : exec (.stage2Resolve p ia leaf ok) s = execStage2Resolve p ia leaf ok s := rfl
@[simp] theorem exec_biasFlipEnd (id : Nat) (s : State) : exec (.biasFlipEnd id) s = execBiasFlipEnd id s := rfl
@[simp] theorem exec_atsInvalidation (pasid : Nat) (addr : BitVec 64) (s : State) : exec (.atsInvalidation pasid addr) s = execAtsInvalidation pasid addr s := rfl
@[simp] theorem exec_operatorInputStore (core : Nat) (s : State) : exec (.operatorInputStore core) s = execOperatorInputStore core s := rfl
@[simp] theorem exec_heldStoreApply (core : Nat) (s : State) : exec (.heldStoreApply core) s = execHeldStoreApply core s := rfl
@[simp] theorem exec_operatorResultLoad (core : Nat) (s : State) : exec (.operatorResultLoad core) s = execOperatorResultLoad core s := rfl
@[simp] theorem exec_tileStep (core : Nat) (mac : Nat) (s : State) : exec (.tileStep core mac) s = execTileStep core mac s := rfl
@[simp] theorem exec_trussCellsArrive (core : Nat) (stripe : Nat) (s : State) : exec (.trussCellsArrive core stripe) s = execTrussCellsArrive core stripe s := rfl
@[simp] theorem exec_passEnd (core : Nat) (pass : Nat) (s : State) : exec (.passEnd core pass) s = execPassEnd core pass s := rfl
@[simp] theorem exec_nbQueueHead (stack : Nat) (bank : Nat) (s : State) : exec (.nbQueueHead stack bank) s = execNbQueueHead stack bank s := rfl
@[simp] theorem exec_nbPreparationDone (cmd : Nat) (s : State) : exec (.nbPreparationDone cmd) s = execNbPreparationDone cmd s := rfl
@[simp] theorem exec_nbUnitEnd (cmd : Nat) (lane : Nat) (s : State) : exec (.nbUnitEnd cmd lane) s = execNbUnitEnd cmd lane s := rfl
@[simp] theorem exec_nbIssueLimit (cmd : Nat) (s : State) : exec (.nbIssueLimit cmd) s = execNbIssueLimit cmd s := rfl
@[simp] theorem exec_nbCommandComplete (cmd : Nat) (s : State) : exec (.nbCommandComplete cmd) s = execNbCommandComplete cmd s := rfl
@[simp] theorem exec_rds (cache : Nat) (line : Nat) (s : State) : exec (.rds cache line) s = execRds cache line s := rfl
@[simp] theorem exec_rdx (cache : Nat) (line : Nat) (s : State) : exec (.rdx cache line) s = execRdx cache line s := rfl
@[simp] theorem exec_upg (cache : Nat) (line : Nat) (s : State) : exec (.upg cache line) s = execUpg cache line s := rfl
@[simp] theorem exec_wbd (cache : Nat) (line : Nat) (s : State) : exec (.wbd cache line) s = execWbd cache line s := rfl
@[simp] theorem exec_evc (cache : Nat) (line : Nat) (s : State) : exec (.evc cache line) s = execEvc cache line s := rfl
@[simp] theorem exec_prbshr (cache : Nat) (line : Nat) (s : State) : exec (.prbshr cache line) s = execPrbshr cache line s := rfl
@[simp] theorem exec_prbinv (cache : Nat) (line : Nat) (s : State) : exec (.prbinv cache line) s = execPrbinv cache line s := rfl
@[simp] theorem exec_data (cache : Nat) (line : Nat) (s : State) : exec (.data cache line) s = execData cache line s := rfl
@[simp] theorem exec_datax (cache : Nat) (line : Nat) (s : State) : exec (.datax cache line) s = execDatax cache line s := rfl
@[simp] theorem exec_prbrsp (cache : Nat) (line : Nat) (s : State) : exec (.prbrsp cache line) s = execPrbrsp cache line s := rfl
@[simp] theorem exec_invack (cache : Nat) (line : Nat) (s : State) : exec (.invack cache line) s = execInvack cache line s := rfl
@[simp] theorem exec_cmp (cache : Nat) (line : Nat) (s : State) : exec (.cmp cache line) s = execCmp cache line s := rfl
@[simp] theorem exec_wback (cache : Nat) (line : Nat) (s : State) : exec (.wback cache line) s = execWback cache line s := rfl
@[simp] theorem exec_snpdata (line : Nat) (s : State) : exec (.snpdata line) s = execSnpdata line s := rfl
@[simp] theorem exec_snpinv (line : Nat) (s : State) : exec (.snpinv line) s = execSnpinv line s := rfl
@[simp] theorem exec_snpcur (line : Nat) (s : State) : exec (.snpcur line) s = execSnpcur line s := rfl
@[simp] theorem exec_hostCacheCompletion (id : Nat) (s : State) : exec (.hostCacheCompletion id) s = execHostCacheCompletion id s := rfl
@[simp] theorem exec_hostMemRead (addr : BitVec 64) (size : Nat) (s : State) : exec (.hostMemRead addr size) s = execHostMemRead addr size s := rfl
@[simp] theorem exec_hostMemWrite (addr : BitVec 64) (size : Nat) (data : BitVec 512) (s : State) : exec (.hostMemWrite addr size data) s = execHostMemWrite addr size data s := rfl
@[simp] theorem exec_notifyPageWrite (p : Nat) (i0 : Nat) (v : BitVec 64) (s : State) : exec (.notifyPageWrite p i0 v) s = execNotifyPageWrite p i0 v s := rfl
@[simp] theorem exec_notifyPageAdd (p : Nat) (i0 : Nat) (v : BitVec 64) (s : State) : exec (.notifyPageAdd p i0 v) s = execNotifyPageAdd p i0 v s := rfl
@[simp] theorem exec_queue0TailWrite (p : Nat) (v : BitVec 64) (s : State) : exec (.queue0TailWrite p v) s = execQueue0TailWrite p v s := rfl
@[simp] theorem exec_biasreq (p : Nat) (v : BitVec 64) (s : State) : exec (.biasreq p v) s = execBiasreq p v s := rfl
@[simp] theorem exec_pcerrClr (p : Nat) (v : BitVec 64) (s : State) : exec (.pcerrClr p v) s = execPcerrClr p v s := rfl
@[simp] theorem exec_linkEnable (h : Nat) (port : Nat) (s : State) : exec (.linkEnable h port) s = execLinkEnable h port s := rfl
@[simp] theorem exec_linkDisable (h : Nat) (port : Nat) (s : State) : exec (.linkDisable h port) s = execLinkDisable h port s := rfl
@[simp] theorem exec_linkClear (h : Nat) (port : Nat) (s : State) : exec (.linkClear h port) s = execLinkClear h port s := rfl
@[simp] theorem exec_linkTrained (port : Nat) (width : Nat) (s : State) : exec (.linkTrained port width) s = execLinkTrained port width s := rfl
@[simp] theorem exec_trainingAttemptFail (port : Nat) (s : State) : exec (.trainingAttemptFail port) s = execTrainingAttemptFail port s := rfl
@[simp] theorem exec_linkTrainingFailed (port : Nat) (s : State) : exec (.linkTrainingFailed port) s = execLinkTrainingFailed port s := rfl
@[simp] theorem exec_linkLockLost (port : Nat) (s : State) : exec (.linkLockLost port) s = execLinkLockLost port s := rfl
@[simp] theorem exec_flitRetry (port : Nat) (s : State) : exec (.flitRetry port) s = execFlitRetry port s := rfl
@[simp] theorem exec_urradRd (snode : Nat) (spart : Nat) (addr : BitVec 64) (size : Nat) (consume : Bool) (s : State) : exec (.urradRd snode spart addr size consume) s = execUrradRd snode spart addr size consume s := rfl
@[simp] theorem exec_urradWr (snode : Nat) (spart : Nat) (addr : BitVec 64) (mask : BitVec 128) (data : BitVec 1024) (s : State) : exec (.urradWr snode spart addr mask data) s = execUrradWr snode spart addr mask data s := rfl
@[simp] theorem exec_urradAmo (snode : Nat) (spart : Nat) (addr : BitVec 64) (op : Nat) (size : Nat) (a : BitVec 128) (b : BitVec 128) (s : State) : exec (.urradAmo snode spart addr op size a b) s = execUrradAmo snode spart addr op size a b s := rfl
@[simp] theorem exec_urradNtf (snode : Nat) (spart : Nat) (idx : Nat) (add : Bool) (v : BitVec 64) (s : State) : exec (.urradNtf snode spart idx add v) s = execUrradNtf snode spart idx add v s := rfl
@[simp] theorem exec_urradAnswer (id : Nat) (status : Nat) (poison : Bool) (data : BitVec 1024) (s : State) : exec (.urradAnswer id status poison data) s = execUrradAnswer id status poison data s := rfl
@[simp] theorem exec_hartDeviceAccess (h : Nat) (store : Bool) (size : Nat) (addr : BitVec 64) (reg : Nat) (s : State) : exec (.hartDeviceAccess h store size addr reg) s = execHartDeviceAccess h store size addr reg s := rfl
@[simp] theorem exec_contextLoad (p : Nat) (c : Nat) (s : State) : exec (.contextLoad p c) s = execContextLoad p c s := rfl
@[simp] theorem exec_contextRun (p : Nat) (c : Nat) (s : State) : exec (.contextRun p c) s = execContextRun p c s := rfl
@[simp] theorem exec_contextSave (p : Nat) (c : Nat) (s : State) : exec (.contextSave p c) s = execContextSave p c s := rfl
@[simp] theorem exec_saveQuiesced (p : Nat) (c : Nat) (s : State) : exec (.saveQuiesced p c) s = execSaveQuiesced p c s := rfl
@[simp] theorem exec_saveGridEnd (p : Nat) (c : Nat) (s : State) : exec (.saveGridEnd p c) s = execSaveGridEnd p c s := rfl
@[simp] theorem exec_contextRestore (p : Nat) (c : Nat) (s : State) : exec (.contextRestore p c) s = execContextRestore p c s := rfl
@[simp] theorem exec_restoreGridEnd (p : Nat) (c : Nat) (s : State) : exec (.restoreGridEnd p c) s = execRestoreGridEnd p c s := rfl
@[simp] theorem exec_contextDrain (p : Nat) (c : Nat) (s : State) : exec (.contextDrain p c) s = execContextDrain p c s := rfl
@[simp] theorem exec_contextDestroy (p : Nat) (c : Nat) (s : State) : exec (.contextDestroy p c) s = execContextDestroy p c s := rfl
@[simp] theorem exec_partitionCreate (p : Nat) (s : State) : exec (.partitionCreate p) s = execPartitionCreate p s := rfl
@[simp] theorem exec_partitionResize (p : Nat) (s : State) : exec (.partitionResize p) s = execPartitionResize p s := rfl
@[simp] theorem exec_partitionAbort (p : Nat) (s : State) : exec (.partitionAbort p) s = execPartitionAbort p s := rfl
@[simp] theorem exec_partitionDestroy (p : Nat) (s : State) : exec (.partitionDestroy p) s = execPartitionDestroy p s := rfl
@[simp] theorem exec_partitionEnter (p : Nat) (s : State) : exec (.partitionEnter p) s = execPartitionEnter p s := rfl
@[simp] theorem exec_resizeAdmitEnd (p : Nat) (s : State) : exec (.resizeAdmitEnd p) s = execResizeAdmitEnd p s := rfl
@[simp] theorem exec_resizeDrainEnd (p : Nat) (s : State) : exec (.resizeDrainEnd p) s = execResizeDrainEnd p s := rfl
@[simp] theorem exec_resizeForce (p : Nat) (s : State) : exec (.resizeForce p) s = execResizeForce p s := rfl
@[simp] theorem exec_rehashHandover (p : Nat) (s : State) : exec (.rehashHandover p) s = execRehashHandover p s := rfl
@[simp] theorem exec_coreMove (p : Nat) (v : Nat) (s : State) : exec (.coreMove p v) s = execCoreMove p v s := rfl
@[simp] theorem exec_pageMove (p : Nat) (s : State) : exec (.pageMove p) s = execPageMove p s := rfl
@[simp] theorem exec_resizeDetach (p : Nat) (s : State) : exec (.resizeDetach p) s = execResizeDetach p s := rfl
@[simp] theorem exec_bootStageVerify (stage : Nat) (ok : Bool) (svn : Nat) (pk : BitVec 512) (digest : BitVec 512) (s : State) : exec (.bootStageVerify stage ok svn pk digest) s = execBootStageVerify stage ok svn pk digest s := rfl
@[simp] theorem exec_getVersion (r : Nat) (s : State) : exec (.getVersion r) s = execGetVersion r s := rfl
@[simp] theorem exec_getCapabilities (r : Nat) (s : State) : exec (.getCapabilities r) s = execGetCapabilities r s := rfl
@[simp] theorem exec_negotiateAlgorithms (r : Nat) (s : State) : exec (.negotiateAlgorithms r) s = execNegotiateAlgorithms r s := rfl
@[simp] theorem exec_getDigests (r : Nat) (s : State) : exec (.getDigests r) s = execGetDigests r s := rfl
@[simp] theorem exec_getCertificate (r : Nat) (s : State) : exec (.getCertificate r) s = execGetCertificate r s := rfl
@[simp] theorem exec_challenge (r : Nat) (nonce : BitVec 256) (s : State) : exec (.challenge r nonce) s = execChallenge r nonce s := rfl
@[simp] theorem exec_getMeasurements (r : Nat) (nonce : BitVec 256) (s : State) : exec (.getMeasurements r nonce) s = execGetMeasurements r nonce s := rfl
@[simp] theorem exec_keyExchange (r : Nat) (data : BitVec 512) (s : State) : exec (.keyExchange r data) s = execKeyExchange r data s := rfl
@[simp] theorem exec_ideKmMessage (r : Nat) (stream : Nat) (op : Nat) (key : BitVec 256) (s : State) : exec (.ideKmMessage r stream op key) s = execIdeKmMessage r stream op key s := rfl
@[simp] theorem exec_tdispMessage (r : Nat) (f : Nat) (msg : Nat) (arg : BitVec 256) (s : State) : exec (.tdispMessage r f msg arg) s = execTdispMessage r f msg arg s := rfl
@[simp] theorem exec_tagRefusalLimit (p : Nat) (c : Nat) (s : State) : exec (.tagRefusalLimit p c) s = execTagRefusalLimit p c s := rfl
@[simp] theorem exec_keystoneKillRequest (p : Nat) (c : Nat) (s : State) : exec (.keystoneKillRequest p c) s = execKeystoneKillRequest p c s := rfl
@[simp] theorem exec_keyStoreError (p : Nat) (c : Nat) (other : Bool) (s : State) : exec (.keyStoreError p c other) s = execKeyStoreError p c other s := rfl
@[simp] theorem exec_eraseAlarm (src : Nat) (s : State) : exec (.eraseAlarm src) s = execEraseAlarm src s := rfl
@[simp] theorem exec_correctedError (hop : Nat) (unit : Nat) (addr : BitVec 64) (s : State) : exec (.correctedError hop unit addr) s = execCorrectedError hop unit addr s := rfl
@[simp] theorem exec_repeatedCorrection (hop : Nat) (unit : Nat) (addr : BitVec 64) (s : State) : exec (.repeatedCorrection hop unit addr) s = execRepeatedCorrection hop unit addr s := rfl
@[simp] theorem exec_powerGood (s : State) : exec (.powerGood) s = execPowerGood s := rfl
@[simp] theorem exec_powerOnReset (s : State) : exec (.powerOnReset) s = execPowerOnReset s := rfl
@[simp] theorem exec_pcieFundamentalReset (s : State) : exec (.pcieFundamentalReset) s = execPcieFundamentalReset s := rfl
@[simp] theorem exec_mrst (h : Nat) (s : State) : exec (.mrst h) s = execMrst h s := rfl
@[simp] theorem exec_powerComparison (meas : Nat) (temps : BitVec 104) (s : State) : exec (.powerComparison meas temps) s = execPowerComparison meas temps s := rfl
@[simp] theorem exec_hbmHot (stack : Nat) (temp : Nat) (s : State) : exec (.hbmHot stack temp) s = execHbmHot stack temp s := rfl
@[simp] theorem exec_thermalTrip (unit : Nat) (temp : Nat) (s : State) : exec (.thermalTrip unit temp) s = execThermalTrip unit temp s := rfl
@[simp] theorem exec_mstatTripClear (h : Nat) (v : BitVec 64) (s : State) : exec (.mstatTripClear h v) s = execMstatTripClear h v s := rfl
@[simp] theorem exec_mpowMaxwClear (h : Nat) (v : BitVec 64) (s : State) : exec (.mpowMaxwClear h v) s = execMpowMaxwClear h v s := rfl
@[simp] theorem exec_registerWrite (agent : Nat) (reg : Nat) (idx : Nat) (v : BitVec 64) (s : State) : exec (.registerWrite agent reg idx v) s = execRegisterWrite agent reg idx v s := rfl
@[simp] theorem exec_powerRemoved (s : State) : exec (.powerRemoved) s = execPowerRemoved s := rfl
@[simp] theorem exec_uncorrectableError (hop : Nat) (unit : Nat) (addr : BitVec 64) (s : State) : exec (.uncorrectableError hop unit addr) s = execUncorrectableError hop unit addr s := rfl
@[simp] theorem exec_ideStreamFailure (stream : Nat) (s : State) : exec (.ideStreamFailure stream) s = execIdeStreamFailure stream s := rfl
@[simp] theorem exec_windowEntryWrite (h : Nat) (idx : Nat) (v : BitVec 128) (s : State) : exec (.windowEntryWrite h idx v) s = execWindowEntryWrite h idx v s := rfl
@[simp] theorem exec_peeringEntryWrite (h : Nat) (idx : Nat) (v : BitVec 64) (s : State) : exec (.peeringEntryWrite h idx v) s = execPeeringEntryWrite h idx v s := rfl
@[simp] theorem exec_secondStageInvalidation (p : Nat) (ia : BitVec 64) (s : State) : exec (.secondStageInvalidation p ia) s = execSecondStageInvalidation p ia s := rfl
@[simp] theorem exec_tenantImageLoad (p : Nat) (digest : BitVec 512) (s : State) : exec (.tenantImageLoad p digest) s = execTenantImageLoad p digest s := rfl
@[simp] theorem exec_hartTrap (h : Nat) (cause : Nat) (tval : BitVec 64) (s : State) : exec (.hartTrap h cause tval) s = execHartTrap h cause tval s := rfl
@[simp] theorem exec_hartSret (h : Nat) (s : State) : exec (.hartSret h) s = execHartSret h s := rfl

end Sys2Proof.Machine
end

