-- ==== Sys2Proof/Laws/Maps.lean ====
section
/-! SUPPORT. What the operations of sparse maps and tables do: read after write, and that each keeps the canonical form. -/

namespace Sys2Proof.Machine

/-! ## Sparse maps -/

section Map
variable {w : Nat}

theorem mwfFrom_mono (m : SMap w) (lo lo' : Nat) (hle : lo' ≤ lo) (h : mwfFrom lo m = true) : mwfFrom lo' m = true := by
  cases m with
  | nil => rfl
  | cons c t =>
    simp only [mwfFrom, Bool.and_eq_true, decide_eq_true_eq] at h ⊢
    exact ⟨⟨by omega, h.1.2⟩, h.2⟩

theorem mget_below (m : SMap w) (lo k : Nat) (h : mwfFrom lo m = true) (hk : k < lo) : mget m k = 0 := by
  induction m generalizing lo with
  | nil => rfl
  | cons c t ih =>
    simp only [mwfFrom, Bool.and_eq_true, decide_eq_true_eq] at h
    have : k ≠ c.1 := by omega
    simp only [mget, this, if_false]
    exact ih (c.1 + 1) h.2 (by omega)

theorem mget_mins (m : SMap w) (k j : Nat) (x : BitVec w) : mget (mins m k x) j = if j = k then x else mget m j := by
  induction m with
  | nil => simp [mins, mget]
  | cons c t ih =>
    simp only [mins]
    split
    · next h => rw [h]; by_cases hj : j = c.1 <;> simp [mget, hj]
    · split
      · by_cases hj : j = k <;> simp [mget, hj]
      · by_cases hj : j = c.1
        · have : j ≠ k := by omega
          simp [mget, hj]; omega
        · simp [mget, hj, ih]

theorem mget_mdel (m : SMap w) (k j : Nat) : mget (mdel m k) j = if j = k then 0 else mget m j := by
  induction m with
  | nil => simp [mdel, mget]
  | cons c t ih =>
    simp only [mdel]
    split
    · next hk =>
      rw [ih]
      by_cases hj : j = k
      · rw [if_pos hj, if_pos hj]
      · rw [if_neg hj, if_neg hj]; simp [mget, hk ▸ hj]
    · by_cases hj : j = c.1
      · have : j ≠ k := by omega
        simp [mget, hj]; omega
      · simp [mget, hj, ih]

/-- A read after a write: the written key gives the word, every other key what it gave. -/
theorem mget_mset (m : SMap w) (k j : Nat) (x : BitVec w) :
    mget (mset m k x) j = if j = k then x else mget m j := by
  unfold mset
  split
  · next hx => rw [mget_mdel, hx]
  · exact mget_mins m k j x

theorem mins_wf (m : SMap w) (lo k : Nat) (x : BitVec w) (hlo : lo ≤ k) (hx : x ≠ 0) (h : mwfFrom lo m = true) :
    mwfFrom lo (mins m k x) = true := by
  induction m generalizing lo with
  | nil =>
    simp only [mins, mwfFrom, Bool.and_eq_true, decide_eq_true_eq]
    exact ⟨⟨hlo, hx⟩, trivial⟩
  | cons c t ih =>
    simp only [mwfFrom, Bool.and_eq_true, decide_eq_true_eq] at h
    simp only [mins]
    split
    · next hk =>
      simp only [mwfFrom, Bool.and_eq_true, decide_eq_true_eq]
      exact ⟨⟨hlo, hx⟩, hk ▸ h.2⟩
    · split
      · simp only [mwfFrom, Bool.and_eq_true, decide_eq_true_eq]
        exact ⟨⟨hlo, hx⟩, ⟨by omega, h.1.2⟩, h.2⟩
      · simp only [mwfFrom, Bool.and_eq_true, decide_eq_true_eq]
        exact ⟨h.1, ih (c.1 + 1) (by omega) h.2⟩

theorem mdel_wf (m : SMap w) (lo k : Nat) (h : mwfFrom lo m = true) : mwfFrom lo (mdel m k) = true := by
  induction m generalizing lo with
  | nil => rfl
  | cons c t ih =>
    simp only [mwfFrom, Bool.and_eq_true, decide_eq_true_eq] at h
    simp only [mdel]
    split
    · exact mwfFrom_mono _ (c.1 + 1) lo (by omega) (ih (c.1 + 1) h.2)
    · simp only [mwfFrom, Bool.and_eq_true, decide_eq_true_eq]
      exact ⟨h.1, ih (c.1 + 1) h.2⟩

/-- A write keeps the canonical form. -/
theorem mset_wf (m : SMap w) (k : Nat) (x : BitVec w) (h : mwf m = true) : mwf (mset m k x) = true := by
  unfold mset
  split
  · exact mdel_wf m 0 k h
  · next hx => exact mins_wf m 0 k x (by omega) hx h

theorem mwfFrom_filter (m : SMap w) (lo : Nat) (p : Nat × BitVec w → Bool) (h : mwfFrom lo m = true) :
    mwfFrom lo (m.filter p) = true := by
  induction m generalizing lo with
  | nil => rfl
  | cons c t ih =>
    simp only [mwfFrom, Bool.and_eq_true, decide_eq_true_eq] at h
    rw [List.filter_cons]
    split
    · simp only [mwfFrom, Bool.and_eq_true, decide_eq_true_eq]
      exact ⟨h.1, ih (c.1 + 1) h.2⟩
    · exact mwfFrom_mono _ (c.1 + 1) lo (by omega) (ih (c.1 + 1) h.2)

/-- Clearing a range keeps the canonical form. -/
theorem mclear_wf (m : SMap w) (lo hi : Nat) (h : mwf m = true) : mwf (mclear m lo hi) = true :=
  mwfFrom_filter m 0 _ h

theorem mget_mclear (m : SMap w) (lo hi j : Nat) :
    mget (mclear m lo hi) j = if lo ≤ j ∧ j < hi then 0 else mget m j := by
  unfold mclear
  induction m with
  | nil => simp [mget]
  | cons c t ih =>
    rw [List.filter_cons]
    split
    · next hc =>
      simp only [decide_eq_true_eq] at hc
      by_cases hj : j = c.1
      · simp only [mget, hj, if_true]; rw [if_neg]; omega
      · simp only [mget, hj, if_false]; exact ih
    · next hc =>
      simp only [decide_eq_true_eq, not_or] at hc
      rw [ih]
      by_cases hj : j = c.1
      · rw [if_pos (by omega), if_pos (by omega)]
      · simp [mget, hj]

/-- A run of bytes written keeps the canonical form. -/
theorem msetBytes_wf (m : SMap 8) (a n x : Nat) (h : mwf m = true) : mwf (msetBytes m a n x) = true := by
  induction n generalizing m a x with
  | zero => exact h
  | succ n ih => exact ih _ _ _ (mset_wf m a _ h)

/-- A byte after a run of bytes was written. -/
theorem mget_msetBytes (m : SMap 8) (a n x j : Nat) :
    mget (msetBytes m a n x) j = if a ≤ j ∧ j < a + n then BitVec.ofNat 8 (x / 256 ^ (j - a)) else mget m j := by
  induction n generalizing m a x with
  | zero => rw [if_neg (by omega)]; rfl
  | succ n ih =>
    rw [msetBytes, ih, mget_mset]
    by_cases h1 : a + 1 ≤ j ∧ j < a + 1 + n
    · rw [if_pos h1, if_pos (by omega), Nat.div_div_eq_div_mul, show j - a = (j - (a + 1)) + 1 by omega,
        Nat.pow_succ, Nat.mul_comm]
    · rw [if_neg h1]
      by_cases h2 : j = a
      · rw [if_pos h2, if_pos (by omega), h2]; simp
      · rw [if_neg h2, if_neg (by omega)]

/-- What was written over `n` bytes is read back. -/
theorem mbytes_msetBytes (m : SMap 8) (a n x : Nat) :
    mbytes (msetBytes m a n x) a n = x % 256 ^ n := by
  have key : ∀ (k b : Nat), (b + k = a + n) → a ≤ b → mbytes (msetBytes m a n x) b k = x / 256 ^ (b - a) % 256 ^ k := by
    intro k
    induction k with
    | zero => intro b _ _; simp [mbytes, Nat.mod_one]
    | succ k ih =>
      intro b hb hab
      rw [mbytes, mget_msetBytes m a n x b, if_pos (by omega), ih (b + 1) (by omega) (by omega)]
      rw [show b + 1 - a = (b - a) + 1 by omega, Nat.pow_succ, ← Nat.div_div_eq_div_mul, Nat.pow_succ, Nat.mul_comm (256 ^ k),
        Nat.mod_mul]
      simp [BitVec.toNat_ofNat]
  have := key n a rfl (Nat.le_refl a)
  simpa using this

end Map

/-! ## Tables -/

section Table
variable {α : Type}

@[simp] theorem tget_tmod (t : Tbl α) (k j : Nat) (f : α → α) :
    tget (tmod t k f) j = if j = k then (tget t k).map f else tget t j := by
  induction t with
  | nil => simp [tmod, tget]
  | cons c r ih =>
    simp only [tmod]
    split
    · next h => subst h; by_cases hj : j = c.1 <;> simp [tget, hj]
    · next h =>
      by_cases hj : j = c.1
      · have : j ≠ k := by omega
        simp [tget, hj]; omega
      · simp [tget, hj, ih, h]

theorem tget_tins (t : Tbl α) (k j : Nat) (a : α) (h : tget t k = none) :
    tget (tins t k a) j = if j = k then some a else tget t j := by
  induction t with
  | nil => simp [tins, tget]
  | cons c r ih =>
    have hk : k ≠ c.1 := by intro h0; simp [tget, h0] at h
    simp only [tget, hk, if_false] at h
    simp only [tins]
    split
    · by_cases hj : j = k <;> simp [tget, hj]
    · by_cases hj : j = c.1
      · have : j ≠ k := by omega
        simp [tget, hj]; omega
      · simp [tget, hj, ih h]

@[simp] theorem tget_tset (t : Tbl α) (k j : Nat) (a : α) : tget (tset t k a) j = if j = k then some a else tget t j := by
  unfold tset
  cases h : tget t k with
  | none => simpa using tget_tins t k j a h
  | some b => simp [h]

theorem tmod_self (t : Tbl α) (k : Nat) (f : α → α) (h : ∀ a, tget t k = some a → f a = a) : tmod t k f = t := by
  induction t with
  | nil => rfl
  | cons c r ih =>
    simp only [tmod]
    split
    · next hk => rw [h c.2 (by simp [tget, hk])]
    · next hk => rw [ih (fun a ha => h a (by simp [tget, hk, ha]))]

/-- Writing the record that is there changes nothing. -/
theorem tset_self (t : Tbl α) (k : Nat) (a : α) (h : tget t k = some a) : tset t k a = t := by
  unfold tset
  rw [h]
  exact tmod_self t k _ (fun b hb => by rw [h] at hb; exact (Option.some.inj hb))

@[simp] theorem tget_tdel (t : Tbl α) (k j : Nat) : tget (tdel t k) j = if j = k then none else tget t j := by
  induction t with
  | nil => simp [tdel, tget]
  | cons c r ih =>
    simp only [tdel]
    split
    · next hk =>
      rw [ih]
      by_cases hj : j = k
      · rw [if_pos hj, if_pos hj]
      · rw [if_neg hj, if_neg hj]; simp [tget, hk ▸ hj]
    · by_cases hj : j = c.1
      · have : j ≠ k := by omega
        simp [tget, hj]; omega
      · simp [tget, hj, ih]

end Table

end Sys2Proof.Machine
end

