-- ==== Sys2Proof/Laws/State.lean ====
section
/-! SUPPORT. What each plain update changes: one lemma per field, so that no proof unfolds a record update. -/

namespace Sys2Proof.Machine

/-! ## `setGroup` -/

@[simp] theorem setGroup_groups (s : State) (gid : Nat) (g : Group) : (setGroup s gid g).groups = tset s.groups gid g := rfl
@[simp] theorem setGroup_blocks (s : State) (gid : Nat) (g : Group) : (setGroup s gid g).blocks = s.blocks := rfl
@[simp] theorem setGroup_grids (s : State) (gid : Nat) (g : Group) : (setGroup s gid g).grids = s.grids := rfl
@[simp] theorem setGroup_ops (s : State) (gid : Nat) (g : Group) : (setGroup s gid g).ops = s.ops := rfl
@[simp] theorem setGroup_binds (s : State) (gid : Nat) (g : Group) : (setGroup s gid g).binds = s.binds := rfl
@[simp] theorem setGroup_nblds (s : State) (gid : Nat) (g : Group) : (setGroup s gid g).nblds = s.nblds := rfl
@[simp] theorem setGroup_opReuse (s : State) (gid : Nat) (g : Group) : (setGroup s gid g).opReuse = s.opReuse := rfl
@[simp] theorem setGroup_passes (s : State) (gid : Nat) (g : Group) : (setGroup s gid g).passes = s.passes := rfl
@[simp] theorem setGroup_heldAcc (s : State) (gid : Nat) (g : Group) : (setGroup s gid g).heldAcc = s.heldAcc := rfl
@[simp] theorem setGroup_arbLast (s : State) (gid : Nat) (g : Group) : (setGroup s gid g).arbLast = s.arbLast := rfl
@[simp] theorem setGroup_arbSkips (s : State) (gid : Nat) (g : Group) : (setGroup s gid g).arbSkips = s.arbSkips := rfl
@[simp] theorem setGroup_hbm (s : State) (gid : Nat) (g : Group) : (setGroup s gid g).hbm = s.hbm := rfl
@[simp] theorem setGroup_ctag (s : State) (gid : Nat) (g : Group) : (setGroup s gid g).ctag = s.ctag := rfl
@[simp] theorem setGroup_poison (s : State) (gid : Nat) (g : Group) : (setGroup s gid g).poison = s.poison := rfl
@[simp] theorem setGroup_host (s : State) (gid : Nat) (g : Group) : (setGroup s gid g).host = s.host := rfl
@[simp] theorem setGroup_hostPoison (s : State) (gid : Nat) (g : Group) : (setGroup s gid g).hostPoison = s.hostPoison := rfl
@[simp] theorem setGroup_svcRoots (s : State) (gid : Nat) (g : Group) : (setGroup s gid g).svcRoots = s.svcRoots := rfl
@[simp] theorem setGroup_spad (s : State) (gid : Nat) (g : Group) : (setGroup s gid g).spad = s.spad := rfl
@[simp] theorem setGroup_swz (s : State) (gid : Nat) (g : Group) : (setGroup s gid g).swz = s.swz := rfl
@[simp] theorem setGroup_notify (s : State) (gid : Nat) (g : Group) : (setGroup s gid g).notify = s.notify := rfl
@[simp] theorem setGroup_cycles (s : State) (gid : Nat) (g : Group) : (setGroup s gid g).cycles = s.cycles := rfl
@[simp] theorem setGroup_locks (s : State) (gid : Nat) (g : Group) : (setGroup s gid g).locks = s.locks := rfl
@[simp] theorem setGroup_copies (s : State) (gid : Nat) (g : Group) : (setGroup s gid g).copies = s.copies := rfl
@[simp] theorem setGroup_stale (s : State) (gid : Nat) (g : Group) : (setGroup s gid g).stale = s.stale := rfl
@[simp] theorem setGroup_s2old (s : State) (gid : Nat) (g : Group) : (setGroup s gid g).s2old = s.s2old := rfl
@[simp] theorem setGroup_flips (s : State) (gid : Nat) (g : Group) : (setGroup s gid g).flips = s.flips := rfl
@[simp] theorem setGroup_hostRefused (s : State) (gid : Nat) (g : Group) : (setGroup s gid g).hostRefused = s.hostRefused := rfl
@[simp] theorem setGroup_s2wait (s : State) (gid : Nat) (g : Group) : (setGroup s gid g).s2wait = s.s2wait := rfl
@[simp] theorem setGroup_s2refused (s : State) (gid : Nat) (g : Group) : (setGroup s gid g).s2refused = s.s2refused := rfl
@[simp] theorem setGroup_svcreqs (s : State) (gid : Nat) (g : Group) : (setGroup s gid g).svcreqs = s.svcreqs := rfl
@[simp] theorem setGroup_queues (s : State) (gid : Nat) (g : Group) : (setGroup s gid g).queues = s.queues := rfl
@[simp] theorem setGroup_disps (s : State) (gid : Nat) (g : Group) : (setGroup s gid g).disps = s.disps := rfl
@[simp] theorem setGroup_ctxs (s : State) (gid : Nat) (g : Group) : (setGroup s gid g).ctxs = s.ctxs := rfl
@[simp] theorem setGroup_parts (s : State) (gid : Nat) (g : Group) : (setGroup s gid g).parts = s.parts := rfl
@[simp] theorem setGroup_mnode (s : State) (gid : Nat) (g : Group) : (setGroup s gid g).mnode = s.mnode := rfl
@[simp] theorem setGroup_moved (s : State) (gid : Nat) (g : Group) : (setGroup s gid g).moved = s.moved := rfl
@[simp] theorem setGroup_devq (s : State) (gid : Nat) (g : Group) : (setGroup s gid g).devq = s.devq := rfl
@[simp] theorem setGroup_spoison (s : State) (gid : Nat) (g : Group) : (setGroup s gid g).spoison = s.spoison := rfl
@[simp] theorem setGroup_links (s : State) (gid : Nat) (g : Group) : (setGroup s gid g).links = s.links := rfl
@[simp] theorem setGroup_routes (s : State) (gid : Nat) (g : Group) : (setGroup s gid g).routes = s.routes := rfl
@[simp] theorem setGroup_tdi (s : State) (gid : Nat) (g : Group) : (setGroup s gid g).tdi = s.tdi := rfl
@[simp] theorem setGroup_windows (s : State) (gid : Nat) (g : Group) : (setGroup s gid g).windows = s.windows := rfl
@[simp] theorem setGroup_peers (s : State) (gid : Nat) (g : Group) : (setGroup s gid g).peers = s.peers := rfl
@[simp] theorem setGroup_biasreq (s : State) (gid : Nat) (g : Group) : (setGroup s gid g).biasreq = s.biasreq := rfl
@[simp] theorem setGroup_pcerr (s : State) (gid : Nat) (g : Group) : (setGroup s gid g).pcerr = s.pcerr := rfl
@[simp] theorem setGroup_pcerrAddr (s : State) (gid : Nat) (g : Group) : (setGroup s gid g).pcerrAddr = s.pcerrAddr := rfl
@[simp] theorem setGroup_reqs (s : State) (gid : Nat) (g : Group) : (setGroup s gid g).reqs = s.reqs := rfl
@[simp] theorem setGroup_inreqs (s : State) (gid : Nat) (g : Group) : (setGroup s gid g).inreqs = s.inreqs := rfl
@[simp] theorem setGroup_harts (s : State) (gid : Nat) (g : Group) : (setGroup s gid g).harts = s.harts := rfl
@[simp] theorem setGroup_elog (s : State) (gid : Nat) (g : Group) : (setGroup s gid g).elog = s.elog := rfl
@[simp] theorem setGroup_elogLost (s : State) (gid : Nat) (g : Group) : (setGroup s gid g).elogLost = s.elogLost := rfl
@[simp] theorem setGroup_elogSeq (s : State) (gid : Nat) (g : Group) : (setGroup s gid g).elogSeq = s.elogSeq := rfl
@[simp] theorem setGroup_co (s : State) (gid : Nat) (g : Group) : (setGroup s gid g).co = s.co := rfl
@[simp] theorem setGroup_seqst (s : State) (gid : Nat) (g : Group) : (setGroup s gid g).seqst = s.seqst := rfl
@[simp] theorem setGroup_nbcmds (s : State) (gid : Nat) (g : Group) : (setGroup s gid g).nbcmds = s.nbcmds := rfl
@[simp] theorem setGroup_keys (s : State) (gid : Nat) (g : Group) : (setGroup s gid g).keys = s.keys := rfl
@[simp] theorem setGroup_pregs (s : State) (gid : Nat) (g : Group) : (setGroup s gid g).pregs = s.pregs := rfl
@[simp] theorem setGroup_meas (s : State) (gid : Nat) (g : Group) : (setGroup s gid g).meas = s.meas := rfl
@[simp] theorem setGroup_spdm (s : State) (gid : Nat) (g : Group) : (setGroup s gid g).spdm = s.spdm := rfl
@[simp] theorem setGroup_ide (s : State) (gid : Nat) (g : Group) : (setGroup s gid g).ide = s.ide := rfl
@[simp] theorem setGroup_ideKeys (s : State) (gid : Nat) (g : Group) : (setGroup s gid g).ideKeys = s.ideKeys := rfl
@[simp] theorem setGroup_tdiNonce (s : State) (gid : Nat) (g : Group) : (setGroup s gid g).tdiNonce = s.tdiNonce := rfl
@[simp] theorem setGroup_ident (s : State) (gid : Nat) (g : Group) : (setGroup s gid g).ident = s.ident := rfl
@[simp] theorem setGroup_aliasOf (s : State) (gid : Nat) (g : Group) : (setGroup s gid g).aliasOf = s.aliasOf := rfl
@[simp] theorem setGroup_msix (s : State) (gid : Nat) (g : Group) : (setGroup s gid g).msix = s.msix := rfl
@[simp] theorem setGroup_msixOn (s : State) (gid : Nat) (g : Group) : (setGroup s gid g).msixOn = s.msixOn := rfl
@[simp] theorem setGroup_msixPend (s : State) (gid : Nat) (g : Group) : (setGroup s gid g).msixPend = s.msixPend := rfl
@[simp] theorem setGroup_corr (s : State) (gid : Nat) (g : Group) : (setGroup s gid g).corr = s.corr := rfl
@[simp] theorem setGroup_hold (s : State) (gid : Nat) (g : Group) : (setGroup s gid g).hold = s.hold := rfl
@[simp] theorem setGroup_stage (s : State) (gid : Nat) (g : Group) : (setGroup s gid g).stage = s.stage := rfl
@[simp] theorem setGroup_pgood (s : State) (gid : Nat) (g : Group) : (setGroup s gid g).pgood = s.pgood := rfl
@[simp] theorem setGroup_tripped (s : State) (gid : Nat) (g : Group) : (setGroup s gid g).tripped = s.tripped := rfl
@[simp] theorem setGroup_logKeep (s : State) (gid : Nat) (g : Group) : (setGroup s gid g).logKeep = s.logKeep := rfl
@[simp] theorem setGroup_trip (s : State) (gid : Nat) (g : Group) : (setGroup s gid g).trip = s.trip := rfl
@[simp] theorem setGroup_bootSt (s : State) (gid : Nat) (g : Group) : (setGroup s gid g).bootSt = s.bootSt := rfl
@[simp] theorem setGroup_plim (s : State) (gid : Nat) (g : Group) : (setGroup s gid g).plim = s.plim := rfl
@[simp] theorem setGroup_maxw (s : State) (gid : Nat) (g : Group) : (setGroup s gid g).maxw = s.maxw := rfl
@[simp] theorem setGroup_noww (s : State) (gid : Nat) (g : Group) : (setGroup s gid g).noww = s.noww := rfl
@[simp] theorem setGroup_cmax (s : State) (gid : Nat) (g : Group) : (setGroup s gid g).cmax = s.cmax := rfl
@[simp] theorem setGroup_steps (s : State) (gid : Nat) (g : Group) : (setGroup s gid g).steps = s.steps := rfl
@[simp] theorem setGroup_twarn (s : State) (gid : Nat) (g : Group) : (setGroup s gid g).twarn = s.twarn := rfl
@[simp] theorem setGroup_temps (s : State) (gid : Nat) (g : Group) : (setGroup s gid g).temps = s.temps := rfl
@[simp] theorem setGroup_stemps (s : State) (gid : Nat) (g : Group) : (setGroup s gid g).stemps = s.stemps := rfl
@[simp] theorem setGroup_refresh2 (s : State) (gid : Nat) (g : Group) : (setGroup s gid g).refresh2 = s.refresh2 := rfl
@[simp] theorem setGroup_sent (s : State) (gid : Nat) (g : Group) : (setGroup s gid g).sent = s.sent := rfl
@[simp] theorem setGroup_inputs (s : State) (gid : Nat) (g : Group) : (setGroup s gid g).inputs = s.inputs := rfl
@[simp] theorem setGroup_turn (s : State) (gid : Nat) (g : Group) : (setGroup s gid g).turn = s.turn := rfl
@[simp] theorem setGroup_issuer (s : State) (gid : Nat) (g : Group) : (setGroup s gid g).issuer = s.issuer := rfl
@[simp] theorem setGroup_clock (s : State) (gid : Nat) (g : Group) : (setGroup s gid g).clock = s.clock := rfl
@[simp] theorem setGroup_uid (s : State) (gid : Nat) (g : Group) : (setGroup s gid g).uid = s.uid := rfl

/-! ## `setBlock` -/

@[simp] theorem setBlock_groups (s : State) (b : Nat) (x : Block) : (setBlock s b x).groups = s.groups := rfl
@[simp] theorem setBlock_blocks (s : State) (b : Nat) (x : Block) : (setBlock s b x).blocks = tset s.blocks b x := rfl
@[simp] theorem setBlock_grids (s : State) (b : Nat) (x : Block) : (setBlock s b x).grids = s.grids := rfl
@[simp] theorem setBlock_ops (s : State) (b : Nat) (x : Block) : (setBlock s b x).ops = s.ops := rfl
@[simp] theorem setBlock_binds (s : State) (b : Nat) (x : Block) : (setBlock s b x).binds = s.binds := rfl
@[simp] theorem setBlock_nblds (s : State) (b : Nat) (x : Block) : (setBlock s b x).nblds = s.nblds := rfl
@[simp] theorem setBlock_opReuse (s : State) (b : Nat) (x : Block) : (setBlock s b x).opReuse = s.opReuse := rfl
@[simp] theorem setBlock_passes (s : State) (b : Nat) (x : Block) : (setBlock s b x).passes = s.passes := rfl
@[simp] theorem setBlock_heldAcc (s : State) (b : Nat) (x : Block) : (setBlock s b x).heldAcc = s.heldAcc := rfl
@[simp] theorem setBlock_arbLast (s : State) (b : Nat) (x : Block) : (setBlock s b x).arbLast = s.arbLast := rfl
@[simp] theorem setBlock_arbSkips (s : State) (b : Nat) (x : Block) : (setBlock s b x).arbSkips = s.arbSkips := rfl
@[simp] theorem setBlock_hbm (s : State) (b : Nat) (x : Block) : (setBlock s b x).hbm = s.hbm := rfl
@[simp] theorem setBlock_ctag (s : State) (b : Nat) (x : Block) : (setBlock s b x).ctag = s.ctag := rfl
@[simp] theorem setBlock_poison (s : State) (b : Nat) (x : Block) : (setBlock s b x).poison = s.poison := rfl
@[simp] theorem setBlock_host (s : State) (b : Nat) (x : Block) : (setBlock s b x).host = s.host := rfl
@[simp] theorem setBlock_hostPoison (s : State) (b : Nat) (x : Block) : (setBlock s b x).hostPoison = s.hostPoison := rfl
@[simp] theorem setBlock_svcRoots (s : State) (b : Nat) (x : Block) : (setBlock s b x).svcRoots = s.svcRoots := rfl
@[simp] theorem setBlock_spad (s : State) (b : Nat) (x : Block) : (setBlock s b x).spad = s.spad := rfl
@[simp] theorem setBlock_swz (s : State) (b : Nat) (x : Block) : (setBlock s b x).swz = s.swz := rfl
@[simp] theorem setBlock_notify (s : State) (b : Nat) (x : Block) : (setBlock s b x).notify = s.notify := rfl
@[simp] theorem setBlock_cycles (s : State) (b : Nat) (x : Block) : (setBlock s b x).cycles = s.cycles := rfl
@[simp] theorem setBlock_locks (s : State) (b : Nat) (x : Block) : (setBlock s b x).locks = s.locks := rfl
@[simp] theorem setBlock_copies (s : State) (b : Nat) (x : Block) : (setBlock s b x).copies = s.copies := rfl
@[simp] theorem setBlock_stale (s : State) (b : Nat) (x : Block) : (setBlock s b x).stale = s.stale := rfl
@[simp] theorem setBlock_s2old (s : State) (b : Nat) (x : Block) : (setBlock s b x).s2old = s.s2old := rfl
@[simp] theorem setBlock_flips (s : State) (b : Nat) (x : Block) : (setBlock s b x).flips = s.flips := rfl
@[simp] theorem setBlock_hostRefused (s : State) (b : Nat) (x : Block) : (setBlock s b x).hostRefused = s.hostRefused := rfl
@[simp] theorem setBlock_s2wait (s : State) (b : Nat) (x : Block) : (setBlock s b x).s2wait = s.s2wait := rfl
@[simp] theorem setBlock_s2refused (s : State) (b : Nat) (x : Block) : (setBlock s b x).s2refused = s.s2refused := rfl
@[simp] theorem setBlock_svcreqs (s : State) (b : Nat) (x : Block) : (setBlock s b x).svcreqs = s.svcreqs := rfl
@[simp] theorem setBlock_queues (s : State) (b : Nat) (x : Block) : (setBlock s b x).queues = s.queues := rfl
@[simp] theorem setBlock_disps (s : State) (b : Nat) (x : Block) : (setBlock s b x).disps = s.disps := rfl
@[simp] theorem setBlock_ctxs (s : State) (b : Nat) (x : Block) : (setBlock s b x).ctxs = s.ctxs := rfl
@[simp] theorem setBlock_parts (s : State) (b : Nat) (x : Block) : (setBlock s b x).parts = s.parts := rfl
@[simp] theorem setBlock_mnode (s : State) (b : Nat) (x : Block) : (setBlock s b x).mnode = s.mnode := rfl
@[simp] theorem setBlock_moved (s : State) (b : Nat) (x : Block) : (setBlock s b x).moved = s.moved := rfl
@[simp] theorem setBlock_devq (s : State) (b : Nat) (x : Block) : (setBlock s b x).devq = s.devq := rfl
@[simp] theorem setBlock_spoison (s : State) (b : Nat) (x : Block) : (setBlock s b x).spoison = s.spoison := rfl
@[simp] theorem setBlock_links (s : State) (b : Nat) (x : Block) : (setBlock s b x).links = s.links := rfl
@[simp] theorem setBlock_routes (s : State) (b : Nat) (x : Block) : (setBlock s b x).routes = s.routes := rfl
@[simp] theorem setBlock_tdi (s : State) (b : Nat) (x : Block) : (setBlock s b x).tdi = s.tdi := rfl
@[simp] theorem setBlock_windows (s : State) (b : Nat) (x : Block) : (setBlock s b x).windows = s.windows := rfl
@[simp] theorem setBlock_peers (s : State) (b : Nat) (x : Block) : (setBlock s b x).peers = s.peers := rfl
@[simp] theorem setBlock_biasreq (s : State) (b : Nat) (x : Block) : (setBlock s b x).biasreq = s.biasreq := rfl
@[simp] theorem setBlock_pcerr (s : State) (b : Nat) (x : Block) : (setBlock s b x).pcerr = s.pcerr := rfl
@[simp] theorem setBlock_pcerrAddr (s : State) (b : Nat) (x : Block) : (setBlock s b x).pcerrAddr = s.pcerrAddr := rfl
@[simp] theorem setBlock_reqs (s : State) (b : Nat) (x : Block) : (setBlock s b x).reqs = s.reqs := rfl
@[simp] theorem setBlock_inreqs (s : State) (b : Nat) (x : Block) : (setBlock s b x).inreqs = s.inreqs := rfl
@[simp] theorem setBlock_harts (s : State) (b : Nat) (x : Block) : (setBlock s b x).harts = s.harts := rfl
@[simp] theorem setBlock_elog (s : State) (b : Nat) (x : Block) : (setBlock s b x).elog = s.elog := rfl
@[simp] theorem setBlock_elogLost (s : State) (b : Nat) (x : Block) : (setBlock s b x).elogLost = s.elogLost := rfl
@[simp] theorem setBlock_elogSeq (s : State) (b : Nat) (x : Block) : (setBlock s b x).elogSeq = s.elogSeq := rfl
@[simp] theorem setBlock_co (s : State) (b : Nat) (x : Block) : (setBlock s b x).co = s.co := rfl
@[simp] theorem setBlock_seqst (s : State) (b : Nat) (x : Block) : (setBlock s b x).seqst = s.seqst := rfl
@[simp] theorem setBlock_nbcmds (s : State) (b : Nat) (x : Block) : (setBlock s b x).nbcmds = s.nbcmds := rfl
@[simp] theorem setBlock_keys (s : State) (b : Nat) (x : Block) : (setBlock s b x).keys = s.keys := rfl
@[simp] theorem setBlock_pregs (s : State) (b : Nat) (x : Block) : (setBlock s b x).pregs = s.pregs := rfl
@[simp] theorem setBlock_meas (s : State) (b : Nat) (x : Block) : (setBlock s b x).meas = s.meas := rfl
@[simp] theorem setBlock_spdm (s : State) (b : Nat) (x : Block) : (setBlock s b x).spdm = s.spdm := rfl
@[simp] theorem setBlock_ide (s : State) (b : Nat) (x : Block) : (setBlock s b x).ide = s.ide := rfl
@[simp] theorem setBlock_ideKeys (s : State) (b : Nat) (x : Block) : (setBlock s b x).ideKeys = s.ideKeys := rfl
@[simp] theorem setBlock_tdiNonce (s : State) (b : Nat) (x : Block) : (setBlock s b x).tdiNonce = s.tdiNonce := rfl
@[simp] theorem setBlock_ident (s : State) (b : Nat) (x : Block) : (setBlock s b x).ident = s.ident := rfl
@[simp] theorem setBlock_aliasOf (s : State) (b : Nat) (x : Block) : (setBlock s b x).aliasOf = s.aliasOf := rfl
@[simp] theorem setBlock_msix (s : State) (b : Nat) (x : Block) : (setBlock s b x).msix = s.msix := rfl
@[simp] theorem setBlock_msixOn (s : State) (b : Nat) (x : Block) : (setBlock s b x).msixOn = s.msixOn := rfl
@[simp] theorem setBlock_msixPend (s : State) (b : Nat) (x : Block) : (setBlock s b x).msixPend = s.msixPend := rfl
@[simp] theorem setBlock_corr (s : State) (b : Nat) (x : Block) : (setBlock s b x).corr = s.corr := rfl
@[simp] theorem setBlock_hold (s : State) (b : Nat) (x : Block) : (setBlock s b x).hold = s.hold := rfl
@[simp] theorem setBlock_stage (s : State) (b : Nat) (x : Block) : (setBlock s b x).stage = s.stage := rfl
@[simp] theorem setBlock_pgood (s : State) (b : Nat) (x : Block) : (setBlock s b x).pgood = s.pgood := rfl
@[simp] theorem setBlock_tripped (s : State) (b : Nat) (x : Block) : (setBlock s b x).tripped = s.tripped := rfl
@[simp] theorem setBlock_logKeep (s : State) (b : Nat) (x : Block) : (setBlock s b x).logKeep = s.logKeep := rfl
@[simp] theorem setBlock_trip (s : State) (b : Nat) (x : Block) : (setBlock s b x).trip = s.trip := rfl
@[simp] theorem setBlock_bootSt (s : State) (b : Nat) (x : Block) : (setBlock s b x).bootSt = s.bootSt := rfl
@[simp] theorem setBlock_plim (s : State) (b : Nat) (x : Block) : (setBlock s b x).plim = s.plim := rfl
@[simp] theorem setBlock_maxw (s : State) (b : Nat) (x : Block) : (setBlock s b x).maxw = s.maxw := rfl
@[simp] theorem setBlock_noww (s : State) (b : Nat) (x : Block) : (setBlock s b x).noww = s.noww := rfl
@[simp] theorem setBlock_cmax (s : State) (b : Nat) (x : Block) : (setBlock s b x).cmax = s.cmax := rfl
@[simp] theorem setBlock_steps (s : State) (b : Nat) (x : Block) : (setBlock s b x).steps = s.steps := rfl
@[simp] theorem setBlock_twarn (s : State) (b : Nat) (x : Block) : (setBlock s b x).twarn = s.twarn := rfl
@[simp] theorem setBlock_temps (s : State) (b : Nat) (x : Block) : (setBlock s b x).temps = s.temps := rfl
@[simp] theorem setBlock_stemps (s : State) (b : Nat) (x : Block) : (setBlock s b x).stemps = s.stemps := rfl
@[simp] theorem setBlock_refresh2 (s : State) (b : Nat) (x : Block) : (setBlock s b x).refresh2 = s.refresh2 := rfl
@[simp] theorem setBlock_sent (s : State) (b : Nat) (x : Block) : (setBlock s b x).sent = s.sent := rfl
@[simp] theorem setBlock_inputs (s : State) (b : Nat) (x : Block) : (setBlock s b x).inputs = s.inputs := rfl
@[simp] theorem setBlock_turn (s : State) (b : Nat) (x : Block) : (setBlock s b x).turn = s.turn := rfl
@[simp] theorem setBlock_issuer (s : State) (b : Nat) (x : Block) : (setBlock s b x).issuer = s.issuer := rfl
@[simp] theorem setBlock_clock (s : State) (b : Nat) (x : Block) : (setBlock s b x).clock = s.clock := rfl
@[simp] theorem setBlock_uid (s : State) (b : Nat) (x : Block) : (setBlock s b x).uid = s.uid := rfl

/-! ## `setGrid` -/

@[simp] theorem setGrid_groups (s : State) (n : Nat) (x : Grid) : (setGrid s n x).groups = s.groups := rfl
@[simp] theorem setGrid_blocks (s : State) (n : Nat) (x : Grid) : (setGrid s n x).blocks = s.blocks := rfl
@[simp] theorem setGrid_grids (s : State) (n : Nat) (x : Grid) : (setGrid s n x).grids = tset s.grids n x := rfl
@[simp] theorem setGrid_ops (s : State) (n : Nat) (x : Grid) : (setGrid s n x).ops = s.ops := rfl
@[simp] theorem setGrid_binds (s : State) (n : Nat) (x : Grid) : (setGrid s n x).binds = s.binds := rfl
@[simp] theorem setGrid_nblds (s : State) (n : Nat) (x : Grid) : (setGrid s n x).nblds = s.nblds := rfl
@[simp] theorem setGrid_opReuse (s : State) (n : Nat) (x : Grid) : (setGrid s n x).opReuse = s.opReuse := rfl
@[simp] theorem setGrid_passes (s : State) (n : Nat) (x : Grid) : (setGrid s n x).passes = s.passes := rfl
@[simp] theorem setGrid_heldAcc (s : State) (n : Nat) (x : Grid) : (setGrid s n x).heldAcc = s.heldAcc := rfl
@[simp] theorem setGrid_arbLast (s : State) (n : Nat) (x : Grid) : (setGrid s n x).arbLast = s.arbLast := rfl
@[simp] theorem setGrid_arbSkips (s : State) (n : Nat) (x : Grid) : (setGrid s n x).arbSkips = s.arbSkips := rfl
@[simp] theorem setGrid_hbm (s : State) (n : Nat) (x : Grid) : (setGrid s n x).hbm = s.hbm := rfl
@[simp] theorem setGrid_ctag (s : State) (n : Nat) (x : Grid) : (setGrid s n x).ctag = s.ctag := rfl
@[simp] theorem setGrid_poison (s : State) (n : Nat) (x : Grid) : (setGrid s n x).poison = s.poison := rfl
@[simp] theorem setGrid_host (s : State) (n : Nat) (x : Grid) : (setGrid s n x).host = s.host := rfl
@[simp] theorem setGrid_hostPoison (s : State) (n : Nat) (x : Grid) : (setGrid s n x).hostPoison = s.hostPoison := rfl
@[simp] theorem setGrid_svcRoots (s : State) (n : Nat) (x : Grid) : (setGrid s n x).svcRoots = s.svcRoots := rfl
@[simp] theorem setGrid_spad (s : State) (n : Nat) (x : Grid) : (setGrid s n x).spad = s.spad := rfl
@[simp] theorem setGrid_swz (s : State) (n : Nat) (x : Grid) : (setGrid s n x).swz = s.swz := rfl
@[simp] theorem setGrid_notify (s : State) (n : Nat) (x : Grid) : (setGrid s n x).notify = s.notify := rfl
@[simp] theorem setGrid_cycles (s : State) (n : Nat) (x : Grid) : (setGrid s n x).cycles = s.cycles := rfl
@[simp] theorem setGrid_locks (s : State) (n : Nat) (x : Grid) : (setGrid s n x).locks = s.locks := rfl
@[simp] theorem setGrid_copies (s : State) (n : Nat) (x : Grid) : (setGrid s n x).copies = s.copies := rfl
@[simp] theorem setGrid_stale (s : State) (n : Nat) (x : Grid) : (setGrid s n x).stale = s.stale := rfl
@[simp] theorem setGrid_s2old (s : State) (n : Nat) (x : Grid) : (setGrid s n x).s2old = s.s2old := rfl
@[simp] theorem setGrid_flips (s : State) (n : Nat) (x : Grid) : (setGrid s n x).flips = s.flips := rfl
@[simp] theorem setGrid_hostRefused (s : State) (n : Nat) (x : Grid) : (setGrid s n x).hostRefused = s.hostRefused := rfl
@[simp] theorem setGrid_s2wait (s : State) (n : Nat) (x : Grid) : (setGrid s n x).s2wait = s.s2wait := rfl
@[simp] theorem setGrid_s2refused (s : State) (n : Nat) (x : Grid) : (setGrid s n x).s2refused = s.s2refused := rfl
@[simp] theorem setGrid_svcreqs (s : State) (n : Nat) (x : Grid) : (setGrid s n x).svcreqs = s.svcreqs := rfl
@[simp] theorem setGrid_queues (s : State) (n : Nat) (x : Grid) : (setGrid s n x).queues = s.queues := rfl
@[simp] theorem setGrid_disps (s : State) (n : Nat) (x : Grid) : (setGrid s n x).disps = s.disps := rfl
@[simp] theorem setGrid_ctxs (s : State) (n : Nat) (x : Grid) : (setGrid s n x).ctxs = s.ctxs := rfl
@[simp] theorem setGrid_parts (s : State) (n : Nat) (x : Grid) : (setGrid s n x).parts = s.parts := rfl
@[simp] theorem setGrid_mnode (s : State) (n : Nat) (x : Grid) : (setGrid s n x).mnode = s.mnode := rfl
@[simp] theorem setGrid_moved (s : State) (n : Nat) (x : Grid) : (setGrid s n x).moved = s.moved := rfl
@[simp] theorem setGrid_devq (s : State) (n : Nat) (x : Grid) : (setGrid s n x).devq = s.devq := rfl
@[simp] theorem setGrid_spoison (s : State) (n : Nat) (x : Grid) : (setGrid s n x).spoison = s.spoison := rfl
@[simp] theorem setGrid_links (s : State) (n : Nat) (x : Grid) : (setGrid s n x).links = s.links := rfl
@[simp] theorem setGrid_routes (s : State) (n : Nat) (x : Grid) : (setGrid s n x).routes = s.routes := rfl
@[simp] theorem setGrid_tdi (s : State) (n : Nat) (x : Grid) : (setGrid s n x).tdi = s.tdi := rfl
@[simp] theorem setGrid_windows (s : State) (n : Nat) (x : Grid) : (setGrid s n x).windows = s.windows := rfl
@[simp] theorem setGrid_peers (s : State) (n : Nat) (x : Grid) : (setGrid s n x).peers = s.peers := rfl
@[simp] theorem setGrid_biasreq (s : State) (n : Nat) (x : Grid) : (setGrid s n x).biasreq = s.biasreq := rfl
@[simp] theorem setGrid_pcerr (s : State) (n : Nat) (x : Grid) : (setGrid s n x).pcerr = s.pcerr := rfl
@[simp] theorem setGrid_pcerrAddr (s : State) (n : Nat) (x : Grid) : (setGrid s n x).pcerrAddr = s.pcerrAddr := rfl
@[simp] theorem setGrid_reqs (s : State) (n : Nat) (x : Grid) : (setGrid s n x).reqs = s.reqs := rfl
@[simp] theorem setGrid_inreqs (s : State) (n : Nat) (x : Grid) : (setGrid s n x).inreqs = s.inreqs := rfl
@[simp] theorem setGrid_harts (s : State) (n : Nat) (x : Grid) : (setGrid s n x).harts = s.harts := rfl
@[simp] theorem setGrid_elog (s : State) (n : Nat) (x : Grid) : (setGrid s n x).elog = s.elog := rfl
@[simp] theorem setGrid_elogLost (s : State) (n : Nat) (x : Grid) : (setGrid s n x).elogLost = s.elogLost := rfl
@[simp] theorem setGrid_elogSeq (s : State) (n : Nat) (x : Grid) : (setGrid s n x).elogSeq = s.elogSeq := rfl
@[simp] theorem setGrid_co (s : State) (n : Nat) (x : Grid) : (setGrid s n x).co = s.co := rfl
@[simp] theorem setGrid_seqst (s : State) (n : Nat) (x : Grid) : (setGrid s n x).seqst = s.seqst := rfl
@[simp] theorem setGrid_nbcmds (s : State) (n : Nat) (x : Grid) : (setGrid s n x).nbcmds = s.nbcmds := rfl
@[simp] theorem setGrid_keys (s : State) (n : Nat) (x : Grid) : (setGrid s n x).keys = s.keys := rfl
@[simp] theorem setGrid_pregs (s : State) (n : Nat) (x : Grid) : (setGrid s n x).pregs = s.pregs := rfl
@[simp] theorem setGrid_meas (s : State) (n : Nat) (x : Grid) : (setGrid s n x).meas = s.meas := rfl
@[simp] theorem setGrid_spdm (s : State) (n : Nat) (x : Grid) : (setGrid s n x).spdm = s.spdm := rfl
@[simp] theorem setGrid_ide (s : State) (n : Nat) (x : Grid) : (setGrid s n x).ide = s.ide := rfl
@[simp] theorem setGrid_ideKeys (s : State) (n : Nat) (x : Grid) : (setGrid s n x).ideKeys = s.ideKeys := rfl
@[simp] theorem setGrid_tdiNonce (s : State) (n : Nat) (x : Grid) : (setGrid s n x).tdiNonce = s.tdiNonce := rfl
@[simp] theorem setGrid_ident (s : State) (n : Nat) (x : Grid) : (setGrid s n x).ident = s.ident := rfl
@[simp] theorem setGrid_aliasOf (s : State) (n : Nat) (x : Grid) : (setGrid s n x).aliasOf = s.aliasOf := rfl
@[simp] theorem setGrid_msix (s : State) (n : Nat) (x : Grid) : (setGrid s n x).msix = s.msix := rfl
@[simp] theorem setGrid_msixOn (s : State) (n : Nat) (x : Grid) : (setGrid s n x).msixOn = s.msixOn := rfl
@[simp] theorem setGrid_msixPend (s : State) (n : Nat) (x : Grid) : (setGrid s n x).msixPend = s.msixPend := rfl
@[simp] theorem setGrid_corr (s : State) (n : Nat) (x : Grid) : (setGrid s n x).corr = s.corr := rfl
@[simp] theorem setGrid_hold (s : State) (n : Nat) (x : Grid) : (setGrid s n x).hold = s.hold := rfl
@[simp] theorem setGrid_stage (s : State) (n : Nat) (x : Grid) : (setGrid s n x).stage = s.stage := rfl
@[simp] theorem setGrid_pgood (s : State) (n : Nat) (x : Grid) : (setGrid s n x).pgood = s.pgood := rfl
@[simp] theorem setGrid_tripped (s : State) (n : Nat) (x : Grid) : (setGrid s n x).tripped = s.tripped := rfl
@[simp] theorem setGrid_logKeep (s : State) (n : Nat) (x : Grid) : (setGrid s n x).logKeep = s.logKeep := rfl
@[simp] theorem setGrid_trip (s : State) (n : Nat) (x : Grid) : (setGrid s n x).trip = s.trip := rfl
@[simp] theorem setGrid_bootSt (s : State) (n : Nat) (x : Grid) : (setGrid s n x).bootSt = s.bootSt := rfl
@[simp] theorem setGrid_plim (s : State) (n : Nat) (x : Grid) : (setGrid s n x).plim = s.plim := rfl
@[simp] theorem setGrid_maxw (s : State) (n : Nat) (x : Grid) : (setGrid s n x).maxw = s.maxw := rfl
@[simp] theorem setGrid_noww (s : State) (n : Nat) (x : Grid) : (setGrid s n x).noww = s.noww := rfl
@[simp] theorem setGrid_cmax (s : State) (n : Nat) (x : Grid) : (setGrid s n x).cmax = s.cmax := rfl
@[simp] theorem setGrid_steps (s : State) (n : Nat) (x : Grid) : (setGrid s n x).steps = s.steps := rfl
@[simp] theorem setGrid_twarn (s : State) (n : Nat) (x : Grid) : (setGrid s n x).twarn = s.twarn := rfl
@[simp] theorem setGrid_temps (s : State) (n : Nat) (x : Grid) : (setGrid s n x).temps = s.temps := rfl
@[simp] theorem setGrid_stemps (s : State) (n : Nat) (x : Grid) : (setGrid s n x).stemps = s.stemps := rfl
@[simp] theorem setGrid_refresh2 (s : State) (n : Nat) (x : Grid) : (setGrid s n x).refresh2 = s.refresh2 := rfl
@[simp] theorem setGrid_sent (s : State) (n : Nat) (x : Grid) : (setGrid s n x).sent = s.sent := rfl
@[simp] theorem setGrid_inputs (s : State) (n : Nat) (x : Grid) : (setGrid s n x).inputs = s.inputs := rfl
@[simp] theorem setGrid_turn (s : State) (n : Nat) (x : Grid) : (setGrid s n x).turn = s.turn := rfl
@[simp] theorem setGrid_issuer (s : State) (n : Nat) (x : Grid) : (setGrid s n x).issuer = s.issuer := rfl
@[simp] theorem setGrid_clock (s : State) (n : Nat) (x : Grid) : (setGrid s n x).clock = s.clock := rfl
@[simp] theorem setGrid_uid (s : State) (n : Nat) (x : Grid) : (setGrid s n x).uid = s.uid := rfl

/-! ## `sendMsg` -/

@[simp] theorem sendMsg_groups (s : State) (m : Msg) : (sendMsg s m).groups = s.groups := rfl
@[simp] theorem sendMsg_blocks (s : State) (m : Msg) : (sendMsg s m).blocks = s.blocks := rfl
@[simp] theorem sendMsg_grids (s : State) (m : Msg) : (sendMsg s m).grids = s.grids := rfl
@[simp] theorem sendMsg_ops (s : State) (m : Msg) : (sendMsg s m).ops = s.ops := rfl
@[simp] theorem sendMsg_binds (s : State) (m : Msg) : (sendMsg s m).binds = s.binds := rfl
@[simp] theorem sendMsg_nblds (s : State) (m : Msg) : (sendMsg s m).nblds = s.nblds := rfl
@[simp] theorem sendMsg_opReuse (s : State) (m : Msg) : (sendMsg s m).opReuse = s.opReuse := rfl
@[simp] theorem sendMsg_passes (s : State) (m : Msg) : (sendMsg s m).passes = s.passes := rfl
@[simp] theorem sendMsg_heldAcc (s : State) (m : Msg) : (sendMsg s m).heldAcc = s.heldAcc := rfl
@[simp] theorem sendMsg_arbLast (s : State) (m : Msg) : (sendMsg s m).arbLast = s.arbLast := rfl
@[simp] theorem sendMsg_arbSkips (s : State) (m : Msg) : (sendMsg s m).arbSkips = s.arbSkips := rfl
@[simp] theorem sendMsg_hbm (s : State) (m : Msg) : (sendMsg s m).hbm = s.hbm := rfl
@[simp] theorem sendMsg_ctag (s : State) (m : Msg) : (sendMsg s m).ctag = s.ctag := rfl
@[simp] theorem sendMsg_poison (s : State) (m : Msg) : (sendMsg s m).poison = s.poison := rfl
@[simp] theorem sendMsg_host (s : State) (m : Msg) : (sendMsg s m).host = s.host := rfl
@[simp] theorem sendMsg_hostPoison (s : State) (m : Msg) : (sendMsg s m).hostPoison = s.hostPoison := rfl
@[simp] theorem sendMsg_svcRoots (s : State) (m : Msg) : (sendMsg s m).svcRoots = s.svcRoots := rfl
@[simp] theorem sendMsg_spad (s : State) (m : Msg) : (sendMsg s m).spad = s.spad := rfl
@[simp] theorem sendMsg_swz (s : State) (m : Msg) : (sendMsg s m).swz = s.swz := rfl
@[simp] theorem sendMsg_notify (s : State) (m : Msg) : (sendMsg s m).notify = s.notify := rfl
@[simp] theorem sendMsg_cycles (s : State) (m : Msg) : (sendMsg s m).cycles = s.cycles := rfl
@[simp] theorem sendMsg_locks (s : State) (m : Msg) : (sendMsg s m).locks = s.locks := rfl
@[simp] theorem sendMsg_copies (s : State) (m : Msg) : (sendMsg s m).copies = s.copies := rfl
@[simp] theorem sendMsg_stale (s : State) (m : Msg) : (sendMsg s m).stale = s.stale := rfl
@[simp] theorem sendMsg_s2old (s : State) (m : Msg) : (sendMsg s m).s2old = s.s2old := rfl
@[simp] theorem sendMsg_flips (s : State) (m : Msg) : (sendMsg s m).flips = s.flips := rfl
@[simp] theorem sendMsg_hostRefused (s : State) (m : Msg) : (sendMsg s m).hostRefused = s.hostRefused := rfl
@[simp] theorem sendMsg_s2wait (s : State) (m : Msg) : (sendMsg s m).s2wait = s.s2wait := rfl
@[simp] theorem sendMsg_s2refused (s : State) (m : Msg) : (sendMsg s m).s2refused = s.s2refused := rfl
@[simp] theorem sendMsg_svcreqs (s : State) (m : Msg) : (sendMsg s m).svcreqs = s.svcreqs := rfl
@[simp] theorem sendMsg_queues (s : State) (m : Msg) : (sendMsg s m).queues = s.queues := rfl
@[simp] theorem sendMsg_disps (s : State) (m : Msg) : (sendMsg s m).disps = s.disps := rfl
@[simp] theorem sendMsg_ctxs (s : State) (m : Msg) : (sendMsg s m).ctxs = s.ctxs := rfl
@[simp] theorem sendMsg_parts (s : State) (m : Msg) : (sendMsg s m).parts = s.parts := rfl
@[simp] theorem sendMsg_mnode (s : State) (m : Msg) : (sendMsg s m).mnode = s.mnode := rfl
@[simp] theorem sendMsg_moved (s : State) (m : Msg) : (sendMsg s m).moved = s.moved := rfl
@[simp] theorem sendMsg_devq (s : State) (m : Msg) : (sendMsg s m).devq = s.devq := rfl
@[simp] theorem sendMsg_spoison (s : State) (m : Msg) : (sendMsg s m).spoison = s.spoison := rfl
@[simp] theorem sendMsg_links (s : State) (m : Msg) : (sendMsg s m).links = s.links := rfl
@[simp] theorem sendMsg_routes (s : State) (m : Msg) : (sendMsg s m).routes = s.routes := rfl
@[simp] theorem sendMsg_tdi (s : State) (m : Msg) : (sendMsg s m).tdi = s.tdi := rfl
@[simp] theorem sendMsg_windows (s : State) (m : Msg) : (sendMsg s m).windows = s.windows := rfl
@[simp] theorem sendMsg_peers (s : State) (m : Msg) : (sendMsg s m).peers = s.peers := rfl
@[simp] theorem sendMsg_biasreq (s : State) (m : Msg) : (sendMsg s m).biasreq = s.biasreq := rfl
@[simp] theorem sendMsg_pcerr (s : State) (m : Msg) : (sendMsg s m).pcerr = s.pcerr := rfl
@[simp] theorem sendMsg_pcerrAddr (s : State) (m : Msg) : (sendMsg s m).pcerrAddr = s.pcerrAddr := rfl
@[simp] theorem sendMsg_reqs (s : State) (m : Msg) : (sendMsg s m).reqs = s.reqs := rfl
@[simp] theorem sendMsg_inreqs (s : State) (m : Msg) : (sendMsg s m).inreqs = s.inreqs := rfl
@[simp] theorem sendMsg_harts (s : State) (m : Msg) : (sendMsg s m).harts = s.harts := rfl
@[simp] theorem sendMsg_elog (s : State) (m : Msg) : (sendMsg s m).elog = s.elog := rfl
@[simp] theorem sendMsg_elogLost (s : State) (m : Msg) : (sendMsg s m).elogLost = s.elogLost := rfl
@[simp] theorem sendMsg_elogSeq (s : State) (m : Msg) : (sendMsg s m).elogSeq = s.elogSeq := rfl
@[simp] theorem sendMsg_co (s : State) (m : Msg) : (sendMsg s m).co = s.co := rfl
@[simp] theorem sendMsg_seqst (s : State) (m : Msg) : (sendMsg s m).seqst = s.seqst := rfl
@[simp] theorem sendMsg_nbcmds (s : State) (m : Msg) : (sendMsg s m).nbcmds = s.nbcmds := rfl
@[simp] theorem sendMsg_keys (s : State) (m : Msg) : (sendMsg s m).keys = s.keys := rfl
@[simp] theorem sendMsg_pregs (s : State) (m : Msg) : (sendMsg s m).pregs = s.pregs := rfl
@[simp] theorem sendMsg_meas (s : State) (m : Msg) : (sendMsg s m).meas = s.meas := rfl
@[simp] theorem sendMsg_spdm (s : State) (m : Msg) : (sendMsg s m).spdm = s.spdm := rfl
@[simp] theorem sendMsg_ide (s : State) (m : Msg) : (sendMsg s m).ide = s.ide := rfl
@[simp] theorem sendMsg_ideKeys (s : State) (m : Msg) : (sendMsg s m).ideKeys = s.ideKeys := rfl
@[simp] theorem sendMsg_tdiNonce (s : State) (m : Msg) : (sendMsg s m).tdiNonce = s.tdiNonce := rfl
@[simp] theorem sendMsg_ident (s : State) (m : Msg) : (sendMsg s m).ident = s.ident := rfl
@[simp] theorem sendMsg_aliasOf (s : State) (m : Msg) : (sendMsg s m).aliasOf = s.aliasOf := rfl
@[simp] theorem sendMsg_msix (s : State) (m : Msg) : (sendMsg s m).msix = s.msix := rfl
@[simp] theorem sendMsg_msixOn (s : State) (m : Msg) : (sendMsg s m).msixOn = s.msixOn := rfl
@[simp] theorem sendMsg_msixPend (s : State) (m : Msg) : (sendMsg s m).msixPend = s.msixPend := rfl
@[simp] theorem sendMsg_corr (s : State) (m : Msg) : (sendMsg s m).corr = s.corr := rfl
@[simp] theorem sendMsg_hold (s : State) (m : Msg) : (sendMsg s m).hold = s.hold := rfl
@[simp] theorem sendMsg_stage (s : State) (m : Msg) : (sendMsg s m).stage = s.stage := rfl
@[simp] theorem sendMsg_pgood (s : State) (m : Msg) : (sendMsg s m).pgood = s.pgood := rfl
@[simp] theorem sendMsg_tripped (s : State) (m : Msg) : (sendMsg s m).tripped = s.tripped := rfl
@[simp] theorem sendMsg_logKeep (s : State) (m : Msg) : (sendMsg s m).logKeep = s.logKeep := rfl
@[simp] theorem sendMsg_trip (s : State) (m : Msg) : (sendMsg s m).trip = s.trip := rfl
@[simp] theorem sendMsg_bootSt (s : State) (m : Msg) : (sendMsg s m).bootSt = s.bootSt := rfl
@[simp] theorem sendMsg_plim (s : State) (m : Msg) : (sendMsg s m).plim = s.plim := rfl
@[simp] theorem sendMsg_maxw (s : State) (m : Msg) : (sendMsg s m).maxw = s.maxw := rfl
@[simp] theorem sendMsg_noww (s : State) (m : Msg) : (sendMsg s m).noww = s.noww := rfl
@[simp] theorem sendMsg_cmax (s : State) (m : Msg) : (sendMsg s m).cmax = s.cmax := rfl
@[simp] theorem sendMsg_steps (s : State) (m : Msg) : (sendMsg s m).steps = s.steps := rfl
@[simp] theorem sendMsg_twarn (s : State) (m : Msg) : (sendMsg s m).twarn = s.twarn := rfl
@[simp] theorem sendMsg_temps (s : State) (m : Msg) : (sendMsg s m).temps = s.temps := rfl
@[simp] theorem sendMsg_stemps (s : State) (m : Msg) : (sendMsg s m).stemps = s.stemps := rfl
@[simp] theorem sendMsg_refresh2 (s : State) (m : Msg) : (sendMsg s m).refresh2 = s.refresh2 := rfl
@[simp] theorem sendMsg_sent (s : State) (m : Msg) : (sendMsg s m).sent = s.sent ++ [m] := rfl
@[simp] theorem sendMsg_inputs (s : State) (m : Msg) : (sendMsg s m).inputs = s.inputs := rfl
@[simp] theorem sendMsg_turn (s : State) (m : Msg) : (sendMsg s m).turn = s.turn := rfl
@[simp] theorem sendMsg_issuer (s : State) (m : Msg) : (sendMsg s m).issuer = s.issuer := rfl
@[simp] theorem sendMsg_clock (s : State) (m : Msg) : (sendMsg s m).clock = s.clock := rfl
@[simp] theorem sendMsg_uid (s : State) (m : Msg) : (sendMsg s m).uid = s.uid := rfl

/-! ## `setSlot` -/

@[simp] theorem setSlot_blk (g : Group) (side : Nat) (x : Slot) : (setSlot g side x).blk = g.blk := by unfold setSlot; split <;> rfl
@[simp] theorem setSlot_idx (g : Group) (side : Nat) (x : Slot) : (setSlot g side x).idx = g.idx := by unfold setSlot; split <;> rfl
@[simp] theorem setSlot_wgid (g : Group) (side : Nat) (x : Slot) : (setSlot g side x).wgid = g.wgid := by unfold setSlot; split <;> rfl
@[simp] theorem setSlot_grpid (g : Group) (side : Nat) (x : Slot) : (setSlot g side x).grpid = g.grpid := by unfold setSlot; split <;> rfl
@[simp] theorem setSlot_core (g : Group) (side : Nat) (x : Slot) : (setSlot g side x).core = g.core := by unfold setSlot; split <;> rfl
@[simp] theorem setSlot_gslot (g : Group) (side : Nat) (x : Slot) : (setSlot g side x).gslot = g.gslot := by unfold setSlot; split <;> rfl
@[simp] theorem setSlot_age (g : Group) (side : Nat) (x : Slot) : (setSlot g side x).age = g.age := by unfold setSlot; split <;> rfl
@[simp] theorem setSlot_st (g : Group) (side : Nat) (x : Slot) : (setSlot g side x).st = g.st := by unfold setSlot; split <;> rfl
@[simp] theorem setSlot_v (g : Group) (side : Nat) (x : Slot) : (setSlot g side x).v = g.v := by unfold setSlot; split <;> rfl
@[simp] theorem setSlot_s (g : Group) (side : Nat) (x : Slot) : (setSlot g side x).s = g.s := by unfold setSlot; split <;> rfl
@[simp] theorem setSlot_p (g : Group) (side : Nat) (x : Slot) : (setSlot g side x).p = g.p := by unfold setSlot; split <;> rfl
@[simp] theorem setSlot_held (g : Group) (side : Nat) (x : Slot) : (setSlot g side x).held = g.held := by unfold setSlot; split <;> rfl
@[simp] theorem setSlot_stack (g : Group) (side : Nat) (x : Slot) : (setSlot g side x).stack = g.stack := by unfold setSlot; split <;> rfl
@[simp] theorem setSlot_out (g : Group) (side : Nat) (x : Slot) : (setSlot g side x).out = g.out := by unfold setSlot; split <;> rfl
@[simp] theorem setSlot_posted (g : Group) (side : Nat) (x : Slot) : (setSlot g side x).posted = g.posted := by unfold setSlot; split <;> rfl
@[simp] theorem setSlot_ref (g : Group) (side : Nat) (x : Slot) : (setSlot g side x).ref = g.ref := by unfold setSlot; split <;> rfl
@[simp] theorem setSlot_hlev (g : Group) (side : Nat) (x : Slot) : (setSlot g side x).hlev = g.hlev := by unfold setSlot; split <;> rfl
@[simp] theorem setSlot_tcause (g : Group) (side : Nat) (x : Slot) : (setSlot g side x).tcause = g.tcause := by unfold setSlot; split <;> rfl
@[simp] theorem setSlot_tpc (g : Group) (side : Nat) (x : Slot) : (setSlot g side x).tpc = g.tpc := by unfold setSlot; split <;> rfl
@[simp] theorem setSlot_tmask (g : Group) (side : Nat) (x : Slot) : (setSlot g side x).tmask = g.tmask := by unfold setSlot; split <;> rfl
@[simp] theorem setSlot_taddr (g : Group) (side : Nat) (x : Slot) : (setSlot g side x).taddr = g.taddr := by unfold setSlot; split <;> rfl
@[simp] theorem setSlot_emuword (g : Group) (side : Nat) (x : Slot) : (setSlot g side x).emuword = g.emuword := by unfold setSlot; split <;> rfl
@[simp] theorem setSlot_emuop (g : Group) (side : Nat) (x : Slot) : (setSlot g side x).emuop = g.emuop := by unfold setSlot; split <;> rfl
@[simp] theorem setSlot_emud (g : Group) (side : Nat) (x : Slot) : (setSlot g side x).emud = g.emud := by unfold setSlot; split <;> rfl
@[simp] theorem setSlot_emua (g : Group) (side : Nat) (x : Slot) : (setSlot g side x).emua = g.emua := by unfold setSlot; split <;> rfl
@[simp] theorem setSlot_emub (g : Group) (side : Nat) (x : Slot) : (setSlot g side x).emub = g.emub := by unfold setSlot; split <;> rfl
@[simp] theorem setSlot_emuimm (g : Group) (side : Nat) (x : Slot) : (setSlot g side x).emuimm = g.emuimm := by unfold setSlot; split <;> rfl
@[simp] theorem setSlot_opst (g : Group) (side : Nat) (x : Slot) : (setSlot g side x).opst = g.opst := by unfold setSlot; split <;> rfl
@[simp] theorem setSlot_nbwin (g : Group) (side : Nat) (x : Slot) : (setSlot g side x).nbwin = g.nbwin := by unfold setSlot; split <;> rfl
@[simp] theorem setSlot_tslot1 (g : Group) (side : Nat) (x : Slot) : (setSlot g side x).tslot1 = g.tslot1 := by unfold setSlot; split <;> rfl
@[simp] theorem setSlot_tslot2 (g : Group) (side : Nat) (x : Slot) : (setSlot g side x).tslot2 = g.tslot2 := by unfold setSlot; split <;> rfl
@[simp] theorem setSlot_plev2 (g : Group) (side : Nat) (x : Slot) : (setSlot g side x).plev2 = g.plev2 := by unfold setSlot; split <;> rfl
@[simp] theorem setSlot_pidx (g : Group) (side : Nat) (x : Slot) : (setSlot g side x).pidx = g.pidx := by unfold setSlot; split <;> rfl
@[simp] theorem setSlot_reason (g : Group) (side : Nat) (x : Slot) : (setSlot g side x).reason = g.reason := by unfold setSlot; split <;> rfl
@[simp] theorem setSlot_seq (g : Group) (side : Nat) (x : Slot) : (setSlot g side x).seq = g.seq := by unfold setSlot; split <;> rfl
@[simp] theorem setSlot_xreq (g : Group) (side : Nat) (x : Slot) : (setSlot g side x).xreq = g.xreq := by unfold setSlot; split <;> rfl
@[simp] theorem setSlot_susp (g : Group) (side : Nat) (x : Slot) : (setSlot g side x).susp = g.susp := by unfold setSlot; split <;> rfl
@[simp] theorem setSlot_kids (g : Group) (side : Nat) (x : Slot) : (setSlot g side x).kids = g.kids := by unfold setSlot; split <;> rfl
@[simp] theorem setSlot_sess (g : Group) (side : Nat) (x : Slot) : (setSlot g side x).sess = g.sess := by unfold setSlot; split <;> rfl
@[simp] theorem setSlot_recs (g : Group) (side : Nat) (x : Slot) : (setSlot g side x).recs = g.recs := by unfold setSlot; split <;> rfl
@[simp] theorem setSlot_s2at (g : Group) (side : Nat) (x : Slot) : (setSlot g side x).s2at = g.s2at := by unfold setSlot; split <;> rfl

/-! ## `setSreg` -/

@[simp] theorem setSreg_blk (g : Group) (r : Nat) (x : DWord) : (setSreg g r x).blk = g.blk := by unfold setSreg; split <;> rfl
@[simp] theorem setSreg_idx (g : Group) (r : Nat) (x : DWord) : (setSreg g r x).idx = g.idx := by unfold setSreg; split <;> rfl
@[simp] theorem setSreg_wgid (g : Group) (r : Nat) (x : DWord) : (setSreg g r x).wgid = g.wgid := by unfold setSreg; split <;> rfl
@[simp] theorem setSreg_grpid (g : Group) (r : Nat) (x : DWord) : (setSreg g r x).grpid = g.grpid := by unfold setSreg; split <;> rfl
@[simp] theorem setSreg_core (g : Group) (r : Nat) (x : DWord) : (setSreg g r x).core = g.core := by unfold setSreg; split <;> rfl
@[simp] theorem setSreg_gslot (g : Group) (r : Nat) (x : DWord) : (setSreg g r x).gslot = g.gslot := by unfold setSreg; split <;> rfl
@[simp] theorem setSreg_age (g : Group) (r : Nat) (x : DWord) : (setSreg g r x).age = g.age := by unfold setSreg; split <;> rfl
@[simp] theorem setSreg_st (g : Group) (r : Nat) (x : DWord) : (setSreg g r x).st = g.st := by unfold setSreg; split <;> rfl
@[simp] theorem setSreg_a (g : Group) (r : Nat) (x : DWord) : (setSreg g r x).a = g.a := by unfold setSreg; split <;> rfl
@[simp] theorem setSreg_b (g : Group) (r : Nat) (x : DWord) : (setSreg g r x).b = g.b := by unfold setSreg; split <;> rfl
@[simp] theorem setSreg_v (g : Group) (r : Nat) (x : DWord) : (setSreg g r x).v = g.v := by unfold setSreg; split <;> rfl
@[simp] theorem setSreg_p (g : Group) (r : Nat) (x : DWord) : (setSreg g r x).p = g.p := by unfold setSreg; split <;> rfl
@[simp] theorem setSreg_held (g : Group) (r : Nat) (x : DWord) : (setSreg g r x).held = g.held := by unfold setSreg; split <;> rfl
@[simp] theorem setSreg_stack (g : Group) (r : Nat) (x : DWord) : (setSreg g r x).stack = g.stack := by unfold setSreg; split <;> rfl
@[simp] theorem setSreg_out (g : Group) (r : Nat) (x : DWord) : (setSreg g r x).out = g.out := by unfold setSreg; split <;> rfl
@[simp] theorem setSreg_posted (g : Group) (r : Nat) (x : DWord) : (setSreg g r x).posted = g.posted := by unfold setSreg; split <;> rfl
@[simp] theorem setSreg_ref (g : Group) (r : Nat) (x : DWord) : (setSreg g r x).ref = g.ref := by unfold setSreg; split <;> rfl
@[simp] theorem setSreg_hlev (g : Group) (r : Nat) (x : DWord) : (setSreg g r x).hlev = g.hlev := by unfold setSreg; split <;> rfl
@[simp] theorem setSreg_tcause (g : Group) (r : Nat) (x : DWord) : (setSreg g r x).tcause = g.tcause := by unfold setSreg; split <;> rfl
@[simp] theorem setSreg_tpc (g : Group) (r : Nat) (x : DWord) : (setSreg g r x).tpc = g.tpc := by unfold setSreg; split <;> rfl
@[simp] theorem setSreg_tmask (g : Group) (r : Nat) (x : DWord) : (setSreg g r x).tmask = g.tmask := by unfold setSreg; split <;> rfl
@[simp] theorem setSreg_taddr (g : Group) (r : Nat) (x : DWord) : (setSreg g r x).taddr = g.taddr := by unfold setSreg; split <;> rfl
@[simp] theorem setSreg_emuword (g : Group) (r : Nat) (x : DWord) : (setSreg g r x).emuword = g.emuword := by unfold setSreg; split <;> rfl
@[simp] theorem setSreg_emuop (g : Group) (r : Nat) (x : DWord) : (setSreg g r x).emuop = g.emuop := by unfold setSreg; split <;> rfl
@[simp] theorem setSreg_emud (g : Group) (r : Nat) (x : DWord) : (setSreg g r x).emud = g.emud := by unfold setSreg; split <;> rfl
@[simp] theorem setSreg_emua (g : Group) (r : Nat) (x : DWord) : (setSreg g r x).emua = g.emua := by unfold setSreg; split <;> rfl
@[simp] theorem setSreg_emub (g : Group) (r : Nat) (x : DWord) : (setSreg g r x).emub = g.emub := by unfold setSreg; split <;> rfl
@[simp] theorem setSreg_emuimm (g : Group) (r : Nat) (x : DWord) : (setSreg g r x).emuimm = g.emuimm := by unfold setSreg; split <;> rfl
@[simp] theorem setSreg_opst (g : Group) (r : Nat) (x : DWord) : (setSreg g r x).opst = g.opst := by unfold setSreg; split <;> rfl
@[simp] theorem setSreg_nbwin (g : Group) (r : Nat) (x : DWord) : (setSreg g r x).nbwin = g.nbwin := by unfold setSreg; split <;> rfl
@[simp] theorem setSreg_tslot1 (g : Group) (r : Nat) (x : DWord) : (setSreg g r x).tslot1 = g.tslot1 := by unfold setSreg; split <;> rfl
@[simp] theorem setSreg_tslot2 (g : Group) (r : Nat) (x : DWord) : (setSreg g r x).tslot2 = g.tslot2 := by unfold setSreg; split <;> rfl
@[simp] theorem setSreg_plev2 (g : Group) (r : Nat) (x : DWord) : (setSreg g r x).plev2 = g.plev2 := by unfold setSreg; split <;> rfl
@[simp] theorem setSreg_pidx (g : Group) (r : Nat) (x : DWord) : (setSreg g r x).pidx = g.pidx := by unfold setSreg; split <;> rfl
@[simp] theorem setSreg_reason (g : Group) (r : Nat) (x : DWord) : (setSreg g r x).reason = g.reason := by unfold setSreg; split <;> rfl
@[simp] theorem setSreg_seq (g : Group) (r : Nat) (x : DWord) : (setSreg g r x).seq = g.seq := by unfold setSreg; split <;> rfl
@[simp] theorem setSreg_xreq (g : Group) (r : Nat) (x : DWord) : (setSreg g r x).xreq = g.xreq := by unfold setSreg; split <;> rfl
@[simp] theorem setSreg_susp (g : Group) (r : Nat) (x : DWord) : (setSreg g r x).susp = g.susp := by unfold setSreg; split <;> rfl
@[simp] theorem setSreg_kids (g : Group) (r : Nat) (x : DWord) : (setSreg g r x).kids = g.kids := by unfold setSreg; split <;> rfl
@[simp] theorem setSreg_sess (g : Group) (r : Nat) (x : DWord) : (setSreg g r x).sess = g.sess := by unfold setSreg; split <;> rfl
@[simp] theorem setSreg_recs (g : Group) (r : Nat) (x : DWord) : (setSreg g r x).recs = g.recs := by unfold setSreg; split <;> rfl
@[simp] theorem setSreg_s2at (g : Group) (r : Nat) (x : DWord) : (setSreg g r x).s2at = g.s2at := by unfold setSreg; split <;> rfl

/-! ## `setPreg` -/

@[simp] theorem setPreg_blk (g : Group) (m : Word) (r : Nat) (x : Word) : (setPreg g m r x).blk = g.blk := by unfold setPreg; split <;> rfl
@[simp] theorem setPreg_idx (g : Group) (m : Word) (r : Nat) (x : Word) : (setPreg g m r x).idx = g.idx := by unfold setPreg; split <;> rfl
@[simp] theorem setPreg_wgid (g : Group) (m : Word) (r : Nat) (x : Word) : (setPreg g m r x).wgid = g.wgid := by unfold setPreg; split <;> rfl
@[simp] theorem setPreg_grpid (g : Group) (m : Word) (r : Nat) (x : Word) : (setPreg g m r x).grpid = g.grpid := by unfold setPreg; split <;> rfl
@[simp] theorem setPreg_core (g : Group) (m : Word) (r : Nat) (x : Word) : (setPreg g m r x).core = g.core := by unfold setPreg; split <;> rfl
@[simp] theorem setPreg_gslot (g : Group) (m : Word) (r : Nat) (x : Word) : (setPreg g m r x).gslot = g.gslot := by unfold setPreg; split <;> rfl
@[simp] theorem setPreg_age (g : Group) (m : Word) (r : Nat) (x : Word) : (setPreg g m r x).age = g.age := by unfold setPreg; split <;> rfl
@[simp] theorem setPreg_st (g : Group) (m : Word) (r : Nat) (x : Word) : (setPreg g m r x).st = g.st := by unfold setPreg; split <;> rfl
@[simp] theorem setPreg_a (g : Group) (m : Word) (r : Nat) (x : Word) : (setPreg g m r x).a = g.a := by unfold setPreg; split <;> rfl
@[simp] theorem setPreg_b (g : Group) (m : Word) (r : Nat) (x : Word) : (setPreg g m r x).b = g.b := by unfold setPreg; split <;> rfl
@[simp] theorem setPreg_v (g : Group) (m : Word) (r : Nat) (x : Word) : (setPreg g m r x).v = g.v := by unfold setPreg; split <;> rfl
@[simp] theorem setPreg_s (g : Group) (m : Word) (r : Nat) (x : Word) : (setPreg g m r x).s = g.s := by unfold setPreg; split <;> rfl
@[simp] theorem setPreg_held (g : Group) (m : Word) (r : Nat) (x : Word) : (setPreg g m r x).held = g.held := by unfold setPreg; split <;> rfl
@[simp] theorem setPreg_stack (g : Group) (m : Word) (r : Nat) (x : Word) : (setPreg g m r x).stack = g.stack := by unfold setPreg; split <;> rfl
@[simp] theorem setPreg_out (g : Group) (m : Word) (r : Nat) (x : Word) : (setPreg g m r x).out = g.out := by unfold setPreg; split <;> rfl
@[simp] theorem setPreg_posted (g : Group) (m : Word) (r : Nat) (x : Word) : (setPreg g m r x).posted = g.posted := by unfold setPreg; split <;> rfl
@[simp] theorem setPreg_ref (g : Group) (m : Word) (r : Nat) (x : Word) : (setPreg g m r x).ref = g.ref := by unfold setPreg; split <;> rfl
@[simp] theorem setPreg_hlev (g : Group) (m : Word) (r : Nat) (x : Word) : (setPreg g m r x).hlev = g.hlev := by unfold setPreg; split <;> rfl
@[simp] theorem setPreg_tcause (g : Group) (m : Word) (r : Nat) (x : Word) : (setPreg g m r x).tcause = g.tcause := by unfold setPreg; split <;> rfl
@[simp] theorem setPreg_tpc (g : Group) (m : Word) (r : Nat) (x : Word) : (setPreg g m r x).tpc = g.tpc := by unfold setPreg; split <;> rfl
@[simp] theorem setPreg_tmask (g : Group) (m : Word) (r : Nat) (x : Word) : (setPreg g m r x).tmask = g.tmask := by unfold setPreg; split <;> rfl
@[simp] theorem setPreg_taddr (g : Group) (m : Word) (r : Nat) (x : Word) : (setPreg g m r x).taddr = g.taddr := by unfold setPreg; split <;> rfl
@[simp] theorem setPreg_emuword (g : Group) (m : Word) (r : Nat) (x : Word) : (setPreg g m r x).emuword = g.emuword := by unfold setPreg; split <;> rfl
@[simp] theorem setPreg_emuop (g : Group) (m : Word) (r : Nat) (x : Word) : (setPreg g m r x).emuop = g.emuop := by unfold setPreg; split <;> rfl
@[simp] theorem setPreg_emud (g : Group) (m : Word) (r : Nat) (x : Word) : (setPreg g m r x).emud = g.emud := by unfold setPreg; split <;> rfl
@[simp] theorem setPreg_emua (g : Group) (m : Word) (r : Nat) (x : Word) : (setPreg g m r x).emua = g.emua := by unfold setPreg; split <;> rfl
@[simp] theorem setPreg_emub (g : Group) (m : Word) (r : Nat) (x : Word) : (setPreg g m r x).emub = g.emub := by unfold setPreg; split <;> rfl
@[simp] theorem setPreg_emuimm (g : Group) (m : Word) (r : Nat) (x : Word) : (setPreg g m r x).emuimm = g.emuimm := by unfold setPreg; split <;> rfl
@[simp] theorem setPreg_opst (g : Group) (m : Word) (r : Nat) (x : Word) : (setPreg g m r x).opst = g.opst := by unfold setPreg; split <;> rfl
@[simp] theorem setPreg_nbwin (g : Group) (m : Word) (r : Nat) (x : Word) : (setPreg g m r x).nbwin = g.nbwin := by unfold setPreg; split <;> rfl
@[simp] theorem setPreg_tslot1 (g : Group) (m : Word) (r : Nat) (x : Word) : (setPreg g m r x).tslot1 = g.tslot1 := by unfold setPreg; split <;> rfl
@[simp] theorem setPreg_tslot2 (g : Group) (m : Word) (r : Nat) (x : Word) : (setPreg g m r x).tslot2 = g.tslot2 := by unfold setPreg; split <;> rfl
@[simp] theorem setPreg_plev2 (g : Group) (m : Word) (r : Nat) (x : Word) : (setPreg g m r x).plev2 = g.plev2 := by unfold setPreg; split <;> rfl
@[simp] theorem setPreg_pidx (g : Group) (m : Word) (r : Nat) (x : Word) : (setPreg g m r x).pidx = g.pidx := by unfold setPreg; split <;> rfl
@[simp] theorem setPreg_reason (g : Group) (m : Word) (r : Nat) (x : Word) : (setPreg g m r x).reason = g.reason := by unfold setPreg; split <;> rfl
@[simp] theorem setPreg_seq (g : Group) (m : Word) (r : Nat) (x : Word) : (setPreg g m r x).seq = g.seq := by unfold setPreg; split <;> rfl
@[simp] theorem setPreg_xreq (g : Group) (m : Word) (r : Nat) (x : Word) : (setPreg g m r x).xreq = g.xreq := by unfold setPreg; split <;> rfl
@[simp] theorem setPreg_susp (g : Group) (m : Word) (r : Nat) (x : Word) : (setPreg g m r x).susp = g.susp := by unfold setPreg; split <;> rfl
@[simp] theorem setPreg_kids (g : Group) (m : Word) (r : Nat) (x : Word) : (setPreg g m r x).kids = g.kids := by unfold setPreg; split <;> rfl
@[simp] theorem setPreg_sess (g : Group) (m : Word) (r : Nat) (x : Word) : (setPreg g m r x).sess = g.sess := by unfold setPreg; split <;> rfl
@[simp] theorem setPreg_recs (g : Group) (m : Word) (r : Nat) (x : Word) : (setPreg g m r x).recs = g.recs := by unfold setPreg; split <;> rfl
@[simp] theorem setPreg_s2at (g : Group) (m : Word) (r : Nat) (x : Word) : (setPreg g m r x).s2at = g.s2at := by unfold setPreg; split <;> rfl

/-! ## `setLanes` -/

@[simp] theorem setLanes_blk (g : Group) (m : Word) (r n : Nat) (f : Nat → Nat) : (setLanes g m r n f).blk = g.blk := rfl
@[simp] theorem setLanes_idx (g : Group) (m : Word) (r n : Nat) (f : Nat → Nat) : (setLanes g m r n f).idx = g.idx := rfl
@[simp] theorem setLanes_wgid (g : Group) (m : Word) (r n : Nat) (f : Nat → Nat) : (setLanes g m r n f).wgid = g.wgid := rfl
@[simp] theorem setLanes_grpid (g : Group) (m : Word) (r n : Nat) (f : Nat → Nat) : (setLanes g m r n f).grpid = g.grpid := rfl
@[simp] theorem setLanes_core (g : Group) (m : Word) (r n : Nat) (f : Nat → Nat) : (setLanes g m r n f).core = g.core := rfl
@[simp] theorem setLanes_gslot (g : Group) (m : Word) (r n : Nat) (f : Nat → Nat) : (setLanes g m r n f).gslot = g.gslot := rfl
@[simp] theorem setLanes_age (g : Group) (m : Word) (r n : Nat) (f : Nat → Nat) : (setLanes g m r n f).age = g.age := rfl
@[simp] theorem setLanes_st (g : Group) (m : Word) (r n : Nat) (f : Nat → Nat) : (setLanes g m r n f).st = g.st := rfl
@[simp] theorem setLanes_a (g : Group) (m : Word) (r n : Nat) (f : Nat → Nat) : (setLanes g m r n f).a = g.a := rfl
@[simp] theorem setLanes_b (g : Group) (m : Word) (r n : Nat) (f : Nat → Nat) : (setLanes g m r n f).b = g.b := rfl
@[simp] theorem setLanes_s (g : Group) (m : Word) (r n : Nat) (f : Nat → Nat) : (setLanes g m r n f).s = g.s := rfl
@[simp] theorem setLanes_p (g : Group) (m : Word) (r n : Nat) (f : Nat → Nat) : (setLanes g m r n f).p = g.p := rfl
@[simp] theorem setLanes_held (g : Group) (m : Word) (r n : Nat) (f : Nat → Nat) : (setLanes g m r n f).held = g.held := rfl
@[simp] theorem setLanes_stack (g : Group) (m : Word) (r n : Nat) (f : Nat → Nat) : (setLanes g m r n f).stack = g.stack := rfl
@[simp] theorem setLanes_out (g : Group) (m : Word) (r n : Nat) (f : Nat → Nat) : (setLanes g m r n f).out = g.out := rfl
@[simp] theorem setLanes_posted (g : Group) (m : Word) (r n : Nat) (f : Nat → Nat) : (setLanes g m r n f).posted = g.posted := rfl
@[simp] theorem setLanes_ref (g : Group) (m : Word) (r n : Nat) (f : Nat → Nat) : (setLanes g m r n f).ref = g.ref := rfl
@[simp] theorem setLanes_hlev (g : Group) (m : Word) (r n : Nat) (f : Nat → Nat) : (setLanes g m r n f).hlev = g.hlev := rfl
@[simp] theorem setLanes_tcause (g : Group) (m : Word) (r n : Nat) (f : Nat → Nat) : (setLanes g m r n f).tcause = g.tcause := rfl
@[simp] theorem setLanes_tpc (g : Group) (m : Word) (r n : Nat) (f : Nat → Nat) : (setLanes g m r n f).tpc = g.tpc := rfl
@[simp] theorem setLanes_tmask (g : Group) (m : Word) (r n : Nat) (f : Nat → Nat) : (setLanes g m r n f).tmask = g.tmask := rfl
@[simp] theorem setLanes_taddr (g : Group) (m : Word) (r n : Nat) (f : Nat → Nat) : (setLanes g m r n f).taddr = g.taddr := rfl
@[simp] theorem setLanes_emuword (g : Group) (m : Word) (r n : Nat) (f : Nat → Nat) : (setLanes g m r n f).emuword = g.emuword := rfl
@[simp] theorem setLanes_emuop (g : Group) (m : Word) (r n : Nat) (f : Nat → Nat) : (setLanes g m r n f).emuop = g.emuop := rfl
@[simp] theorem setLanes_emud (g : Group) (m : Word) (r n : Nat) (f : Nat → Nat) : (setLanes g m r n f).emud = g.emud := rfl
@[simp] theorem setLanes_emua (g : Group) (m : Word) (r n : Nat) (f : Nat → Nat) : (setLanes g m r n f).emua = g.emua := rfl
@[simp] theorem setLanes_emub (g : Group) (m : Word) (r n : Nat) (f : Nat → Nat) : (setLanes g m r n f).emub = g.emub := rfl
@[simp] theorem setLanes_emuimm (g : Group) (m : Word) (r n : Nat) (f : Nat → Nat) : (setLanes g m r n f).emuimm = g.emuimm := rfl
@[simp] theorem setLanes_opst (g : Group) (m : Word) (r n : Nat) (f : Nat → Nat) : (setLanes g m r n f).opst = g.opst := rfl
@[simp] theorem setLanes_nbwin (g : Group) (m : Word) (r n : Nat) (f : Nat → Nat) : (setLanes g m r n f).nbwin = g.nbwin := rfl
@[simp] theorem setLanes_tslot1 (g : Group) (m : Word) (r n : Nat) (f : Nat → Nat) : (setLanes g m r n f).tslot1 = g.tslot1 := rfl
@[simp] theorem setLanes_tslot2 (g : Group) (m : Word) (r n : Nat) (f : Nat → Nat) : (setLanes g m r n f).tslot2 = g.tslot2 := rfl
@[simp] theorem setLanes_plev2 (g : Group) (m : Word) (r n : Nat) (f : Nat → Nat) : (setLanes g m r n f).plev2 = g.plev2 := rfl
@[simp] theorem setLanes_pidx (g : Group) (m : Word) (r n : Nat) (f : Nat → Nat) : (setLanes g m r n f).pidx = g.pidx := rfl
@[simp] theorem setLanes_reason (g : Group) (m : Word) (r n : Nat) (f : Nat → Nat) : (setLanes g m r n f).reason = g.reason := rfl
@[simp] theorem setLanes_seq (g : Group) (m : Word) (r n : Nat) (f : Nat → Nat) : (setLanes g m r n f).seq = g.seq := rfl
@[simp] theorem setLanes_xreq (g : Group) (m : Word) (r n : Nat) (f : Nat → Nat) : (setLanes g m r n f).xreq = g.xreq := rfl
@[simp] theorem setLanes_susp (g : Group) (m : Word) (r n : Nat) (f : Nat → Nat) : (setLanes g m r n f).susp = g.susp := rfl
@[simp] theorem setLanes_kids (g : Group) (m : Word) (r n : Nat) (f : Nat → Nat) : (setLanes g m r n f).kids = g.kids := rfl
@[simp] theorem setLanes_sess (g : Group) (m : Word) (r n : Nat) (f : Nat → Nat) : (setLanes g m r n f).sess = g.sess := rfl
@[simp] theorem setLanes_recs (g : Group) (m : Word) (r n : Nat) (f : Nat → Nat) : (setLanes g m r n f).recs = g.recs := rfl
@[simp] theorem setLanes_s2at (g : Group) (m : Word) (r n : Nat) (f : Nat → Nat) : (setLanes g m r n f).s2at = g.s2at := rfl

/-- Only `groups` differs after a group is replaced. -/
theorem setGroup_rest (s : State) (gid : Nat) (g : Group) : { setGroup s gid g with groups := s.groups } = s := rfl

end Sys2Proof.Machine
end

