-- ==== Sys2Proof/Laws/Registers.lean ====
section
/-! SUPPORT. What the operations on a group's registers and slots do. -/

namespace Sys2Proof.Machine

theorem setSreg_scalarIs (g : Group) (d : Nat) (x : DWord) : ScalarIs g (setSreg g d x) d x := by
  intro r
  unfold setSreg sreg
  by_cases hd : d < 24
  · rw [if_pos hd]
    by_cases hr : r < 24
    · simp only [hr, if_true, mget_mset, and_true]
    · simp [hr]
  · rw [if_neg hd, if_neg (show ¬(r = d ∧ r < 24) by omega)]

theorem setPreg_predIs (g : Group) (m : Word) (d : Nat) (x : Word) : PredIs g (setPreg g m d x) m d x := by
  intro r
  unfold setPreg preg
  by_cases hd : d < 7
  · rw [if_pos hd]
    by_cases hr : r < 7
    · simp only [hr, if_true, mget_mset, and_true]
      split
      · next h => rw [h]
      · rfl
    · simp [hr]
  · rw [if_neg hd, if_neg (show ¬(r = d ∧ r < 7) by omega)]

theorem mget_setVregs (v : SMap 32) (r l n x j : Nat) (hl : l < 32) (i : Nat) (hi : i < 32) :
    mget (setVregs v r l n x) (32 * j + i)
      = if i = l ∧ r ≤ j ∧ j < r + n then BitVec.ofNat 32 (x / 2 ^ (32 * (j - r))) else mget v (32 * j + i) := by
  induction n generalizing v r x with
  | zero => rw [setVregs, if_neg (by omega)]
  | succ n ih =>
    rw [setVregs, ih, mget_mset]
    by_cases h1 : i = l ∧ r + 1 ≤ j ∧ j < r + 1 + n
    · rw [if_pos h1, if_pos (by omega), Nat.div_div_eq_div_mul, show 32 * (j - r) = 32 + 32 * (j - (r + 1)) by omega,
        Nat.pow_add]
    · rw [if_neg h1]
      by_cases h2 : 32 * j + i = 32 * r + l
      · have : j = r := by omega
        rw [if_pos h2, if_pos (by omega), this]; simp
      · rw [if_neg h2, if_neg (by omega)]

theorem mem_lanesOf (m : Word) (l : Nat) : l ∈ lanesOf m ↔ m.getLsbD l = true := by
  unfold lanesOf
  simp only [List.mem_filter, List.mem_range]
  constructor
  · exact fun h => h.2
  · intro h
    refine ⟨?_, h⟩
    rcases Nat.lt_or_ge l 32 with hl | hl
    · exact hl
    · rw [BitVec.getLsbD_of_ge m l hl] at h; exact absurd h (by decide)

theorem lanesOf_lt (m : Word) (l : Nat) (h : l ∈ lanesOf m) : l < 32 := by
  unfold lanesOf at h
  simp only [List.mem_filter, List.mem_range] at h
  exact h.1

theorem mget_foldLanes (ls : List Nat) (v : SMap 32) (r n : Nat) (f : Nat → Nat) (hls : ∀ l ∈ ls, l < 32)
    (j i : Nat) (hi : i < 32) :
    mget (ls.foldl (fun v l => setVregs v r l n (f l)) v) (32 * j + i)
      = if i ∈ ls ∧ r ≤ j ∧ j < r + n then BitVec.ofNat 32 (f i / 2 ^ (32 * (j - r))) else mget v (32 * j + i) := by
  induction ls generalizing v with
  | nil => simp
  | cons l ls ih =>
    have hl : l < 32 := hls l (by simp)
    rw [List.foldl_cons, ih _ (fun x hx => hls x (by simp [hx])), mget_setVregs v r l n _ j hl i hi]
    by_cases h1 : i ∈ ls ∧ r ≤ j ∧ j < r + n
    · rw [if_pos h1, if_pos ⟨by simp [h1.1], h1.2⟩]
    · rw [if_neg h1]
      by_cases h2 : i = l ∧ r ≤ j ∧ j < r + n
      · rw [if_pos h2, if_pos ⟨by simp [h2.1], h2.2⟩, h2.1]
      · rw [if_neg h2, if_neg]
        simp only [List.mem_cons]
        intro h
        rcases h with ⟨h | h, h'⟩
        · exact h2 ⟨h, h'⟩
        · exact h1 ⟨h, h'⟩

theorem setLanes_lanesAre (g : Group) (m : Word) (d n : Nat) (f : Nat → Nat) :
    LanesAre g (setLanes g m d n f) m d n f := by
  intro r l hl
  unfold setLanes vreg
  simp only []
  rw [mget_foldLanes (lanesOf m) g.v d n f (lanesOf_lt m) r l hl]
  simp only [mem_lanesOf]

@[simp] theorem slotOf_setSlot (g : Group) (side : Nat) (x : Slot) : slotOf (setSlot g side x) side = x := by
  unfold setSlot slotOf; split <;> simp_all

@[simp] theorem slotOf_setSlot_other (g : Group) (side : Nat) (x : Slot) :
    slotOf (setSlot g side x) (otherSide side) = slotOf g (otherSide side) := by
  unfold setSlot slotOf otherSide; split <;> simp

@[simp] theorem slotOf_setSreg (g : Group) (d : Nat) (x : DWord) (k : Nat) : slotOf (setSreg g d x) k = slotOf g k := by
  simp [slotOf]

@[simp] theorem slotOf_setPreg (g : Group) (m : Word) (d : Nat) (x : Word) (k : Nat) :
    slotOf (setPreg g m d x) k = slotOf g k := by simp [slotOf]

@[simp] theorem slotOf_setLanes (g : Group) (m : Word) (d n : Nat) (f : Nat → Nat) (k : Nat) :
    slotOf (setLanes g m d n f) k = slotOf g k := by simp [slotOf]

@[simp] theorem sreg_setSlot (g : Group) (side : Nat) (x : Slot) (r : Nat) : sreg (setSlot g side x) r = sreg g r := by
  simp [sreg]

@[simp] theorem preg_setSlot (g : Group) (side : Nat) (x : Slot) (r : Nat) : preg (setSlot g side x) r = preg g r := by
  simp [preg]

@[simp] theorem vreg_setSlot (g : Group) (side : Nat) (x : Slot) (r l : Nat) :
    vreg (setSlot g side x) r l = vreg g r l := by simp [vreg]

end Sys2Proof.Machine
end

