-- ==== Sys2Proof/Laws/Issue.lean ====
section
/-! SUPPORT. What the issue of a word does when its decode checks pass, and what the common ends of an instruction leave. -/

namespace Sys2Proof.Machine

theorem toNat_app {m n : Nat} (x : BitVec m) (y : BitVec n) : (x ++ y).toNat = x.toNat * 2 ^ n + y.toNat := by
  rw [BitVec.toNat_append, Nat.shiftLeft_eq, Nat.mul_comm]
  exact (Nat.two_pow_add_eq_or_of_lt y.isLt _).symm

theorem notOwed_owes (g : Group) (regs : List Nat) : owes g regs = false ↔ NotOwed g regs := by
  unfold owes NotOwed
  simp [List.any_eq_false]

/-- A word whose checks pass has its own effect (R47, R172). -/
theorem issueWord_next {w : Word} {fm : Form} {eff : Issue → Eff} {s : State} {gid side : Nat} {g : Group}
    (h : Issues s gid side g) (hd : decodeCheck fm (issueOf s gid side g w) = .pass)
    (hc : fm.conv = true → converged g = true) (ho : NotOwed g (touched (issueOf s gid side g w) fm)) :
    issueWord w fm eff s = .next (finish (issueOf s gid side g w) (eff (issueOf s gid side g w))) := by
  have hc' : (fm.conv && !converged g) = false := by
    cases hfc : fm.conv
    · rfl
    · rw [hc hfc]; rfl
  simp only [issueWord, h.issuer, h.group, h.ready, if_true, hd, hc', (notOwed_owes g _).2 ho, Bool.false_eq_true,
    if_false]

/-- When the decode checks pass (R47). -/
theorem decodeCheck_pass' {w : Word} {fm : Form} {s : State} {gid side : Nat} {g : Group} (op : Nat)
    (hop : w.toNat / 2 ^ 23 = op) (hcap : (capsOfOp op).all (capOn s (reqOf s g).part) = true)
    (hpriv : userLevel g = true → supOp op = false ∧ fm.priv (issueOf s gid side g w) = false)
    (hrsv : fm.rsv (issueOf s gid side g w) = false)
    (het : fm.accepts (issueOf s gid side g w).et = true)
    (hops : ∀ o ∈ fm.ops, operandOk g (issueOf s gid side g w).et true o = true)
    (hbad : fm.bad (issueOf s gid side g w) = false)
    (hlit : LitPending g side → fm.lit.takes = true)
    (hruns : fm.runs (issueOf s gid side g w) = false) :
    decodeCheck fm (issueOf s gid side g w) = .pass := by
  have hall : fm.ops.all (operandOk g (issueOf s gid side g w).et true) = true := by
    simpa [List.all_eq_true] using hops
  have hl : ((issueOf s gid side g w).lit.isSome && !fm.lit.takes) = false := by
    by_cases hp : (slotOf g side).lc = 0
    · simp [issueOf, hp]
    · simp [hlit hp]
  have hp : (userLevel g && (supOp op || fm.priv (issueOf s gid side g w))) = false := by
    cases hu : userLevel g
    · rfl
    · obtain ⟨h1, h2⟩ := hpriv hu; simp [h1, h2]
  have hw : (issueOf s gid side g w).word = w := rfl
  have hg : (issueOf s gid side g w).g = g := rfl
  have hs : (issueOf s gid side g w).s = s := rfl
  unfold decodeCheck
  simp only [hw, hg, hs, hop, hcap, hp, hrsv, hbad, hl, hruns, het, hall, Bool.not_true, Bool.false_eq_true, if_false]

/-- The decode checks of a form without privileges, reserved bits or runs of its own. -/
theorem decodeCheck_pass {w : Word} {ops : List Operand} {ets : Option (List ET)} {lit : LitUse} {conv : Bool}
    {s : State} {gid side : Nat} {g : Group} (op : Nat) (hop : w.toNat / 2 ^ 23 = op) (hcap : capsOfOp op = [])
    (hsup : supOp op = false)
    (het : (Form.mk0 ops ets lit conv).accepts (issueOf s gid side g w).et = true)
    (hops : ∀ o ∈ ops, operandOk g (issueOf s gid side g w).et true o = true)
    (hlit : LitPending g side → lit.takes = true) :
    decodeCheck (Form.mk0 ops ets lit conv) (issueOf s gid side g w) = .pass :=
  decodeCheck_pass' op hop (by rw [hcap]; rfl) (fun _ => ⟨hsup, rfl⟩) rfl het hops rfl hlit rfl

/-- An operand whose registers a `Ready` names. -/
def Operand.Named (o : Operand) (et : ET) (ps ss : List Nat) (vs : List (Nat × Nat)) : Prop :=
  match o.role with
  | .predicate => o.num ∈ ps
  | .scalar => o.num ∈ ss
  | .vector => (o.num, spanRegs et true o.span) ∈ vs

theorem Operand.named_ok {s : State} {gid side : Nat} {g : Group} {ps ss : List Nat} {vs : List (Nat × Nat)} {et : ET}
    (h : Ready s gid side g ps ss vs) {o : Operand} (ho : o.Named et ps ss vs) : operandOk g et true o = true := by
  unfold Operand.Named at ho
  unfold operandOk
  split at ho
  · next hr => simp [hr, h.preds _ ho]
  · next hr => simp [hr, h.scalars _ ho]
  · next hr =>
    have := h.vectors _ ho
    simp only [hr, HasVectors] at this ⊢
    simp [this.1, this.2]

/-- A word whose operands are there and whose own checks pass runs. -/
theorem ready_form {w : Word} {fm : Form} {eff : Issue → Eff} {s : State} {gid side : Nat} {g : Group} {ps ss : List Nat}
    {vs : List (Nat × Nat)} (op : Nat) (h : Ready s gid side g ps ss vs)
    (hop : w.toNat / 2 ^ 23 = op) (hcap : (capsOfOp op).all (capOn s (reqOf s g).part) = true)
    (hpriv : userLevel g = true → supOp op = false ∧ fm.priv (issueOf s gid side g w) = false)
    (hrsv : fm.rsv (issueOf s gid side g w) = false)
    (het : fm.accepts (issueOf s gid side g w).et = true)
    (hops : ∀ o ∈ fm.ops, o.Named (issueOf s gid side g w).et ps ss vs)
    (hbad : fm.bad (issueOf s gid side g w) = false)
    (hlit : LitPending g side → fm.lit.takes = true)
    (hruns : fm.runs (issueOf s gid side g w) = false)
    (htouch : ∀ r ∈ fm.touch (issueOf s gid side g w),
      r ∈ ss.map (· + 200) ++ vs.flatMap (fun v => (List.range v.2).map (· + v.1)))
    (hc : fm.conv = true → converged g = true) :
    issueWord w fm eff s = .next (finish (issueOf s gid side g w) (eff (issueOf s gid side g w))) := by
  refine issueWord_next h.issues ?_ hc ?_
  · exact decodeCheck_pass' op hop hcap hpriv hrsv het (fun o ho => Operand.named_ok h (hops o ho)) hbad hlit hruns
  · intro o ho hc r hr hm
    refine h.free o ho hc r hr ?_
    simp only [touched, List.mem_append, List.mem_flatMap] at hm
    rcases hm with hm | ⟨q, hq, hm⟩
    · exact htouch r hm
    have hn := hops q hq
    unfold Operand.Named at hn
    simp only [List.mem_append, List.mem_map, List.mem_flatMap, List.mem_range]
    split at hn
    · next hr => simp [hr] at hm
    · next hr =>
      simp only [hr, List.mem_cons, List.not_mem_nil, or_false] at hm
      exact Or.inl ⟨q.num, hn, by omega⟩
    · next hr =>
      simp only [hr, List.mem_map, List.mem_range] at hm
      exact Or.inr ⟨_, hn, hm⟩

/-- A word of a plain form whose operands are there runs. -/
theorem ready_next {w : Word} {ops : List Operand} {ets : Option (List ET)} {lit : LitUse} {conv : Bool}
    {eff : Issue → Eff} {s : State} {gid side : Nat} {g : Group} {ps ss : List Nat} {vs : List (Nat × Nat)} (op : Nat)
    (h : Ready s gid side g ps ss vs)
    (hop : w.toNat / 2 ^ 23 = op) (hcap : (capsOfOp op).all (capOn s (reqOf s g).part) = true) (hsup : supOp op = false)
    (het : (Form.mk0 ops ets lit conv).accepts (issueOf s gid side g w).et = true)
    (hops : ∀ o ∈ ops, o.Named (issueOf s gid side g w).et ps ss vs)
    (hlit : LitPending g side → lit.takes = true) (hc : conv = true → converged g = true) :
    issueWord w (Form.mk0 ops ets lit conv) eff s
      = .next (finish (issueOf s gid side g w) (eff (issueOf s gid side g w))) :=
  ready_form op h hop hcap (fun _ => ⟨hsup, rfl⟩) rfl het hops rfl hlit rfl (fun _ hr => absurd hr (by simp [Form.mk0])) hc

/-- The state after an instruction that only changes its group. -/
theorem finish_put {s : State} {gid side : Nat} {g : Group} {w : Word} (g1 : Group) :
    ∃ t g', finish (issueOf s gid side g w) ((issueOf s gid side g w).put g1) = t ∧ OnlyGroup s t gid g'
      ∧ g' = setSlot g1 side (advance (slotOf g1 side)) := by
  refine ⟨_, setSlot g1 side (advance (slotOf g1 side)), rfl, ⟨?_, ?_, ?_⟩, rfl⟩
  · rfl
  · simp [finish, Issue.put, issueOf, setGroup]
  · intro k hk
    simp [finish, Issue.put, issueOf, setGroup, hk]

theorem movedOn_of {g g1 : Group} {side : Nat} (h : ∀ k, slotOf g1 k = slotOf g k) :
    MovedOn g (setSlot g1 side (advance (slotOf g1 side))) side := by
  constructor
  · rw [slotOf_setSlot, h]; rfl
  · rw [slotOf_setSlot_other, h]

theorem sets_scalar {s : State} {gid side : Nat} {g : Group} {w : Word} {i : Instr} {d : Nat} {x : DWord}
    (h : exec i s = .next (finish (issueOf s gid side g w) ((issueOf s gid side g w).putS d x))) :
    SetsScalar s i gid side g d x := by
  obtain ⟨t, g', ht, ho, hg⟩ := finish_put (s := s) (gid := gid) (side := side) (g := g) (w := w) (setSreg g d x)
  refine ⟨t, g', by rw [h, ← ht]; rfl, ho, ?_, ?_, ?_⟩
  · rw [hg]; exact movedOn_of (by simp)
  · intro r; rw [hg, sreg_setSlot]; exact setSreg_scalarIs g d x r
  · rw [hg]; unfold setSlot setSreg; split <;> split <;> rfl

theorem sets_lanes {s : State} {gid side : Nat} {g : Group} {w : Word} {i : Instr} {d n : Nat} {f : Nat → Nat}
    (h : exec i s = .next (finish (issueOf s gid side g w) ((issueOf s gid side g w).putLanes d n f))) :
    SetsLanes s i gid side g (activeOf g side) d n f := by
  obtain ⟨t, g', ht, ho, hg⟩ := finish_put (s := s) (gid := gid) (side := side) (g := g) (w := w)
    (setLanes g (activeOf g side) d n f)
  refine ⟨t, g', by rw [h, ← ht]; rfl, ho, ?_, ?_, ?_⟩
  · rw [hg]; exact movedOn_of (by simp)
  · intro r l hl; rw [hg, vreg_setSlot]; exact setLanes_lanesAre g _ d n f r l hl
  · rw [hg]; unfold setSlot setLanes; split <;> rfl

theorem sets_pred {s : State} {gid side : Nat} {g : Group} {w : Word} {i : Instr} {m : Word} {d : Nat} {x : Word}
    (h : exec i s = .next (finish (issueOf s gid side g w) ((issueOf s gid side g w).put (setPreg g m d x)))) :
    SetsPred s i gid side g m d x := by
  obtain ⟨t, g', ht, ho, hg⟩ := finish_put (s := s) (gid := gid) (side := side) (g := g) (w := w) (setPreg g m d x)
  refine ⟨t, g', by rw [h, ← ht], ho, ?_, ?_, ?_⟩
  · rw [hg]; exact movedOn_of (by simp)
  · intro r; rw [hg, preg_setSlot]; exact setPreg_predIs g m d x r
  · rw [hg]; unfold setSlot setPreg; split <;> split <;> rfl

end Sys2Proof.Machine
end

