-- ==== Sys2Proof/Laws/Encode.lean ====
section
/-! SUPPORT. The opcode of each Harran word that the encoder gives (R45). -/

namespace Sys2Proof.Machine

theorem top_app {k n : Nat} (x : BitVec k) (y : BitVec n) (m : Nat) (h : n ≤ m) :
    (x ++ y).toNat / 2 ^ m = x.toNat / 2 ^ (m - n) := by
  rw [toNat_app, show m = n + (m - n) by omega, Nat.pow_add, ← Nat.div_div_eq_div_mul, Nat.mul_comm,
    Nat.mul_add_div (by exact Nat.two_pow_pos n), Nat.div_eq_of_lt y.isLt]
  simp

@[simp] theorem op_nop : (encode (.nop)).toNat / 2 ^ 23 = 0 :=
  rfl
@[simp] theorem op_bra (i : BitVec 23) : (encode (.bra i)).toNat / 2 ^ 23 = 1 :=
  (top_app _ _ 23 (by decide)).trans rfl
@[simp] theorem op_bc (s : BitVec 1) (p : BitVec 3) (i : BitVec 16) : (encode (.bc s p i)).toNat / 2 ^ 23 = 2 :=
  (top_app _ _ 23 (by decide)).trans ((top_app _ _ 7 (by decide)).trans ((top_app _ _ 4 (by decide)).trans rfl))
@[simp] theorem op_bany (s : BitVec 1) (p : BitVec 3) (i : BitVec 16) : (encode (.bany s p i)).toNat / 2 ^ 23 = 3 :=
  (top_app _ _ 23 (by decide)).trans ((top_app _ _ 7 (by decide)).trans ((top_app _ _ 4 (by decide)).trans rfl))
@[simp] theorem op_ball (s : BitVec 1) (p : BitVec 3) (i : BitVec 16) : (encode (.ball s p i)).toNat / 2 ^ 23 = 4 :=
  (top_app _ _ 23 (by decide)).trans ((top_app _ _ 7 (by decide)).trans ((top_app _ _ 4 (by decide)).trans rfl))
@[simp] theorem op_jset (i : BitVec 16) : (encode (.jset i)).toNat / 2 ^ 23 = 5 :=
  (top_app _ _ 23 (by decide)).trans rfl
@[simp] theorem op_join : (encode (.join)).toNat / 2 ^ 23 = 6 :=
  rfl
@[simp] theorem op_call (i : BitVec 23) : (encode (.call i)).toNat / 2 ^ 23 = 7 :=
  (top_app _ _ 23 (by decide)).trans rfl
@[simp] theorem op_ret : (encode (.ret)).toNat / 2 ^ 23 = 8 :=
  rfl
@[simp] theorem op_jr (a : BitVec 7) (i : BitVec 9) : (encode (.jr a i)).toNat / 2 ^ 23 = 9 :=
  (top_app _ _ 23 (by decide)).trans ((top_app _ _ 14 (by decide)).trans rfl)
@[simp] theorem op_exit : (encode (.exit)).toNat / 2 ^ 23 = 10 :=
  rfl
@[simp] theorem op_mode (t : BitVec 1) (r : BitVec 2) (e : BitVec 4) (g : BitVec 1) (p : BitVec 3) : (encode (.mode t r e g p)).toNat / 2 ^ 23 = 11 :=
  (top_app _ _ 23 (by decide)).trans ((top_app _ _ 20 (by decide)).trans ((top_app _ _ 19 (by decide)).trans ((top_app _ _ 15 (by decide)).trans ((top_app _ _ 13 (by decide)).trans rfl))))
@[simp] theorem op_lit (i : BitVec 23) : (encode (.lit i)).toNat / 2 ^ 23 = 12 :=
  (top_app _ _ 23 (by decide)).trans rfl
@[simp] theorem op_xacq (n : BitVec 2) : (encode (.xacq n)).toNat / 2 ^ 23 = 13 :=
  (top_app _ _ 23 (by decide)).trans rfl
@[simp] theorem op_xrel (n : BitVec 2) : (encode (.xrel n)).toNat / 2 ^ 23 = 14 :=
  (top_app _ _ 23 (by decide)).trans rfl
@[simp] theorem op_rgb (s : BitVec 1) (p : BitVec 3) (i : BitVec 16) : (encode (.rgb s p i)).toNat / 2 ^ 23 = 15 :=
  (top_app _ _ 23 (by decide)).trans ((top_app _ _ 7 (by decide)).trans ((top_app _ _ 4 (by decide)).trans rfl))
@[simp] theorem op_refill (d : BitVec 7) (i : BitVec 16) : (encode (.refill d i)).toNat / 2 ^ 23 = 16 :=
  (top_app _ _ 23 (by decide)).trans ((top_app _ _ 7 (by decide)).trans rfl)
@[simp] theorem op_itemp (d : BitVec 7) (a : BitVec 7) (i : BitVec 9) : (encode (.itemp d a i)).toNat / 2 ^ 23 = 17 :=
  (top_app _ _ 23 (by decide)).trans ((top_app _ _ 14 (by decide)).trans ((top_app _ _ 7 (by decide)).trans rfl))
@[simp] theorem op_yield : (encode (.yield)).toNat / 2 ^ 23 = 18 :=
  rfl
@[simp] theorem op_brk (i : BitVec 23) : (encode (.brk i)).toNat / 2 ^ 23 = 19 :=
  (top_app _ _ 23 (by decide)).trans rfl
@[simp] theorem op_sysc (i : BitVec 23) : (encode (.sysc i)).toNat / 2 ^ 23 = 20 :=
  (top_app _ _ 23 (by decide)).trans rfl
@[simp] theorem op_trapret (k : BitVec 1) : (encode (.trapret k)).toNat / 2 ^ 23 = 21 :=
  (top_app _ _ 23 (by decide)).trans rfl
@[simp] theorem op_sret (k : BitVec 1) : (encode (.sret k)).toNat / 2 ^ 23 = 22 :=
  (top_app _ _ 23 (by decide)).trans rfl
@[simp] theorem op_vsw (j : BitVec 6) : (encode (.vsw j)).toNat / 2 ^ 23 = 23 :=
  (top_app _ _ 23 (by decide)).trans rfl
@[simp] theorem op_claunch (d : BitVec 7) (a : BitVec 7) (i : BitVec 9) : (encode (.claunch d a i)).toNat / 2 ^ 23 = 24 :=
  (top_app _ _ 23 (by decide)).trans ((top_app _ _ 14 (by decide)).trans ((top_app _ _ 7 (by decide)).trans rfl))
@[simp] theorem op_cwait : (encode (.cwait)).toNat / 2 ^ 23 = 25 :=
  rfl
@[simp] theorem op_capr (d : BitVec 7) (a : BitVec 7) (i : BitVec 9) : (encode (.capr d a i)).toNat / 2 ^ 23 = 26 :=
  (top_app _ _ 23 (by decide)).trans ((top_app _ _ 14 (by decide)).trans ((top_app _ _ 7 (by decide)).trans rfl))
@[simp] theorem op_smov (d : BitVec 7) (b : BitVec 7) : (encode (.smov d b)).toNat / 2 ^ 23 = 64 :=
  (top_app _ _ 23 (by decide)).trans ((top_app _ _ 16 (by decide)).trans ((top_app _ _ 9 (by decide)).trans rfl))
@[simp] theorem op_sli (d : BitVec 7) (i : BitVec 16) : (encode (.sli d i)).toNat / 2 ^ 23 = 65 :=
  (top_app _ _ 23 (by decide)).trans ((top_app _ _ 7 (by decide)).trans rfl)
@[simp] theorem op_sadd (d : BitVec 7) (a : BitVec 7) (b : BitVec 7) : (encode (.sadd d a b)).toNat / 2 ^ 23 = 66 :=
  (top_app _ _ 23 (by decide)).trans ((top_app _ _ 16 (by decide)).trans ((top_app _ _ 9 (by decide)).trans rfl))
@[simp] theorem op_saddi (d : BitVec 7) (a : BitVec 7) (i : BitVec 9) : (encode (.saddi d a i)).toNat / 2 ^ 23 = 67 :=
  (top_app _ _ 23 (by decide)).trans ((top_app _ _ 14 (by decide)).trans ((top_app _ _ 7 (by decide)).trans rfl))
@[simp] theorem op_ssub (d : BitVec 7) (a : BitVec 7) (b : BitVec 7) : (encode (.ssub d a b)).toNat / 2 ^ 23 = 68 :=
  (top_app _ _ 23 (by decide)).trans ((top_app _ _ 16 (by decide)).trans ((top_app _ _ 9 (by decide)).trans rfl))
@[simp] theorem op_smul (d : BitVec 7) (a : BitVec 7) (b : BitVec 7) : (encode (.smul d a b)).toNat / 2 ^ 23 = 69 :=
  (top_app _ _ 23 (by decide)).trans ((top_app _ _ 16 (by decide)).trans ((top_app _ _ 9 (by decide)).trans rfl))
@[simp] theorem op_smulh (d : BitVec 7) (a : BitVec 7) (b : BitVec 7) : (encode (.smulh d a b)).toNat / 2 ^ 23 = 70 :=
  (top_app _ _ 23 (by decide)).trans ((top_app _ _ 16 (by decide)).trans ((top_app _ _ 9 (by decide)).trans rfl))
@[simp] theorem op_smulhu (d : BitVec 7) (a : BitVec 7) (b : BitVec 7) : (encode (.smulhu d a b)).toNat / 2 ^ 23 = 71 :=
  (top_app _ _ 23 (by decide)).trans ((top_app _ _ 16 (by decide)).trans ((top_app _ _ 9 (by decide)).trans rfl))
@[simp] theorem op_sdiv (d : BitVec 7) (a : BitVec 7) (b : BitVec 7) : (encode (.sdiv d a b)).toNat / 2 ^ 23 = 72 :=
  (top_app _ _ 23 (by decide)).trans ((top_app _ _ 16 (by decide)).trans ((top_app _ _ 9 (by decide)).trans rfl))
@[simp] theorem op_sdivu (d : BitVec 7) (a : BitVec 7) (b : BitVec 7) : (encode (.sdivu d a b)).toNat / 2 ^ 23 = 73 :=
  (top_app _ _ 23 (by decide)).trans ((top_app _ _ 16 (by decide)).trans ((top_app _ _ 9 (by decide)).trans rfl))
@[simp] theorem op_srem (d : BitVec 7) (a : BitVec 7) (b : BitVec 7) : (encode (.srem d a b)).toNat / 2 ^ 23 = 74 :=
  (top_app _ _ 23 (by decide)).trans ((top_app _ _ 16 (by decide)).trans ((top_app _ _ 9 (by decide)).trans rfl))
@[simp] theorem op_sremu (d : BitVec 7) (a : BitVec 7) (b : BitVec 7) : (encode (.sremu d a b)).toNat / 2 ^ 23 = 75 :=
  (top_app _ _ 23 (by decide)).trans ((top_app _ _ 16 (by decide)).trans ((top_app _ _ 9 (by decide)).trans rfl))
@[simp] theorem op_sand (d : BitVec 7) (a : BitVec 7) (b : BitVec 7) : (encode (.sand d a b)).toNat / 2 ^ 23 = 76 :=
  (top_app _ _ 23 (by decide)).trans ((top_app _ _ 16 (by decide)).trans ((top_app _ _ 9 (by decide)).trans rfl))
@[simp] theorem op_sor (d : BitVec 7) (a : BitVec 7) (b : BitVec 7) : (encode (.sor d a b)).toNat / 2 ^ 23 = 77 :=
  (top_app _ _ 23 (by decide)).trans ((top_app _ _ 16 (by decide)).trans ((top_app _ _ 9 (by decide)).trans rfl))
@[simp] theorem op_sxor (d : BitVec 7) (a : BitVec 7) (b : BitVec 7) : (encode (.sxor d a b)).toNat / 2 ^ 23 = 78 :=
  (top_app _ _ 23 (by decide)).trans ((top_app _ _ 16 (by decide)).trans ((top_app _ _ 9 (by decide)).trans rfl))
@[simp] theorem op_sshl (d : BitVec 7) (a : BitVec 7) (b : BitVec 7) : (encode (.sshl d a b)).toNat / 2 ^ 23 = 79 :=
  (top_app _ _ 23 (by decide)).trans ((top_app _ _ 16 (by decide)).trans ((top_app _ _ 9 (by decide)).trans rfl))
@[simp] theorem op_sshr (d : BitVec 7) (a : BitVec 7) (b : BitVec 7) : (encode (.sshr d a b)).toNat / 2 ^ 23 = 80 :=
  (top_app _ _ 23 (by decide)).trans ((top_app _ _ 16 (by decide)).trans ((top_app _ _ 9 (by decide)).trans rfl))
@[simp] theorem op_ssra (d : BitVec 7) (a : BitVec 7) (b : BitVec 7) : (encode (.ssra d a b)).toNat / 2 ^ 23 = 81 :=
  (top_app _ _ 23 (by decide)).trans ((top_app _ _ 16 (by decide)).trans ((top_app _ _ 9 (by decide)).trans rfl))
@[simp] theorem op_smin (d : BitVec 7) (a : BitVec 7) (b : BitVec 7) : (encode (.smin d a b)).toNat / 2 ^ 23 = 82 :=
  (top_app _ _ 23 (by decide)).trans ((top_app _ _ 16 (by decide)).trans ((top_app _ _ 9 (by decide)).trans rfl))
@[simp] theorem op_smax (d : BitVec 7) (a : BitVec 7) (b : BitVec 7) : (encode (.smax d a b)).toNat / 2 ^ 23 = 83 :=
  (top_app _ _ 23 (by decide)).trans ((top_app _ _ 16 (by decide)).trans ((top_app _ _ 9 (by decide)).trans rfl))
@[simp] theorem op_sminu (d : BitVec 7) (a : BitVec 7) (b : BitVec 7) : (encode (.sminu d a b)).toNat / 2 ^ 23 = 84 :=
  (top_app _ _ 23 (by decide)).trans ((top_app _ _ 16 (by decide)).trans ((top_app _ _ 9 (by decide)).trans rfl))
@[simp] theorem op_smaxu (d : BitVec 7) (a : BitVec 7) (b : BitVec 7) : (encode (.smaxu d a b)).toNat / 2 ^ 23 = 85 :=
  (top_app _ _ 23 (by decide)).trans ((top_app _ _ 16 (by decide)).trans ((top_app _ _ 9 (by decide)).trans rfl))
@[simp] theorem op_sclz (d : BitVec 7) (b : BitVec 7) : (encode (.sclz d b)).toNat / 2 ^ 23 = 86 :=
  (top_app _ _ 23 (by decide)).trans ((top_app _ _ 16 (by decide)).trans ((top_app _ _ 9 (by decide)).trans rfl))
@[simp] theorem op_spopc (d : BitVec 7) (b : BitVec 7) : (encode (.spopc d b)).toNat / 2 ^ 23 = 87 :=
  (top_app _ _ 23 (by decide)).trans ((top_app _ _ 16 (by decide)).trans ((top_app _ _ 9 (by decide)).trans rfl))
@[simp] theorem op_ssetlt (d : BitVec 7) (a : BitVec 7) (b : BitVec 7) : (encode (.ssetlt d a b)).toNat / 2 ^ 23 = 88 :=
  (top_app _ _ 23 (by decide)).trans ((top_app _ _ 16 (by decide)).trans ((top_app _ _ 9 (by decide)).trans rfl))
@[simp] theorem op_ssetltu (d : BitVec 7) (a : BitVec 7) (b : BitVec 7) : (encode (.ssetltu d a b)).toNat / 2 ^ 23 = 89 :=
  (top_app _ _ 23 (by decide)).trans ((top_app _ _ 16 (by decide)).trans ((top_app _ _ 9 (by decide)).trans rfl))
@[simp] theorem op_sseteq (d : BitVec 7) (a : BitVec 7) (b : BitVec 7) : (encode (.sseteq d a b)).toNat / 2 ^ 23 = 90 :=
  (top_app _ _ 23 (by decide)).trans ((top_app _ _ 16 (by decide)).trans ((top_app _ _ 9 (by decide)).trans rfl))
@[simp] theorem op_gets (d : BitVec 7) (i : BitVec 9) : (encode (.gets d i)).toNat / 2 ^ 23 = 91 :=
  (top_app _ _ 23 (by decide)).trans ((top_app _ _ 14 (by decide)).trans ((top_app _ _ 7 (by decide)).trans rfl))
@[simp] theorem op_puts (a : BitVec 7) (i : BitVec 9) : (encode (.puts a i)).toNat / 2 ^ 23 = 92 :=
  (top_app _ _ 23 (by decide)).trans ((top_app _ _ 14 (by decide)).trans rfl)
@[simp] theorem op_sbcast (d : BitVec 7) (b : BitVec 7) : (encode (.sbcast d b)).toNat / 2 ^ 23 = 93 :=
  (top_app _ _ 23 (by decide)).trans ((top_app _ _ 16 (by decide)).trans ((top_app _ _ 9 (by decide)).trans rfl))
@[simp] theorem op_slane (h : BitVec 2) (d : BitVec 7) (a : BitVec 7) (b : BitVec 7) : (encode (.slane h d a b)).toNat / 2 ^ 23 = 94 :=
  (top_app _ _ 23 (by decide)).trans ((top_app _ _ 16 (by decide)).trans ((top_app _ _ 9 (by decide)).trans ((top_app _ _ 2 (by decide)).trans rfl)))
@[simp] theorem op_vmov (h : BitVec 2) (d : BitVec 7) (b : BitVec 7) : (encode (.vmov h d b)).toNat / 2 ^ 23 = 128 :=
  (top_app _ _ 23 (by decide)).trans ((top_app _ _ 16 (by decide)).trans ((top_app _ _ 9 (by decide)).trans ((top_app _ _ 2 (by decide)).trans rfl)))
@[simp] theorem op_vadd (h : BitVec 2) (d : BitVec 7) (a : BitVec 7) (b : BitVec 7) : (encode (.vadd h d a b)).toNat / 2 ^ 23 = 129 :=
  (top_app _ _ 23 (by decide)).trans ((top_app _ _ 16 (by decide)).trans ((top_app _ _ 9 (by decide)).trans ((top_app _ _ 2 (by decide)).trans rfl)))
@[simp] theorem op_vsub (h : BitVec 2) (d : BitVec 7) (a : BitVec 7) (b : BitVec 7) : (encode (.vsub h d a b)).toNat / 2 ^ 23 = 130 :=
  (top_app _ _ 23 (by decide)).trans ((top_app _ _ 16 (by decide)).trans ((top_app _ _ 9 (by decide)).trans ((top_app _ _ 2 (by decide)).trans rfl)))
@[simp] theorem op_vmul (h : BitVec 2) (d : BitVec 7) (a : BitVec 7) (b : BitVec 7) : (encode (.vmul h d a b)).toNat / 2 ^ 23 = 131 :=
  (top_app _ _ 23 (by decide)).trans ((top_app _ _ 16 (by decide)).trans ((top_app _ _ 9 (by decide)).trans ((top_app _ _ 2 (by decide)).trans rfl)))
@[simp] theorem op_vmulh (h : BitVec 2) (d : BitVec 7) (a : BitVec 7) (b : BitVec 7) : (encode (.vmulh h d a b)).toNat / 2 ^ 23 = 132 :=
  (top_app _ _ 23 (by decide)).trans ((top_app _ _ 16 (by decide)).trans ((top_app _ _ 9 (by decide)).trans ((top_app _ _ 2 (by decide)).trans rfl)))
@[simp] theorem op_vmad (h : BitVec 2) (d : BitVec 7) (a : BitVec 7) (b : BitVec 7) : (encode (.vmad h d a b)).toNat / 2 ^ 23 = 133 :=
  (top_app _ _ 23 (by decide)).trans ((top_app _ _ 16 (by decide)).trans ((top_app _ _ 9 (by decide)).trans ((top_app _ _ 2 (by decide)).trans rfl)))
@[simp] theorem op_vmin (h : BitVec 2) (d : BitVec 7) (a : BitVec 7) (b : BitVec 7) : (encode (.vmin h d a b)).toNat / 2 ^ 23 = 134 :=
  (top_app _ _ 23 (by decide)).trans ((top_app _ _ 16 (by decide)).trans ((top_app _ _ 9 (by decide)).trans ((top_app _ _ 2 (by decide)).trans rfl)))
@[simp] theorem op_vmax (h : BitVec 2) (d : BitVec 7) (a : BitVec 7) (b : BitVec 7) : (encode (.vmax h d a b)).toNat / 2 ^ 23 = 135 :=
  (top_app _ _ 23 (by decide)).trans ((top_app _ _ 16 (by decide)).trans ((top_app _ _ 9 (by decide)).trans ((top_app _ _ 2 (by decide)).trans rfl)))
@[simp] theorem op_vabs (h : BitVec 2) (d : BitVec 7) (a : BitVec 7) : (encode (.vabs h d a)).toNat / 2 ^ 23 = 136 :=
  (top_app _ _ 23 (by decide)).trans ((top_app _ _ 16 (by decide)).trans ((top_app _ _ 9 (by decide)).trans ((top_app _ _ 2 (by decide)).trans rfl)))
@[simp] theorem op_vneg (h : BitVec 2) (d : BitVec 7) (a : BitVec 7) : (encode (.vneg h d a)).toNat / 2 ^ 23 = 137 :=
  (top_app _ _ 23 (by decide)).trans ((top_app _ _ 16 (by decide)).trans ((top_app _ _ 9 (by decide)).trans ((top_app _ _ 2 (by decide)).trans rfl)))
@[simp] theorem op_vand (h : BitVec 2) (d : BitVec 7) (a : BitVec 7) (b : BitVec 7) : (encode (.vand h d a b)).toNat / 2 ^ 23 = 138 :=
  (top_app _ _ 23 (by decide)).trans ((top_app _ _ 16 (by decide)).trans ((top_app _ _ 9 (by decide)).trans ((top_app _ _ 2 (by decide)).trans rfl)))
@[simp] theorem op_vor (h : BitVec 2) (d : BitVec 7) (a : BitVec 7) (b : BitVec 7) : (encode (.vor h d a b)).toNat / 2 ^ 23 = 139 :=
  (top_app _ _ 23 (by decide)).trans ((top_app _ _ 16 (by decide)).trans ((top_app _ _ 9 (by decide)).trans ((top_app _ _ 2 (by decide)).trans rfl)))
@[simp] theorem op_vxor (h : BitVec 2) (d : BitVec 7) (a : BitVec 7) (b : BitVec 7) : (encode (.vxor h d a b)).toNat / 2 ^ 23 = 140 :=
  (top_app _ _ 23 (by decide)).trans ((top_app _ _ 16 (by decide)).trans ((top_app _ _ 9 (by decide)).trans ((top_app _ _ 2 (by decide)).trans rfl)))
@[simp] theorem op_vnot (h : BitVec 2) (d : BitVec 7) (a : BitVec 7) : (encode (.vnot h d a)).toNat / 2 ^ 23 = 141 :=
  (top_app _ _ 23 (by decide)).trans ((top_app _ _ 16 (by decide)).trans ((top_app _ _ 9 (by decide)).trans ((top_app _ _ 2 (by decide)).trans rfl)))
@[simp] theorem op_vshl (h : BitVec 2) (d : BitVec 7) (a : BitVec 7) (b : BitVec 7) : (encode (.vshl h d a b)).toNat / 2 ^ 23 = 142 :=
  (top_app _ _ 23 (by decide)).trans ((top_app _ _ 16 (by decide)).trans ((top_app _ _ 9 (by decide)).trans ((top_app _ _ 2 (by decide)).trans rfl)))
@[simp] theorem op_vshr (h : BitVec 2) (d : BitVec 7) (a : BitVec 7) (b : BitVec 7) : (encode (.vshr h d a b)).toNat / 2 ^ 23 = 143 :=
  (top_app _ _ 23 (by decide)).trans ((top_app _ _ 16 (by decide)).trans ((top_app _ _ 9 (by decide)).trans ((top_app _ _ 2 (by decide)).trans rfl)))
@[simp] theorem op_vsra (h : BitVec 2) (d : BitVec 7) (a : BitVec 7) (b : BitVec 7) : (encode (.vsra h d a b)).toNat / 2 ^ 23 = 144 :=
  (top_app _ _ 23 (by decide)).trans ((top_app _ _ 16 (by decide)).trans ((top_app _ _ 9 (by decide)).trans ((top_app _ _ 2 (by decide)).trans rfl)))
@[simp] theorem op_vclz (h : BitVec 2) (d : BitVec 7) (a : BitVec 7) : (encode (.vclz h d a)).toNat / 2 ^ 23 = 145 :=
  (top_app _ _ 23 (by decide)).trans ((top_app _ _ 16 (by decide)).trans ((top_app _ _ 9 (by decide)).trans ((top_app _ _ 2 (by decide)).trans rfl)))
@[simp] theorem op_vpopc (h : BitVec 2) (d : BitVec 7) (a : BitVec 7) : (encode (.vpopc h d a)).toNat / 2 ^ 23 = 146 :=
  (top_app _ _ 23 (by decide)).trans ((top_app _ _ 16 (by decide)).trans ((top_app _ _ 9 (by decide)).trans ((top_app _ _ 2 (by decide)).trans rfl)))
@[simp] theorem op_vbfx (h : BitVec 2) (d : BitVec 7) (a : BitVec 7) (b : BitVec 7) : (encode (.vbfx h d a b)).toNat / 2 ^ 23 = 147 :=
  (top_app _ _ 23 (by decide)).trans ((top_app _ _ 16 (by decide)).trans ((top_app _ _ 9 (by decide)).trans ((top_app _ _ 2 (by decide)).trans rfl)))
@[simp] theorem op_vbfi (h : BitVec 2) (d : BitVec 7) (a : BitVec 7) (b : BitVec 7) : (encode (.vbfi h d a b)).toNat / 2 ^ 23 = 148 :=
  (top_app _ _ 23 (by decide)).trans ((top_app _ _ 16 (by decide)).trans ((top_app _ _ 9 (by decide)).trans ((top_app _ _ 2 (by decide)).trans rfl)))
@[simp] theorem op_vsel (h : BitVec 2) (d : BitVec 7) (a : BitVec 7) (b : BitVec 7) : (encode (.vsel h d a b)).toNat / 2 ^ 23 = 149 :=
  (top_app _ _ 23 (by decide)).trans ((top_app _ _ 16 (by decide)).trans ((top_app _ _ 9 (by decide)).trans ((top_app _ _ 2 (by decide)).trans rfl)))
@[simp] theorem op_vcmpeq (h : BitVec 2) (d : BitVec 7) (a : BitVec 7) (b : BitVec 7) : (encode (.vcmpeq h d a b)).toNat / 2 ^ 23 = 150 :=
  (top_app _ _ 23 (by decide)).trans ((top_app _ _ 16 (by decide)).trans ((top_app _ _ 9 (by decide)).trans ((top_app _ _ 2 (by decide)).trans rfl)))
@[simp] theorem op_vcmplt (h : BitVec 2) (d : BitVec 7) (a : BitVec 7) (b : BitVec 7) : (encode (.vcmplt h d a b)).toNat / 2 ^ 23 = 151 :=
  (top_app _ _ 23 (by decide)).trans ((top_app _ _ 16 (by decide)).trans ((top_app _ _ 9 (by decide)).trans ((top_app _ _ 2 (by decide)).trans rfl)))
@[simp] theorem op_vcmple (h : BitVec 2) (d : BitVec 7) (a : BitVec 7) (b : BitVec 7) : (encode (.vcmple h d a b)).toNat / 2 ^ 23 = 152 :=
  (top_app _ _ 23 (by decide)).trans ((top_app _ _ 16 (by decide)).trans ((top_app _ _ 9 (by decide)).trans ((top_app _ _ 2 (by decide)).trans rfl)))
@[simp] theorem op_vpand (d : BitVec 7) (a : BitVec 7) (b : BitVec 7) : (encode (.vpand d a b)).toNat / 2 ^ 23 = 153 :=
  (top_app _ _ 23 (by decide)).trans ((top_app _ _ 16 (by decide)).trans ((top_app _ _ 9 (by decide)).trans rfl))
@[simp] theorem op_vpor (d : BitVec 7) (a : BitVec 7) (b : BitVec 7) : (encode (.vpor d a b)).toNat / 2 ^ 23 = 154 :=
  (top_app _ _ 23 (by decide)).trans ((top_app _ _ 16 (by decide)).trans ((top_app _ _ 9 (by decide)).trans rfl))
@[simp] theorem op_vpxor (d : BitVec 7) (a : BitVec 7) (b : BitVec 7) : (encode (.vpxor d a b)).toNat / 2 ^ 23 = 155 :=
  (top_app _ _ 23 (by decide)).trans ((top_app _ _ 16 (by decide)).trans ((top_app _ _ 9 (by decide)).trans rfl))
@[simp] theorem op_vpnot (d : BitVec 7) (a : BitVec 7) : (encode (.vpnot d a)).toNat / 2 ^ 23 = 156 :=
  (top_app _ _ 23 (by decide)).trans ((top_app _ _ 16 (by decide)).trans ((top_app _ _ 9 (by decide)).trans rfl))
@[simp] theorem op_vshfl (h : BitVec 2) (d : BitVec 7) (a : BitVec 7) (b : BitVec 7) : (encode (.vshfl h d a b)).toNat / 2 ^ 23 = 157 :=
  (top_app _ _ 23 (by decide)).trans ((top_app _ _ 16 (by decide)).trans ((top_app _ _ 9 (by decide)).trans ((top_app _ _ 2 (by decide)).trans rfl)))
@[simp] theorem op_vradd (h : BitVec 2) (d : BitVec 7) (a : BitVec 7) : (encode (.vradd h d a)).toNat / 2 ^ 23 = 158 :=
  (top_app _ _ 23 (by decide)).trans ((top_app _ _ 16 (by decide)).trans ((top_app _ _ 9 (by decide)).trans ((top_app _ _ 2 (by decide)).trans rfl)))
@[simp] theorem op_vrmin (h : BitVec 2) (d : BitVec 7) (a : BitVec 7) : (encode (.vrmin h d a)).toNat / 2 ^ 23 = 159 :=
  (top_app _ _ 23 (by decide)).trans ((top_app _ _ 16 (by decide)).trans ((top_app _ _ 9 (by decide)).trans ((top_app _ _ 2 (by decide)).trans rfl)))
@[simp] theorem op_vrmax (h : BitVec 2) (d : BitVec 7) (a : BitVec 7) : (encode (.vrmax h d a)).toNat / 2 ^ 23 = 160 :=
  (top_app _ _ 23 (by decide)).trans ((top_app _ _ 16 (by decide)).trans ((top_app _ _ 9 (by decide)).trans ((top_app _ _ 2 (by decide)).trans rfl)))
@[simp] theorem op_vscan (h : BitVec 2) (d : BitVec 7) (a : BitVec 7) : (encode (.vscan h d a)).toNat / 2 ^ 23 = 161 :=
  (top_app _ _ 23 (by decide)).trans ((top_app _ _ 16 (by decide)).trans ((top_app _ _ 9 (by decide)).trans ((top_app _ _ 2 (by decide)).trans rfl)))
@[simp] theorem op_vlane (h : BitVec 2) (d : BitVec 7) (a : BitVec 7) (b : BitVec 7) : (encode (.vlane h d a b)).toNat / 2 ^ 23 = 162 :=
  (top_app _ _ 23 (by decide)).trans ((top_app _ _ 16 (by decide)).trans ((top_app _ _ 9 (by decide)).trans ((top_app _ _ 2 (by decide)).trans rfl)))
@[simp] theorem op_vaddi (d : BitVec 7) (a : BitVec 7) (i : BitVec 9) : (encode (.vaddi d a i)).toNat / 2 ^ 23 = 163 :=
  (top_app _ _ 23 (by decide)).trans ((top_app _ _ 14 (by decide)).trans ((top_app _ _ 7 (by decide)).trans rfl))
@[simp] theorem op_fadd (h : BitVec 2) (d : BitVec 7) (a : BitVec 7) (b : BitVec 7) : (encode (.fadd h d a b)).toNat / 2 ^ 23 = 192 :=
  (top_app _ _ 23 (by decide)).trans ((top_app _ _ 16 (by decide)).trans ((top_app _ _ 9 (by decide)).trans ((top_app _ _ 2 (by decide)).trans rfl)))
@[simp] theorem op_fsub (h : BitVec 2) (d : BitVec 7) (a : BitVec 7) (b : BitVec 7) : (encode (.fsub h d a b)).toNat / 2 ^ 23 = 193 :=
  (top_app _ _ 23 (by decide)).trans ((top_app _ _ 16 (by decide)).trans ((top_app _ _ 9 (by decide)).trans ((top_app _ _ 2 (by decide)).trans rfl)))
@[simp] theorem op_fmul (h : BitVec 2) (d : BitVec 7) (a : BitVec 7) (b : BitVec 7) : (encode (.fmul h d a b)).toNat / 2 ^ 23 = 194 :=
  (top_app _ _ 23 (by decide)).trans ((top_app _ _ 16 (by decide)).trans ((top_app _ _ 9 (by decide)).trans ((top_app _ _ 2 (by decide)).trans rfl)))
@[simp] theorem op_fma (h : BitVec 2) (d : BitVec 7) (a : BitVec 7) (b : BitVec 7) : (encode (.fma h d a b)).toNat / 2 ^ 23 = 195 :=
  (top_app _ _ 23 (by decide)).trans ((top_app _ _ 16 (by decide)).trans ((top_app _ _ 9 (by decide)).trans ((top_app _ _ 2 (by decide)).trans rfl)))
@[simp] theorem op_fms (h : BitVec 2) (d : BitVec 7) (a : BitVec 7) (b : BitVec 7) : (encode (.fms h d a b)).toNat / 2 ^ 23 = 196 :=
  (top_app _ _ 23 (by decide)).trans ((top_app _ _ 16 (by decide)).trans ((top_app _ _ 9 (by decide)).trans ((top_app _ _ 2 (by decide)).trans rfl)))
@[simp] theorem op_fnma (h : BitVec 2) (d : BitVec 7) (a : BitVec 7) (b : BitVec 7) : (encode (.fnma h d a b)).toNat / 2 ^ 23 = 197 :=
  (top_app _ _ 23 (by decide)).trans ((top_app _ _ 16 (by decide)).trans ((top_app _ _ 9 (by decide)).trans ((top_app _ _ 2 (by decide)).trans rfl)))
@[simp] theorem op_fmin (h : BitVec 2) (d : BitVec 7) (a : BitVec 7) (b : BitVec 7) : (encode (.fmin h d a b)).toNat / 2 ^ 23 = 198 :=
  (top_app _ _ 23 (by decide)).trans ((top_app _ _ 16 (by decide)).trans ((top_app _ _ 9 (by decide)).trans ((top_app _ _ 2 (by decide)).trans rfl)))
@[simp] theorem op_fmax (h : BitVec 2) (d : BitVec 7) (a : BitVec 7) (b : BitVec 7) : (encode (.fmax h d a b)).toNat / 2 ^ 23 = 199 :=
  (top_app _ _ 23 (by decide)).trans ((top_app _ _ 16 (by decide)).trans ((top_app _ _ 9 (by decide)).trans ((top_app _ _ 2 (by decide)).trans rfl)))
@[simp] theorem op_fabs (h : BitVec 2) (d : BitVec 7) (a : BitVec 7) : (encode (.fabs h d a)).toNat / 2 ^ 23 = 200 :=
  (top_app _ _ 23 (by decide)).trans ((top_app _ _ 16 (by decide)).trans ((top_app _ _ 9 (by decide)).trans ((top_app _ _ 2 (by decide)).trans rfl)))
@[simp] theorem op_fneg (h : BitVec 2) (d : BitVec 7) (a : BitVec 7) : (encode (.fneg h d a)).toNat / 2 ^ 23 = 201 :=
  (top_app _ _ 23 (by decide)).trans ((top_app _ _ 16 (by decide)).trans ((top_app _ _ 9 (by decide)).trans ((top_app _ _ 2 (by decide)).trans rfl)))
@[simp] theorem op_fcmpeq (h : BitVec 2) (d : BitVec 7) (a : BitVec 7) (b : BitVec 7) : (encode (.fcmpeq h d a b)).toNat / 2 ^ 23 = 202 :=
  (top_app _ _ 23 (by decide)).trans ((top_app _ _ 16 (by decide)).trans ((top_app _ _ 9 (by decide)).trans ((top_app _ _ 2 (by decide)).trans rfl)))
@[simp] theorem op_fcmplt (h : BitVec 2) (d : BitVec 7) (a : BitVec 7) (b : BitVec 7) : (encode (.fcmplt h d a b)).toNat / 2 ^ 23 = 203 :=
  (top_app _ _ 23 (by decide)).trans ((top_app _ _ 16 (by decide)).trans ((top_app _ _ 9 (by decide)).trans ((top_app _ _ 2 (by decide)).trans rfl)))
@[simp] theorem op_fcmple (h : BitVec 2) (d : BitVec 7) (a : BitVec 7) (b : BitVec 7) : (encode (.fcmple h d a b)).toNat / 2 ^ 23 = 204 :=
  (top_app _ _ 23 (by decide)).trans ((top_app _ _ 16 (by decide)).trans ((top_app _ _ 9 (by decide)).trans ((top_app _ _ 2 (by decide)).trans rfl)))
@[simp] theorem op_fcmpun (h : BitVec 2) (d : BitVec 7) (a : BitVec 7) (b : BitVec 7) : (encode (.fcmpun h d a b)).toNat / 2 ^ 23 = 205 :=
  (top_app _ _ 23 (by decide)).trans ((top_app _ _ 16 (by decide)).trans ((top_app _ _ 9 (by decide)).trans ((top_app _ _ 2 (by decide)).trans rfl)))
@[simp] theorem op_fdiv (h : BitVec 2) (d : BitVec 7) (a : BitVec 7) (b : BitVec 7) : (encode (.fdiv h d a b)).toNat / 2 ^ 23 = 206 :=
  (top_app _ _ 23 (by decide)).trans ((top_app _ _ 16 (by decide)).trans ((top_app _ _ 9 (by decide)).trans ((top_app _ _ 2 (by decide)).trans rfl)))
@[simp] theorem op_fsqrt (h : BitVec 2) (d : BitVec 7) (a : BitVec 7) : (encode (.fsqrt h d a)).toNat / 2 ^ 23 = 207 :=
  (top_app _ _ 23 (by decide)).trans ((top_app _ _ 16 (by decide)).trans ((top_app _ _ 9 (by decide)).trans ((top_app _ _ 2 (by decide)).trans rfl)))
@[simp] theorem op_frcp (h : BitVec 2) (d : BitVec 7) (a : BitVec 7) : (encode (.frcp h d a)).toNat / 2 ^ 23 = 208 :=
  (top_app _ _ 23 (by decide)).trans ((top_app _ _ 16 (by decide)).trans ((top_app _ _ 9 (by decide)).trans ((top_app _ _ 2 (by decide)).trans rfl)))
@[simp] theorem op_frsq (h : BitVec 2) (d : BitVec 7) (a : BitVec 7) : (encode (.frsq h d a)).toNat / 2 ^ 23 = 209 :=
  (top_app _ _ 23 (by decide)).trans ((top_app _ _ 16 (by decide)).trans ((top_app _ _ 9 (by decide)).trans ((top_app _ _ 2 (by decide)).trans rfl)))
@[simp] theorem op_fexp2 (h : BitVec 2) (d : BitVec 7) (a : BitVec 7) : (encode (.fexp2 h d a)).toNat / 2 ^ 23 = 210 :=
  (top_app _ _ 23 (by decide)).trans ((top_app _ _ 16 (by decide)).trans ((top_app _ _ 9 (by decide)).trans ((top_app _ _ 2 (by decide)).trans rfl)))
@[simp] theorem op_flog2 (h : BitVec 2) (d : BitVec 7) (a : BitVec 7) : (encode (.flog2 h d a)).toNat / 2 ^ 23 = 211 :=
  (top_app _ _ 23 (by decide)).trans ((top_app _ _ 16 (by decide)).trans ((top_app _ _ 9 (by decide)).trans ((top_app _ _ 2 (by decide)).trans rfl)))
@[simp] theorem op_fsin (h : BitVec 2) (d : BitVec 7) (a : BitVec 7) : (encode (.fsin h d a)).toNat / 2 ^ 23 = 212 :=
  (top_app _ _ 23 (by decide)).trans ((top_app _ _ 16 (by decide)).trans ((top_app _ _ 9 (by decide)).trans ((top_app _ _ 2 (by decide)).trans rfl)))
@[simp] theorem op_fcos (h : BitVec 2) (d : BitVec 7) (a : BitVec 7) : (encode (.fcos h d a)).toNat / 2 ^ 23 = 213 :=
  (top_app _ _ 23 (by decide)).trans ((top_app _ _ 16 (by decide)).trans ((top_app _ _ 9 (by decide)).trans ((top_app _ _ 2 (by decide)).trans rfl)))
@[simp] theorem op_ftanh (h : BitVec 2) (d : BitVec 7) (a : BitVec 7) : (encode (.ftanh h d a)).toNat / 2 ^ 23 = 214 :=
  (top_app _ _ 23 (by decide)).trans ((top_app _ _ 16 (by decide)).trans ((top_app _ _ 9 (by decide)).trans ((top_app _ _ 2 (by decide)).trans rfl)))
@[simp] theorem op_fclass (h : BitVec 2) (d : BitVec 7) (a : BitVec 7) : (encode (.fclass h d a)).toNat / 2 ^ 23 = 215 :=
  (top_app _ _ 23 (by decide)).trans ((top_app _ _ 16 (by decide)).trans ((top_app _ _ 9 (by decide)).trans ((top_app _ _ 2 (by decide)).trans rfl)))
@[simp] theorem op_frint (h : BitVec 2) (d : BitVec 7) (a : BitVec 7) : (encode (.frint h d a)).toNat / 2 ^ 23 = 216 :=
  (top_app _ _ 23 (by decide)).trans ((top_app _ _ 16 (by decide)).trans ((top_app _ _ 9 (by decide)).trans ((top_app _ _ 2 (by decide)).trans rfl)))
@[simp] theorem op_fradd (h : BitVec 2) (d : BitVec 7) (a : BitVec 7) : (encode (.fradd h d a)).toNat / 2 ^ 23 = 217 :=
  (top_app _ _ 23 (by decide)).trans ((top_app _ _ 16 (by decide)).trans ((top_app _ _ 9 (by decide)).trans ((top_app _ _ 2 (by decide)).trans rfl)))
@[simp] theorem op_fdota (h : BitVec 2) (d : BitVec 7) (a : BitVec 7) (b : BitVec 7) : (encode (.fdota h d a b)).toNat / 2 ^ 23 = 218 :=
  (top_app _ _ 23 (by decide)).trans ((top_app _ _ 16 (by decide)).trans ((top_app _ _ 9 (by decide)).trans ((top_app _ _ 2 (by decide)).trans rfl)))
@[simp] theorem op_aadd (h : BitVec 2) (d : BitVec 7) (a : BitVec 7) (b : BitVec 7) : (encode (.aadd h d a b)).toNat / 2 ^ 23 = 219 :=
  (top_app _ _ 23 (by decide)).trans ((top_app _ _ 16 (by decide)).trans ((top_app _ _ 9 (by decide)).trans ((top_app _ _ 2 (by decide)).trans rfl)))
@[simp] theorem op_areda (h : BitVec 2) (d : BitVec 7) (a : BitVec 7) : (encode (.areda h d a)).toNat / 2 ^ 23 = 220 :=
  (top_app _ _ 23 (by decide)).trans ((top_app _ _ 16 (by decide)).trans ((top_app _ _ 9 (by decide)).trans ((top_app _ _ 2 (by decide)).trans rfl)))
@[simp] theorem op_cvt (t : BitVec 4) (d : BitVec 7) (a : BitVec 7) : (encode (.cvt t d a)).toNat / 2 ^ 23 = 256 :=
  (top_app _ _ 23 (by decide)).trans ((top_app _ _ 16 (by decide)).trans ((top_app _ _ 9 (by decide)).trans rfl))
@[simp] theorem op_cvti (t : BitVec 4) (d : BitVec 7) (a : BitVec 7) : (encode (.cvti t d a)).toNat / 2 ^ 23 = 257 :=
  (top_app _ _ 23 (by decide)).trans ((top_app _ _ 16 (by decide)).trans ((top_app _ _ 9 (by decide)).trans rfl))
@[simp] theorem op_pack (h : BitVec 2) (d : BitVec 7) (a : BitVec 7) (b : BitVec 7) : (encode (.pack h d a b)).toNat / 2 ^ 23 = 258 :=
  (top_app _ _ 23 (by decide)).trans ((top_app _ _ 16 (by decide)).trans ((top_app _ _ 9 (by decide)).trans ((top_app _ _ 2 (by decide)).trans rfl)))
@[simp] theorem op_unpk (h : BitVec 2) (d : BitVec 7) (a : BitVec 7) (b : BitVec 7) : (encode (.unpk h d a b)).toNat / 2 ^ 23 = 259 :=
  (top_app _ _ 23 (by decide)).trans ((top_app _ _ 16 (by decide)).trans ((top_app _ _ 9 (by decide)).trans ((top_app _ _ 2 (by decide)).trans rfl)))
@[simp] theorem op_qnt (s : BitVec 3) (w : BitVec 1) (k : BitVec 5) (d : BitVec 7) (a : BitVec 7) : (encode (.qnt s w k d a)).toNat / 2 ^ 23 = 260 :=
  (top_app _ _ 23 (by decide)).trans ((top_app _ _ 16 (by decide)).trans ((top_app _ _ 9 (by decide)).trans ((top_app _ _ 4 (by decide)).trans ((top_app _ _ 3 (by decide)).trans rfl))))
@[simp] theorem op_dqnt (s : BitVec 3) (w : BitVec 1) (k : BitVec 5) (d : BitVec 7) (a : BitVec 7) : (encode (.dqnt s w k d a)).toNat / 2 ^ 23 = 261 :=
  (top_app _ _ 23 (by decide)).trans ((top_app _ _ 16 (by decide)).trans ((top_app _ _ 9 (by decide)).trans ((top_app _ _ 4 (by decide)).trans ((top_app _ _ 3 (by decide)).trans rfl))))
@[simp] theorem op_hadr (s : BitVec 3) (b : BitVec 5) (d : BitVec 7) (a : BitVec 7) : (encode (.hadr s b d a)).toNat / 2 ^ 23 = 262 :=
  (top_app _ _ 23 (by decide)).trans ((top_app _ _ 16 (by decide)).trans ((top_app _ _ 9 (by decide)).trans ((top_app _ _ 4 (by decide)).trans ((top_app _ _ 3 (by decide)).trans rfl))))
@[simp] theorem op_hadi (s : BitVec 3) (b : BitVec 5) (d : BitVec 7) (a : BitVec 7) : (encode (.hadi s b d a)).toNat / 2 ^ 23 = 263 :=
  (top_app _ _ 23 (by decide)).trans ((top_app _ _ 16 (by decide)).trans ((top_app _ _ 9 (by decide)).trans ((top_app _ _ 4 (by decide)).trans ((top_app _ _ 3 (by decide)).trans rfl))))
@[simp] theorem op_amax (h : BitVec 2) (d : BitVec 7) (a : BitVec 7) (b : BitVec 7) : (encode (.amax h d a b)).toNat / 2 ^ 23 = 264 :=
  (top_app _ _ 23 (by decide)).trans ((top_app _ _ 16 (by decide)).trans ((top_app _ _ 9 (by decide)).trans ((top_app _ _ 2 (by decide)).trans rfl)))
@[simp] theorem op_adrn (s : BitVec 3) (c : BitVec 1) (d : BitVec 7) (a : BitVec 7) : (encode (.adrn s c d a)).toNat / 2 ^ 23 = 265 :=
  (top_app _ _ 23 (by decide)).trans ((top_app _ _ 16 (by decide)).trans ((top_app _ _ 9 (by decide)).trans ((top_app _ _ 8 (by decide)).trans ((top_app _ _ 3 (by decide)).trans rfl))))
@[simp] theorem op_afrom (s : BitVec 3) (e : BitVec 1) (d : BitVec 7) (a : BitVec 7) : (encode (.afrom s e d a)).toNat / 2 ^ 23 = 266 :=
  (top_app _ _ 23 (by decide)).trans ((top_app _ _ 16 (by decide)).trans ((top_app _ _ 9 (by decide)).trans ((top_app _ _ 8 (by decide)).trans ((top_app _ _ 3 (by decide)).trans rfl))))
@[simp] theorem op_fslt (d : BitVec 7) (w : BitVec 3) (s : BitVec 3) : (encode (.fslt d w s)).toNat / 2 ^ 23 = 267 :=
  (top_app _ _ 23 (by decide)).trans ((top_app _ _ 20 (by decide)).trans ((top_app _ _ 17 (by decide)).trans ((top_app _ _ 7 (by decide)).trans rfl)))
@[simp] theorem op_vld8 (s : BitVec 4) (d : BitVec 7) (b : BitVec 5) (o : BitVec 7) : (encode (.vld8 s d b o)).toNat / 2 ^ 23 = 320 :=
  (top_app _ _ 23 (by decide)).trans ((top_app _ _ 16 (by decide)).trans ((top_app _ _ 11 (by decide)).trans ((top_app _ _ 4 (by decide)).trans rfl)))
@[simp] theorem op_vld16 (s : BitVec 4) (d : BitVec 7) (b : BitVec 5) (o : BitVec 7) : (encode (.vld16 s d b o)).toNat / 2 ^ 23 = 321 :=
  (top_app _ _ 23 (by decide)).trans ((top_app _ _ 16 (by decide)).trans ((top_app _ _ 11 (by decide)).trans ((top_app _ _ 4 (by decide)).trans rfl)))
@[simp] theorem op_vld32 (s : BitVec 4) (d : BitVec 7) (b : BitVec 5) (o : BitVec 7) : (encode (.vld32 s d b o)).toNat / 2 ^ 23 = 322 :=
  (top_app _ _ 23 (by decide)).trans ((top_app _ _ 16 (by decide)).trans ((top_app _ _ 11 (by decide)).trans ((top_app _ _ 4 (by decide)).trans rfl)))
@[simp] theorem op_vld64 (s : BitVec 4) (d : BitVec 7) (b : BitVec 5) (o : BitVec 7) : (encode (.vld64 s d b o)).toNat / 2 ^ 23 = 323 :=
  (top_app _ _ 23 (by decide)).trans ((top_app _ _ 16 (by decide)).trans ((top_app _ _ 11 (by decide)).trans ((top_app _ _ 4 (by decide)).trans rfl)))
@[simp] theorem op_vld128 (s : BitVec 4) (d : BitVec 7) (b : BitVec 5) (o : BitVec 7) : (encode (.vld128 s d b o)).toNat / 2 ^ 23 = 324 :=
  (top_app _ _ 23 (by decide)).trans ((top_app _ _ 16 (by decide)).trans ((top_app _ _ 11 (by decide)).trans ((top_app _ _ 4 (by decide)).trans rfl)))
@[simp] theorem op_vst8 (s : BitVec 4) (d : BitVec 7) (b : BitVec 5) (o : BitVec 7) : (encode (.vst8 s d b o)).toNat / 2 ^ 23 = 325 :=
  (top_app _ _ 23 (by decide)).trans ((top_app _ _ 16 (by decide)).trans ((top_app _ _ 11 (by decide)).trans ((top_app _ _ 4 (by decide)).trans rfl)))
@[simp] theorem op_vst16 (s : BitVec 4) (d : BitVec 7) (b : BitVec 5) (o : BitVec 7) : (encode (.vst16 s d b o)).toNat / 2 ^ 23 = 326 :=
  (top_app _ _ 23 (by decide)).trans ((top_app _ _ 16 (by decide)).trans ((top_app _ _ 11 (by decide)).trans ((top_app _ _ 4 (by decide)).trans rfl)))
@[simp] theorem op_vst32 (s : BitVec 4) (d : BitVec 7) (b : BitVec 5) (o : BitVec 7) : (encode (.vst32 s d b o)).toNat / 2 ^ 23 = 327 :=
  (top_app _ _ 23 (by decide)).trans ((top_app _ _ 16 (by decide)).trans ((top_app _ _ 11 (by decide)).trans ((top_app _ _ 4 (by decide)).trans rfl)))
@[simp] theorem op_vst64 (s : BitVec 4) (d : BitVec 7) (b : BitVec 5) (o : BitVec 7) : (encode (.vst64 s d b o)).toNat / 2 ^ 23 = 328 :=
  (top_app _ _ 23 (by decide)).trans ((top_app _ _ 16 (by decide)).trans ((top_app _ _ 11 (by decide)).trans ((top_app _ _ 4 (by decide)).trans rfl)))
@[simp] theorem op_vst128 (s : BitVec 4) (d : BitVec 7) (b : BitVec 5) (o : BitVec 7) : (encode (.vst128 s d b o)).toNat / 2 ^ 23 = 329 :=
  (top_app _ _ 23 (by decide)).trans ((top_app _ _ 16 (by decide)).trans ((top_app _ _ 11 (by decide)).trans ((top_app _ _ 4 (by decide)).trans rfl)))
@[simp] theorem op_sld (s : BitVec 4) (d : BitVec 7) (b : BitVec 5) : (encode (.sld s d b)).toNat / 2 ^ 23 = 330 :=
  (top_app _ _ 23 (by decide)).trans ((top_app _ _ 16 (by decide)).trans ((top_app _ _ 11 (by decide)).trans ((top_app _ _ 4 (by decide)).trans rfl)))
@[simp] theorem op_sst (s : BitVec 4) (d : BitVec 7) (b : BitVec 5) : (encode (.sst s d b)).toNat / 2 ^ 23 = 331 :=
  (top_app _ _ 23 (by decide)).trans ((top_app _ _ 16 (by decide)).trans ((top_app _ _ 11 (by decide)).trans ((top_app _ _ 4 (by decide)).trans rfl)))
@[simp] theorem op_vldc (s : BitVec 4) (d : BitVec 7) (b : BitVec 5) (o : BitVec 7) : (encode (.vldc s d b o)).toNat / 2 ^ 23 = 332 :=
  (top_app _ _ 23 (by decide)).trans ((top_app _ _ 16 (by decide)).trans ((top_app _ _ 11 (by decide)).trans ((top_app _ _ 4 (by decide)).trans rfl)))
@[simp] theorem op_pft (b : BitVec 5) (o : BitVec 7) : (encode (.pft b o)).toNat / 2 ^ 23 = 333 :=
  (top_app _ _ 23 (by decide)).trans ((top_app _ _ 16 (by decide)).trans rfl)
@[simp] theorem op_cpy (d : BitVec 7) (a : BitVec 7) (b : BitVec 7) : (encode (.cpy d a b)).toNat / 2 ^ 23 = 334 :=
  (top_app _ _ 23 (by decide)).trans ((top_app _ _ 16 (by decide)).trans ((top_app _ _ 9 (by decide)).trans rfl))
@[simp] theorem op_cpyb (d : BitVec 7) (a : BitVec 7) (b : BitVec 7) : (encode (.cpyb d a b)).toNat / 2 ^ 23 = 335 :=
  (top_app _ _ 23 (by decide)).trans ((top_app _ _ 16 (by decide)).trans ((top_app _ _ 9 (by decide)).trans rfl))
@[simp] theorem op_wait (n : BitVec 4) (p : BitVec 4) (c : BitVec 4) (s : BitVec 4) (l : BitVec 4) : (encode (.wait n p c s l)).toNat / 2 ^ 23 = 336 :=
  (top_app _ _ 23 (by decide)).trans ((top_app _ _ 19 (by decide)).trans ((top_app _ _ 15 (by decide)).trans ((top_app _ _ 11 (by decide)).trans ((top_app _ _ 7 (by decide)).trans rfl))))
@[simp] theorem op_fence (s : BitVec 4) : (encode (.fence s)).toNat / 2 ^ 23 = 337 :=
  (top_app _ _ 23 (by decide)).trans rfl
@[simp] theorem op_flush (b : BitVec 5) (o : BitVec 7) : (encode (.flush b o)).toNat / 2 ^ 23 = 338 :=
  (top_app _ _ 23 (by decide)).trans ((top_app _ _ 16 (by decide)).trans rfl)
@[simp] theorem op_invl (b : BitVec 5) (o : BitVec 7) : (encode (.invl b o)).toNat / 2 ^ 23 = 339 :=
  (top_app _ _ 23 (by decide)).trans ((top_app _ _ 16 (by decide)).trans rfl)
@[simp] theorem op_zero (b : BitVec 5) (o : BitVec 7) : (encode (.zero b o)).toNat / 2 ^ 23 = 340 :=
  (top_app _ _ 23 (by decide)).trans ((top_app _ _ 16 (by decide)).trans rfl)
@[simp] theorem op_sealst (d : BitVec 7) (b : BitVec 5) : (encode (.sealst d b)).toNat / 2 ^ 23 = 341 :=
  (top_app _ _ 23 (by decide)).trans ((top_app _ _ 16 (by decide)).trans ((top_app _ _ 11 (by decide)).trans rfl))
@[simp] theorem op_sealld (d : BitVec 7) (b : BitVec 5) : (encode (.sealld d b)).toNat / 2 ^ 23 = 342 :=
  (top_app _ _ 23 (by decide)).trans ((top_app _ _ 16 (by decide)).trans ((top_app _ _ 11 (by decide)).trans rfl))
@[simp] theorem op_sealfin (d : BitVec 7) (a : BitVec 7) : (encode (.sealfin d a)).toNat / 2 ^ 23 = 343 :=
  (top_app _ _ 23 (by decide)).trans ((top_app _ _ 16 (by decide)).trans ((top_app _ _ 9 (by decide)).trans rfl))
@[simp] theorem op_sealchk (d : BitVec 7) (a : BitVec 7) : (encode (.sealchk d a)).toNat / 2 ^ 23 = 344 :=
  (top_app _ _ 23 (by decide)).trans ((top_app _ _ 16 (by decide)).trans ((top_app _ _ 9 (by decide)).trans rfl))
@[simp] theorem op_amoadd (s : BitVec 4) (d : BitVec 7) (b : BitVec 5) (o : BitVec 7) : (encode (.amoadd s d b o)).toNat / 2 ^ 23 = 384 :=
  (top_app _ _ 23 (by decide)).trans ((top_app _ _ 16 (by decide)).trans ((top_app _ _ 11 (by decide)).trans ((top_app _ _ 4 (by decide)).trans rfl)))
@[simp] theorem op_amomin (s : BitVec 4) (d : BitVec 7) (b : BitVec 5) (o : BitVec 7) : (encode (.amomin s d b o)).toNat / 2 ^ 23 = 385 :=
  (top_app _ _ 23 (by decide)).trans ((top_app _ _ 16 (by decide)).trans ((top_app _ _ 11 (by decide)).trans ((top_app _ _ 4 (by decide)).trans rfl)))
@[simp] theorem op_amomax (s : BitVec 4) (d : BitVec 7) (b : BitVec 5) (o : BitVec 7) : (encode (.amomax s d b o)).toNat / 2 ^ 23 = 386 :=
  (top_app _ _ 23 (by decide)).trans ((top_app _ _ 16 (by decide)).trans ((top_app _ _ 11 (by decide)).trans ((top_app _ _ 4 (by decide)).trans rfl)))
@[simp] theorem op_amominu (s : BitVec 4) (d : BitVec 7) (b : BitVec 5) (o : BitVec 7) : (encode (.amominu s d b o)).toNat / 2 ^ 23 = 387 :=
  (top_app _ _ 23 (by decide)).trans ((top_app _ _ 16 (by decide)).trans ((top_app _ _ 11 (by decide)).trans ((top_app _ _ 4 (by decide)).trans rfl)))
@[simp] theorem op_amomaxu (s : BitVec 4) (d : BitVec 7) (b : BitVec 5) (o : BitVec 7) : (encode (.amomaxu s d b o)).toNat / 2 ^ 23 = 388 :=
  (top_app _ _ 23 (by decide)).trans ((top_app _ _ 16 (by decide)).trans ((top_app _ _ 11 (by decide)).trans ((top_app _ _ 4 (by decide)).trans rfl)))
@[simp] theorem op_amoand (s : BitVec 4) (d : BitVec 7) (b : BitVec 5) (o : BitVec 7) : (encode (.amoand s d b o)).toNat / 2 ^ 23 = 389 :=
  (top_app _ _ 23 (by decide)).trans ((top_app _ _ 16 (by decide)).trans ((top_app _ _ 11 (by decide)).trans ((top_app _ _ 4 (by decide)).trans rfl)))
@[simp] theorem op_amoor (s : BitVec 4) (d : BitVec 7) (b : BitVec 5) (o : BitVec 7) : (encode (.amoor s d b o)).toNat / 2 ^ 23 = 390 :=
  (top_app _ _ 23 (by decide)).trans ((top_app _ _ 16 (by decide)).trans ((top_app _ _ 11 (by decide)).trans ((top_app _ _ 4 (by decide)).trans rfl)))
@[simp] theorem op_amoxor (s : BitVec 4) (d : BitVec 7) (b : BitVec 5) (o : BitVec 7) : (encode (.amoxor s d b o)).toNat / 2 ^ 23 = 391 :=
  (top_app _ _ 23 (by decide)).trans ((top_app _ _ 16 (by decide)).trans ((top_app _ _ 11 (by decide)).trans ((top_app _ _ 4 (by decide)).trans rfl)))
@[simp] theorem op_amoswp (s : BitVec 4) (d : BitVec 7) (b : BitVec 5) (o : BitVec 7) : (encode (.amoswp s d b o)).toNat / 2 ^ 23 = 392 :=
  (top_app _ _ 23 (by decide)).trans ((top_app _ _ 16 (by decide)).trans ((top_app _ _ 11 (by decide)).trans ((top_app _ _ 4 (by decide)).trans rfl)))
@[simp] theorem op_amofadd (s : BitVec 4) (d : BitVec 7) (b : BitVec 5) (o : BitVec 7) : (encode (.amofadd s d b o)).toNat / 2 ^ 23 = 393 :=
  (top_app _ _ 23 (by decide)).trans ((top_app _ _ 16 (by decide)).trans ((top_app _ _ 11 (by decide)).trans ((top_app _ _ 4 (by decide)).trans rfl)))
@[simp] theorem op_amoaadd (s : BitVec 4) (d : BitVec 7) (b : BitVec 5) (o : BitVec 7) : (encode (.amoaadd s d b o)).toNat / 2 ^ 23 = 394 :=
  (top_app _ _ 23 (by decide)).trans ((top_app _ _ 16 (by decide)).trans ((top_app _ _ 11 (by decide)).trans ((top_app _ _ 4 (by decide)).trans rfl)))
@[simp] theorem op_cas (s : BitVec 4) (d : BitVec 7) (b : BitVec 5) (o : BitVec 7) : (encode (.cas s d b o)).toNat / 2 ^ 23 = 395 :=
  (top_app _ _ 23 (by decide)).trans ((top_app _ _ 16 (by decide)).trans ((top_app _ _ 11 (by decide)).trans ((top_app _ _ 4 (by decide)).trans rfl)))
@[simp] theorem op_redadd (s : BitVec 4) (d : BitVec 7) (b : BitVec 5) (o : BitVec 7) : (encode (.redadd s d b o)).toNat / 2 ^ 23 = 396 :=
  (top_app _ _ 23 (by decide)).trans ((top_app _ _ 16 (by decide)).trans ((top_app _ _ 11 (by decide)).trans ((top_app _ _ 4 (by decide)).trans rfl)))
@[simp] theorem op_redmin (s : BitVec 4) (d : BitVec 7) (b : BitVec 5) (o : BitVec 7) : (encode (.redmin s d b o)).toNat / 2 ^ 23 = 397 :=
  (top_app _ _ 23 (by decide)).trans ((top_app _ _ 16 (by decide)).trans ((top_app _ _ 11 (by decide)).trans ((top_app _ _ 4 (by decide)).trans rfl)))
@[simp] theorem op_redmax (s : BitVec 4) (d : BitVec 7) (b : BitVec 5) (o : BitVec 7) : (encode (.redmax s d b o)).toNat / 2 ^ 23 = 398 :=
  (top_app _ _ 23 (by decide)).trans ((top_app _ _ 16 (by decide)).trans ((top_app _ _ 11 (by decide)).trans ((top_app _ _ 4 (by decide)).trans rfl)))
@[simp] theorem op_redfadd (s : BitVec 4) (d : BitVec 7) (b : BitVec 5) (o : BitVec 7) : (encode (.redfadd s d b o)).toNat / 2 ^ 23 = 399 :=
  (top_app _ _ 23 (by decide)).trans ((top_app _ _ 16 (by decide)).trans ((top_app _ _ 11 (by decide)).trans ((top_app _ _ 4 (by decide)).trans rfl)))
@[simp] theorem op_redaadd (s : BitVec 4) (d : BitVec 7) (b : BitVec 5) (o : BitVec 7) : (encode (.redaadd s d b o)).toNat / 2 ^ 23 = 400 :=
  (top_app _ _ 23 (by decide)).trans ((top_app _ _ 16 (by decide)).trans ((top_app _ _ 11 (by decide)).trans ((top_app _ _ 4 (by decide)).trans rfl)))
@[simp] theorem op_watch (d : BitVec 7) (a : BitVec 7) (q : BitVec 3) (z : BitVec 1) (c : BitVec 3) : (encode (.watch d a q z c)).toNat / 2 ^ 23 = 401 :=
  (top_app _ _ 23 (by decide)).trans ((top_app _ _ 20 (by decide)).trans ((top_app _ _ 19 (by decide)).trans ((top_app _ _ 16 (by decide)).trans ((top_app _ _ 14 (by decide)).trans ((top_app _ _ 7 (by decide)).trans rfl)))))
@[simp] theorem op_bara (d : BitVec 7) (i : BitVec 4) : (encode (.bara d i)).toNat / 2 ^ 23 = 402 :=
  (top_app _ _ 23 (by decide)).trans ((top_app _ _ 19 (by decide)).trans ((top_app _ _ 7 (by decide)).trans rfl))
@[simp] theorem op_barw (i : BitVec 4) : (encode (.barw i)).toNat / 2 ^ 23 = 403 :=
  (top_app _ _ 23 (by decide)).trans rfl
@[simp] theorem op_bars (d : BitVec 7) (i : BitVec 4) : (encode (.bars d i)).toNat / 2 ^ 23 = 404 :=
  (top_app _ _ 23 (by decide)).trans ((top_app _ _ 19 (by decide)).trans ((top_app _ _ 7 (by decide)).trans rfl))
@[simp] theorem op_opbind (d : BitVec 7) (a : BitVec 7) (s : BitVec 3) : (encode (.opbind d a s)).toNat / 2 ^ 23 = 448 :=
  (top_app _ _ 23 (by decide)).trans ((top_app _ _ 20 (by decide)).trans ((top_app _ _ 14 (by decide)).trans ((top_app _ _ 7 (by decide)).trans rfl)))
@[simp] theorem op_opunb (d : BitVec 7) (a : BitVec 7) : (encode (.opunb d a)).toNat / 2 ^ 23 = 449 :=
  (top_app _ _ 23 (by decide)).trans ((top_app _ _ 14 (by decide)).trans ((top_app _ _ 7 (by decide)).trans rfl))
@[simp] theorem op_opgnt (d : BitVec 7) (a : BitVec 7) (w : BitVec 4) : (encode (.opgnt d a w)).toNat / 2 ^ 23 = 450 :=
  (top_app _ _ 23 (by decide)).trans ((top_app _ _ 19 (by decide)).trans ((top_app _ _ 14 (by decide)).trans ((top_app _ _ 7 (by decide)).trans rfl)))
@[simp] theorem op_oprev (d : BitVec 7) (a : BitVec 7) (w : BitVec 4) : (encode (.oprev d a w)).toNat / 2 ^ 23 = 451 :=
  (top_app _ _ 23 (by decide)).trans ((top_app _ _ 19 (by decide)).trans ((top_app _ _ 14 (by decide)).trans ((top_app _ _ 7 (by decide)).trans rfl)))
@[simp] theorem op_opstat (d : BitVec 7) (a : BitVec 7) (e : BitVec 2) (f : BitVec 1) (w : BitVec 4) : (encode (.opstat d a e f w)).toNat / 2 ^ 23 = 452 :=
  (top_app _ _ 23 (by decide)).trans ((top_app _ _ 19 (by decide)).trans ((top_app _ _ 18 (by decide)).trans ((top_app _ _ 16 (by decide)).trans ((top_app _ _ 14 (by decide)).trans ((top_app _ _ 7 (by decide)).trans rfl)))))
@[simp] theorem op_opdisc (d : BitVec 7) (a : BitVec 7) (l : BitVec 1) (w : BitVec 4) : (encode (.opdisc d a l w)).toNat / 2 ^ 23 = 453 :=
  (top_app _ _ 23 (by decide)).trans ((top_app _ _ 19 (by decide)).trans ((top_app _ _ 18 (by decide)).trans ((top_app _ _ 14 (by decide)).trans ((top_app _ _ 7 (by decide)).trans rfl))))
@[simp] theorem op_opgang (d : BitVec 7) (a : BitVec 7) (n : BitVec 4) (p : BitVec 1) (s : BitVec 3) : (encode (.opgang d a n p s)).toNat / 2 ^ 23 = 454 :=
  (top_app _ _ 23 (by decide)).trans ((top_app _ _ 20 (by decide)).trans ((top_app _ _ 19 (by decide)).trans ((top_app _ _ 15 (by decide)).trans ((top_app _ _ 14 (by decide)).trans ((top_app _ _ 7 (by decide)).trans rfl)))))
@[simp] theorem op_nbld (d : BitVec 7) (a : BitVec 7) : (encode (.nbld d a)).toNat / 2 ^ 23 = 455 :=
  (top_app _ _ 23 (by decide)).trans ((top_app _ _ 14 (by decide)).trans ((top_app _ _ 7 (by decide)).trans rfl))
@[simp] theorem op_nbexec (h : BitVec 2) (d : BitVec 7) (a : BitVec 7) (b : BitVec 7) : (encode (.nbexec h d a b)).toNat / 2 ^ 23 = 456 :=
  (top_app _ _ 23 (by decide)).trans ((top_app _ _ 16 (by decide)).trans ((top_app _ _ 9 (by decide)).trans ((top_app _ _ 2 (by decide)).trans rfl)))
@[simp] theorem op_nbcpy (h : BitVec 2) (d : BitVec 7) (a : BitVec 7) (b : BitVec 7) : (encode (.nbcpy h d a b)).toNat / 2 ^ 23 = 457 :=
  (top_app _ _ 23 (by decide)).trans ((top_app _ _ 16 (by decide)).trans ((top_app _ _ 9 (by decide)).trans ((top_app _ _ 2 (by decide)).trans rfl)))
@[simp] theorem op_nbz (h : BitVec 2) (d : BitVec 7) (a : BitVec 7) (b : BitVec 7) : (encode (.nbz h d a b)).toNat / 2 ^ 23 = 458 :=
  (top_app _ _ 23 (by decide)).trans ((top_app _ _ 16 (by decide)).trans ((top_app _ _ 9 (by decide)).trans ((top_app _ _ 2 (by decide)).trans rfl)))
@[simp] theorem op_nbstat (d : BitVec 7) (a : BitVec 7) (e : BitVec 2) : (encode (.nbstat d a e)).toNat / 2 ^ 23 = 459 :=
  (top_app _ _ 23 (by decide)).trans ((top_app _ _ 21 (by decide)).trans ((top_app _ _ 14 (by decide)).trans ((top_app _ _ 7 (by decide)).trans rfl)))
@[simp] theorem op_pmap (d : BitVec 7) (a : BitVec 7) (p : BitVec 1) (r : BitVec 1) (l : BitVec 2) : (encode (.pmap d a p r l)).toNat / 2 ^ 23 = 460 :=
  (top_app _ _ 23 (by decide)).trans ((top_app _ _ 21 (by decide)).trans ((top_app _ _ 20 (by decide)).trans ((top_app _ _ 19 (by decide)).trans ((top_app _ _ 14 (by decide)).trans ((top_app _ _ 7 (by decide)).trans rfl)))))
@[simp] theorem op_punmap (d : BitVec 7) (a : BitVec 7) (r : BitVec 1) (l : BitVec 2) : (encode (.punmap d a r l)).toNat / 2 ^ 23 = 461 :=
  (top_app _ _ 23 (by decide)).trans ((top_app _ _ 21 (by decide)).trans ((top_app _ _ 20 (by decide)).trans ((top_app _ _ 14 (by decide)).trans ((top_app _ _ 7 (by decide)).trans rfl))))
@[simp] theorem op_tlbi (a : BitVec 7) (l : BitVec 1) (z : BitVec 6) : (encode (.tlbi a l z)).toNat / 2 ^ 23 = 462 :=
  (top_app _ _ 23 (by decide)).trans ((top_app _ _ 17 (by decide)).trans ((top_app _ _ 16 (by decide)).trans ((top_app _ _ 14 (by decide)).trans rfl)))
@[simp] theorem op_poolget (d : BitVec 7) (a : BitVec 7) (r : BitVec 1) (p : BitVec 1) (e : BitVec 1) (z : BitVec 2) : (encode (.poolget d a r p e z)).toNat / 2 ^ 23 = 463 :=
  (top_app _ _ 23 (by decide)).trans ((top_app _ _ 21 (by decide)).trans ((top_app _ _ 20 (by decide)).trans ((top_app _ _ 19 (by decide)).trans ((top_app _ _ 18 (by decide)).trans ((top_app _ _ 14 (by decide)).trans ((top_app _ _ 7 (by decide)).trans rfl))))))

end Sys2Proof.Machine
end

