-- ==== Sys2Proof/Laws/Scalar.lean ====
section
/-! SUPPORT. The two shapes of a plain instruction: one scalar register written, or active lanes of vector registers
written; and the values of class 1 in the terms of R96. -/

namespace Sys2Proof.Machine

@[simp] theorem issue_sb (s : State) (gid side : Nat) (g : Group) (w : Word) (b : Nat) :
    (issueOf s gid side g w).sb b = scalarB g side b := by
  unfold Issue.sb scalarB issueOf; simp only []; split <;> rfl

theorem scalarBin_sets {s : State} {gid side : Nat} {g : Group} {d a b : BitVec 7} {i : Instr} {w : Word} (op : Nat)
    {f : DWord → DWord → DWord} {v : DWord}
    (h : Ready s gid side g [] [d.toNat, a.toNat, b.toNat] []) (hc : converged g = true) (hl : LitPending g side → b = 0)
    (he : exec i s = scalarBin w d.toNat a.toNat b.toNat f s)
    (hop : w.toNat / 2 ^ 23 = op) (hcap : capsOfOp op = []) (hsup : supOp op = false)
    (hv : f (sreg g a.toNat) (scalarB g side b.toNat) = v) :
    SetsScalar s i gid side g d.toNat v := by
  subst hv
  apply sets_scalar (w := w)
  rw [he, scalarBin, ready_next op h hop (by rw [hcap]; rfl) hsup rfl]
  · rw [issue_sb]; rfl
  · intro o ho
    simp only [List.mem_cons, List.not_mem_nil, or_false] at ho
    rcases ho with rfl | rfl | rfl <;> simp [Operand.Named, opS]
  · intro hp
    have := hl hp
    simp [LitUse.takes, this]
  · exact fun _ => hc

theorem v_sshr (x : DWord) (k : Nat) : x >>> k = BitVec.ofNat 64 (x.toNat / 2 ^ k) := by
  apply BitVec.eq_of_toNat_eq
  rw [BitVec.toNat_ofNat, BitVec.toNat_ushiftRight, Nat.shiftRight_eq_div_pow, Nat.mod_eq_of_lt]
  exact Nat.lt_of_le_of_lt (Nat.div_le_self _ _) x.isLt
theorem v_sshl (x : DWord) (k : Nat) : x <<< k = BitVec.ofNat 64 (x.toNat * 2 ^ k) := by
  apply BitVec.eq_of_toNat_eq
  rw [BitVec.toNat_ofNat, BitVec.toNat_shiftLeft, Nat.shiftLeft_eq]
theorem v_ssra (x : DWord) (k : Nat) : x.sshiftRight k = BitVec.ofInt 64 (x.toInt / 2 ^ k) := by
    rw [BitVec.sshiftRight, Int.shiftRight_eq_div_pow]; norm_cast
theorem leadZeros_eq (x n : Nat) (h : x < 2 ^ n) : leadZeros x n = if x = 0 then n else n - 1 - Nat.log2 x := by
  induction n with
  | zero => simp at h; simp [leadZeros, h]
  | succ n ih =>
    rw [leadZeros]
    by_cases ht : x.testBit n
    · have hx : x ≠ 0 := by intro h0; simp [h0] at ht
      have h1 : 2 ^ n ≤ x := Nat.ge_two_pow_of_testBit ht
      have : Nat.log2 x = n := by
        apply Nat.le_antisymm
        · exact Nat.lt_succ_iff.1 ((Nat.log2_lt hx).2 h)
        · exact (Nat.le_log2 hx).2 h1
      simp [ht, hx, this]
    · have h1 : x < 2 ^ n := by
        rcases Nat.lt_or_ge x (2 ^ n) with hc | hc
        · exact hc
        · exact absurd (Nat.testBit_of_two_pow_le_and_two_pow_add_one_gt hc h) ht
      rw [if_neg ht, ih h1]
      by_cases hx : x = 0
      · simp [hx]; omega
      · have : Nat.log2 x < n := (Nat.log2_lt hx).2 h1
        simp [hx]; omega

theorem popCount_eq (x : DWord) (n : Nat) : popCount x.toNat n = ((List.range n).filter (fun k => x.getLsbD k)).length := by
  induction n with
  | zero => rfl
  | succ n ih =>
    rw [popCount, ih, List.range_succ, List.filter_append, List.length_append]
    simp only [List.filter_cons, List.filter_nil, BitVec.testBit_toNat]
    split <;> simp [Nat.add_comm]

theorem one_sets {s : State} {gid side : Nat} {g : Group} {ps ss vs} {i : Instr} {w : Word} {ops ets lit conv eff} (op : Nat)
    {d : Nat} {v : DWord} (h : Ready s gid side g ps ss vs)
    (he : exec i s = issueWord w (Form.mk0 ops ets lit conv) eff s)
    (hop : w.toNat / 2 ^ 23 = op) (hcap : capsOfOp op = []) (hsup : supOp op = false)
    (het : (Form.mk0 ops ets lit conv).accepts (issueOf s gid side g w).et = true)
    (hops : ∀ o ∈ ops, o.Named (issueOf s gid side g w).et ps ss vs)
    (hlit : LitPending g side → lit.takes = true) (hc : conv = true → converged g = true)
    (hv : eff (issueOf s gid side g w) = (issueOf s gid side g w).putS d v) :
    SetsScalar s i gid side g d v := by
  apply sets_scalar (w := w)
  rw [he, ready_next op h hop (by rw [hcap]; rfl) hsup het hops hlit hc, hv]

theorem one_lanes {s : State} {gid side : Nat} {g : Group} {ps ss vs} {i : Instr} {w : Word} {ops ets lit conv eff} (op : Nat)
    {d n : Nat} {f : Nat → Nat} (h : Ready s gid side g ps ss vs)
    (he : exec i s = issueWord w (Form.mk0 ops ets lit conv) eff s)
    (hop : w.toNat / 2 ^ 23 = op) (hcap : capsOfOp op = []) (hsup : supOp op = false)
    (het : (Form.mk0 ops ets lit conv).accepts (issueOf s gid side g w).et = true)
    (hops : ∀ o ∈ ops, o.Named (issueOf s gid side g w).et ps ss vs)
    (hlit : LitPending g side → lit.takes = true) (hc : conv = true → converged g = true)
    (hv : eff (issueOf s gid side g w) = (issueOf s gid side g w).putLanes d n f) :
    SetsLanes s i gid side g (activeOf g side) d n f := by
  apply sets_lanes (w := w)
  rw [he, ready_next op h hop (by rw [hcap]; rfl) hsup het hops hlit hc, hv]

end Sys2Proof.Machine
end

