-- ==== Sys2Proof/Laws/Vector.lean ====
section
/-! SUPPORT. The shapes of the vector instructions: elements of packed registers, and the forms whose operand b a
literal replaces. -/

namespace Sys2Proof.Machine

/-! ## Elements -/

theorem packElems_lt (w : Nat) (f : Nat → Nat) (n : Nat) : packElems w f n < 2 ^ (w * n) := by
  induction n with
  | zero => simp [packElems]
  | succ n ih =>
    have hp : 0 < 2 ^ w := Nat.two_pow_pos w
    have h1 : f n % 2 ^ w < 2 ^ w := Nat.mod_lt _ hp
    have h2 : f n % 2 ^ w * 2 ^ (w * n) ≤ (2 ^ w - 1) * 2 ^ (w * n) := Nat.mul_le_mul_right _ (by omega)
    rw [packElems, Nat.mul_succ, Nat.pow_add, Nat.mul_comm (2 ^ (w * n))]
    rw [Nat.sub_mul] at h2
    have h3 : 2 ^ (w * n) ≤ 2 ^ w * 2 ^ (w * n) := Nat.le_mul_of_pos_left _ hp
    omega

/-- An element of a packed register is the one that was packed. -/
@[simp] theorem elemU_packElems (w k n : Nat) (f : Nat → Nat) (hk : k < n) : elemU w k (packElems w f n) = f k % 2 ^ w := by
  induction n with
  | zero => omega
  | succ n ih =>
    unfold elemU at ih ⊢
    rw [packElems]
    by_cases h : k = n
    · subst h
      rw [Nat.add_mul_div_right _ _ (Nat.two_pow_pos _), Nat.div_eq_of_lt (packElems_lt w f k), Nat.zero_add, Nat.mod_mod]
    · have hkn : k < n := by omega
      have hs : w * n = w * k + w * (n - k) := by rw [← Nat.mul_add]; congr 1; omega
      have hp : 2 ^ (w * (n - k)) = 2 ^ w * 2 ^ (w * (n - k - 1)) := by
        rw [← Nat.pow_add]
        congr 1
        obtain ⟨m, hm⟩ : ∃ m, n - k = m + 1 := ⟨n - k - 1, by omega⟩
        rw [hm, Nat.mul_succ, Nat.add_sub_cancel, Nat.add_comm]
      rw [hs, Nat.pow_add, Nat.mul_comm (2 ^ (w * k)), ← Nat.mul_assoc, Nat.add_mul_div_right _ _ (Nat.two_pow_pos _), hp,
        ← Nat.mul_assoc, Nat.mul_right_comm, Nat.add_mul_mod_self_right]
      exact ih hkn

theorem signedOf_mod (w x : Nat) : signedOf w x % 2 ^ w = ((x % 2 ^ w : Nat) : Int) := by
  unfold signedOf
  have hp : 0 < 2 ^ w := Nat.two_pow_pos w
  have hc : ((2 : Int) ^ w) = ((2 ^ w : Nat) : Int) := by norm_cast
  have h1 : x % 2 ^ w < 2 ^ w := Nat.mod_lt _ hp
  rw [hc]
  generalize x % 2 ^ w = y at *
  generalize 2 ^ w = p at *
  simp only [Int.ofNat_eq_natCast]
  split
  · exact Int.emod_eq_of_lt (by omega) (by omega)
  · rw [Int.sub_emod_right]; exact Int.emod_eq_of_lt (by omega) (by omega)

theorem clampI_eq (lo hi x : Int) (h : lo ≤ hi) : clampI lo hi x = max lo (min hi x) := by
  unfold clampI; split
  · omega
  · split <;> omega

theorem intMin_le_intMax (et : ET) : intMin (etSigned et) (etBits et) ≤ intMax (etSigned et) (etBits et) := by
  cases et <;> decide

theorem fitInt_eq (g : Group) (side : Nat) (et : ET) (x : Int) :
    fitInt (etSigned et) (etBits et) (mrSAT (slotOf g side).mr) x = (satTo g side et x % 2 ^ etBits et).toNat := by
  unfold fitInt satTo wrapTo
  rw [clampI_eq _ _ _ (intMin_le_intMax et)]
  norm_cast

theorem wrapTo_eq (w : Nat) (x : Int) : wrapTo w x = (x % 2 ^ w).toNat := by
  unfold wrapTo; norm_cast

theorem wrapTo_lt (w : Nat) (x : Int) : wrapTo w x < 2 ^ w := by
  unfold wrapTo
  have hp : 0 < 2 ^ w := Nat.two_pow_pos w
  generalize 2 ^ w = p at *
  simp only [Int.ofNat_eq_natCast]
  have := Int.emod_lt_of_pos x (show (0 : Int) < (p : Int) by omega)
  have := Int.emod_nonneg x (show (p : Int) ≠ 0 by omega)
  omega

/-! ## Shapes -/

theorem issueOf_et {s : State} {gid side : Nat} {g : Group} {w : Word} {et : ET} (h : typeOf g side = some et) :
    (issueOf s gid side g w).et = et := by
  unfold issueOf typeOf at *; simp only []; rw [h]; rfl

theorem issueOf_n {s : State} {gid side : Nat} {g : Group} {w : Word} {et : ET} (h : typeOf g side = some et) :
    (issueOf s gid side g w).n = etRegs et := by
  unfold Issue.n; rw [issueOf_et h]

@[simp] theorem issueOf_vb (s : State) (gid side : Nat) (g : Group) (w : Word) (b n l : Nat) :
    (issueOf s gid side g w).vb b n l = vectorB g side b n l := by
  unfold Issue.vb vectorB issueOf
  simp only []
  by_cases h : (slotOf g side).lc = 0
  · rw [if_pos h, if_pos h]
  · rw [if_neg h, if_neg h]

@[simp] theorem issueOf_sat (s : State) (gid side : Nat) (g : Group) (w : Word) :
    (issueOf s gid side g w).sat = mrSAT (slotOf g side).mr := rfl

@[simp] theorem issueOf_g (s : State) (gid side : Nat) (g : Group) (w : Word) : (issueOf s gid side g w).g = g := rfl

@[simp] theorem issueOf_s (s : State) (gid side : Nat) (g : Group) (w : Word) : (issueOf s gid side g w).s = s := rfl

@[simp] theorem issueOf_gid (s : State) (gid side : Nat) (g : Group) (w : Word) : (issueOf s gid side g w).gid = gid := rfl

@[simp] theorem issueOf_side (s : State) (gid side : Nat) (g : Group) (w : Word) : (issueOf s gid side g w).side = side := rfl

@[simp] theorem issueOf_sl (s : State) (gid side : Nat) (g : Group) (w : Word) :
    (issueOf s gid side g w).sl = slotOf g side := rfl

@[simp] theorem issueOf_act (s : State) (gid side : Nat) (g : Group) (w : Word) :
    (issueOf s gid side g w).act = activeOf g side := rfl

theorem one_form_lanes {s : State} {gid side : Nat} {g : Group} {ps ss vs} {i : Instr} {w : Word} {fm eff} (op : Nat)
    {d n : Nat} {f : Nat → Nat} (m : Word) (h : Ready s gid side g ps ss vs)
    (he : exec i s = issueWord w fm eff s)
    (hop : w.toNat / 2 ^ 23 = op) (hcap : capsOfOp op = []) (hsup : supOp op = false)
    (hpriv : fm.priv (issueOf s gid side g w) = false)
    (hrsv : fm.rsv (issueOf s gid side g w) = false)
    (het : fm.accepts (issueOf s gid side g w).et = true)
    (hops : ∀ o ∈ fm.ops, o.Named (issueOf s gid side g w).et ps ss vs)
    (hbad : fm.bad (issueOf s gid side g w) = false)
    (hlit : LitPending g side → fm.lit.takes = true)
    (hruns : fm.runs (issueOf s gid side g w) = false)
    (ht : fm.touch (issueOf s gid side g w) = []) (hc : fm.conv = true → converged g = true)
    (hv : eff (issueOf s gid side g w) = (issueOf s gid side g w).put (setLanes g m d n f)) :
    SetsLanes s i gid side g m d n f := by
  obtain ⟨t, g', ht', ho, hg⟩ := finish_put (s := s) (gid := gid) (side := side) (g := g) (w := w)
    (setLanes g m d n f)
  refine ⟨t, g', ?_, ho, ?_, ?_, ?_⟩
  · rw [he, ready_form op h hop (by rw [hcap]; rfl) (fun _ => ⟨hsup, hpriv⟩) hrsv het hops hbad hlit hruns (by rw [ht]; intro r hr; exact absurd hr (by simp)) hc, hv, ht']
  · rw [hg]; exact movedOn_of (by simp)
  · intro r l hl; rw [hg, vreg_setSlot]; exact setLanes_lanesAre g _ d n f r l hl
  · rw [hg]; unfold setSlot setLanes; split <;> rfl

theorem vb_lanes {s : State} {gid side : Nat} {g : Group} {vs ps ss} {i : Instr} {w : Word} {ops ets eff} {b : BitVec 7} {et : ET}
    {d n : Nat} {f : Nat → Nat} (m : Word) (op : Nat) (hty : typeOf g side = some et) (h : Ready s gid side g ps ss vs)
    (he : exec i s = issueWord w (formVb ops ets b) eff s)
    (hop : w.toNat / 2 ^ 23 = op) (hcap : capsOfOp op = []) (hsup : supOp op = false)
    (het : ets.contains et = true)
    (hops : ∀ o ∈ ops, o.Named et ps ss vs)
    (hl : LitPending g side → b = 0 ∧ (ets.contains .a96 = true → et ≠ .a96))
    (hv : eff (issueOf s gid side g w) = (issueOf s gid side g w).put (setLanes g m d n f)) :
    SetsLanes s i gid side g m d n f := by
  refine one_form_lanes op m h he hop hcap hsup rfl rfl ?_ ?_ ?_ ?_ rfl rfl (by simp [formVb, Form.mk0]) hv
  · rw [issueOf_et hty]; exact het
  · rw [issueOf_et hty]; exact hops
  · simp only [formVb, issueOf_et hty]
    by_cases hp : (slotOf g side).lc = 0
    · simp [issueOf, hp]
    · by_cases h96 : ets.contains .a96 = true
      · have := (hl hp).2 h96; simp [this]
      · simp only [Bool.not_eq_true] at h96; rw [h96]; simp
  · intro hp; simp [formVb, Form.mk0, LitUse.takes, (hl hp).1]

theorem un_lanes {s : State} {gid side : Nat} {g : Group} {vs ps ss} {i : Instr} {w : Word} {ops ets lit eff} {et : ET}
    {d n : Nat} {f : Nat → Nat} (m : Word) (op : Nat) (hty : typeOf g side = some et) (h : Ready s gid side g ps ss vs)
    (he : exec i s = issueWord w (Form.mk0 ops (some ets) lit false) eff s)
    (hop : w.toNat / 2 ^ 23 = op) (hcap : capsOfOp op = []) (hsup : supOp op = false)
    (het : ets.contains et = true)
    (hops : ∀ o ∈ ops, o.Named et ps ss vs)
    (hl : LitPending g side → lit.takes = true)
    (hv : eff (issueOf s gid side g w) = (issueOf s gid side g w).put (setLanes g m d n f)) :
    SetsLanes s i gid side g m d n f := by
  refine one_form_lanes op m h he hop hcap hsup rfl rfl ?_ ?_ rfl hl rfl rfl (by simp [Form.mk0]) hv
  · rw [issueOf_et hty]; exact het
  · rw [issueOf_et hty]; exact hops

theorem vecBin_lanes {s : State} {gid side : Nat} {g : Group} {i : Instr} {w : Word} {ets : List ET} {d a b : BitVec 7} {et : ET}
    {F : ET → Bool → Nat → Nat → Nat → Nat} (op : Nat) (hty : typeOf g side = some et)
    (h : Ready s gid side g [] [] [(d.toNat, etRegs et), (a.toNat, etRegs et), (b.toNat, etRegs et)])
    (he : exec i s = vecBin w ets d a b F s)
    (hop : w.toNat / 2 ^ 23 = op) (hcap : capsOfOp op = []) (hsup : supOp op = false)
    (het : ets.contains et = true)
    (hl : LitPending g side → b = 0 ∧ (ets.contains .a96 = true → et ≠ .a96)) :
    SetsLanes s i gid side g (activeOf g side) d.toNat (etRegs et) (fun l => F et (mrSAT (slotOf g side).mr)
      (vregs g a.toNat l (etRegs et)) (vectorB g side b.toNat (etRegs et) l) (vregs g d.toNat l (etRegs et))) := by
  refine vb_lanes _ op hty h he hop hcap hsup het ?_ hl ?_
  · intro o ho; simp at ho; rcases ho with rfl | rfl | rfl <;> simp [Operand.Named, opV, spanRegs]
  · simp only [issueOf_n hty, issueOf_et hty, issueOf_vb, issueOf_sat]; rfl

theorem vecUn_lanes {s : State} {gid side : Nat} {g : Group} {i : Instr} {w : Word} {ets : List ET} {d a : BitVec 7} {et : ET}
    {F : ET → Bool → Nat → Nat} (op : Nat) (hty : typeOf g side = some et)
    (h : Ready s gid side g [] [] [(d.toNat, etRegs et), (a.toNat, etRegs et)])
    (he : exec i s = vecUn w ets d a F s)
    (hop : w.toNat / 2 ^ 23 = op) (hcap : capsOfOp op = []) (hsup : supOp op = false)
    (het : ets.contains et = true) (hl : ¬LitPending g side) :
    SetsLanes s i gid side g (activeOf g side) d.toNat (etRegs et) (fun l => F et (mrSAT (slotOf g side).mr)
      (vregs g a.toNat l (etRegs et))) := by
  refine un_lanes _ op hty h he hop hcap hsup het ?_ (fun hp => absurd hp hl) ?_
  · intro o ho; simp at ho; rcases ho with rfl | rfl <;> simp [Operand.Named, opV, spanRegs]
  · simp only [issueOf_n hty, issueOf_et hty, issueOf_sat]; rfl

theorem elems_of {s i gid side g et d v} {f : Nat → Nat} (h : SetsLanes s i gid side g (activeOf g side) d (etRegs et) f)
    (hv : ∀ l k, k < etCount et → elemU (etBits et) k (f l) = (v l k % 2 ^ etBits et).toNat) : SetsElems s i gid side g et d v :=
  ⟨f, h, hv⟩

theorem elem_mapInt2 (et : ET) (g : Group) (side : Nat) (f : Int → Int → Int) (x y k : Nat) (hk : k < etCount et) :
    elemU (etBits et) k (mapInt2 et (mrSAT (slotOf g side).mr) f x y) = (satTo g side et (f (elemI et k x) (elemI et k y)) % 2 ^ etBits et).toNat := by
  rw [mapInt2, elemU_packElems _ _ _ _ hk, fitInt_eq, ← wrapTo_eq, Nat.mod_eq_of_lt (wrapTo_lt _ _)]
theorem elem_mapInt2' (et : ET) (f : Int → Int → Int) (x y k : Nat) (hk : k < etCount et) :
    elemU (etBits et) k (mapInt2 et false f x y) = (f (elemI et k x) (elemI et k y) % 2 ^ etBits et).toNat := by
  rw [mapInt2, elemU_packElems _ _ _ _ hk, fitInt]; simp [← wrapTo_eq, Nat.mod_eq_of_lt (wrapTo_lt _ _)]
theorem elem_pack_fit (et : ET) (g : Group) (side : Nat) (f : Nat → Int) (k : Nat) (hk : k < etCount et) :
    elemU (etBits et) k (packElems (etBits et) (fun k => fitInt (etSigned et) (etBits et) (mrSAT (slotOf g side).mr) (f k)) (etCount et)) = (satTo g side et (f k) % 2 ^ etBits et).toNat := by
  rw [elemU_packElems _ _ _ _ hk, fitInt_eq, ← wrapTo_eq, Nat.mod_eq_of_lt (wrapTo_lt _ _)]
theorem elem_pack_wrap (et : ET) (f : Nat → Int) (k : Nat) (hk : k < etCount et) :
    elemU (etBits et) k (packElems (etBits et) (fun k => wrapTo (etBits et) (f k)) (etCount et)) = (f k % 2 ^ etBits et).toNat := by
  rw [elemU_packElems _ _ _ _ hk, ← wrapTo_eq, Nat.mod_eq_of_lt (wrapTo_lt _ _)]
theorem elem_pack_nat (et : ET) (f : Nat → Nat) (k : Nat) (hk : k < etCount et) :
    elemU (etBits et) k (packElems (etBits et) f (etCount et)) = (((f k : Nat) : Int) % 2 ^ etBits et).toNat := by
  rw [elemU_packElems _ _ _ _ hk]; norm_cast

theorem one_form_pred {s : State} {gid side : Nat} {g : Group} {ps ss vs} {i : Instr} {w : Word} {fm eff} (op : Nat)
    {d : Nat} {m x : Word} (h : Ready s gid side g ps ss vs)
    (he : exec i s = issueWord w fm eff s)
    (hop : w.toNat / 2 ^ 23 = op) (hcap : capsOfOp op = []) (hsup : supOp op = false)
    (hpriv : fm.priv (issueOf s gid side g w) = false)
    (hrsv : fm.rsv (issueOf s gid side g w) = false)
    (het : fm.accepts (issueOf s gid side g w).et = true)
    (hops : ∀ o ∈ fm.ops, o.Named (issueOf s gid side g w).et ps ss vs)
    (hbad : fm.bad (issueOf s gid side g w) = false)
    (hlit : LitPending g side → fm.lit.takes = true)
    (hruns : fm.runs (issueOf s gid side g w) = false)
    (ht : fm.touch (issueOf s gid side g w) = []) (hc : fm.conv = true → converged g = true)
    (hv : eff (issueOf s gid side g w) = (issueOf s gid side g w).put (setPreg g m d x)) :
    SetsPred s i gid side g m d x := by
  apply sets_pred (w := w)
  rw [he, ready_form op h hop (by rw [hcap]; rfl) (fun _ => ⟨hsup, hpriv⟩) hrsv het hops hbad hlit hruns (by rw [ht]; intro r hr; exact absurd hr (by simp)) hc, hv]

theorem maskOf_bit (f : Nat → Bool) (l : Nat) (hl : l < 32) : (maskOf f).getLsbD l = f l := by
  have key : ∀ n, n ≤ 32 → ∀ j, ((List.range n).foldl (fun a l => if f l then a + 2 ^ l else a) 0) < 2 ^ n ∧
      (((List.range n).foldl (fun a l => if f l then a + 2 ^ l else a) 0).testBit j = (decide (j < n) && f j)) := by
    intro n hn
    induction n with
    | zero => intro j; simp
    | succ n ih =>
      intro j
      have ih := ih (by omega)
      rw [List.range_succ, List.foldl_append]
      simp only [List.foldl_cons, List.foldl_nil]
      have h1 := (ih 0).1
      have h2 := (ih j).2
      generalize ((List.range n).foldl (fun a l => if f l then a + 2 ^ l else a) 0) = x at *
      cases hf : f n
      · simp only [Bool.false_eq_true, if_false]
        refine ⟨by rw [Nat.pow_succ]; omega, ?_⟩
        rw [h2]
        by_cases hj : j = n
        · subst hj; simp [hf]
        · have : decide (j < n + 1) = decide (j < n) := by simp; omega
          rw [this]
      · simp only [if_true]
        refine ⟨by rw [Nat.pow_succ]; omega, ?_⟩
        rw [Nat.add_comm]
        by_cases hj : j = n
        · subst hj; rw [Nat.testBit_two_pow_add_eq, h2]; simp [hf]
        · rcases Nat.lt_or_gt_of_ne hj with hlt | hgt
          · rw [Nat.testBit_two_pow_add_gt hlt, h2]
            simp [hlt]; intro; omega
          · have h3 : 2 ^ n + x < 2 ^ (n+1) := by rw [Nat.pow_succ]; omega
            have h4 : 2 ^ n + x < 2 ^ j := Nat.lt_of_lt_of_le h3 (Nat.pow_le_pow_right (by omega) (by omega))
            rw [Nat.testBit_lt_two_pow h4]
            simp; omega
  unfold maskOf
  rw [BitVec.getLsbD_ofNat, (key 32 (by omega) l).2]
  simp [hl]

theorem vecCmp_pred {s : State} {gid side : Nat} {g : Group} {i : Instr} {w : Word} {d a b : BitVec 7} {et : ET}
    {r : Int → Int → Bool} (op : Nat) (hty : typeOf g side = some et)
    (h : Ready s gid side g [d.toNat] [] [(a.toNat, etRegs et), (b.toNat, etRegs et)])
    (he : exec i s = vecCmp w d a b r s)
    (hop : w.toNat / 2 ^ 23 = op) (hcap : capsOfOp op = []) (hsup : supOp op = false)
    (het : setA.contains et = true)
    (hl : LitPending g side → b = 0) :
    SetsPred s i gid side g (activeOf g side) d.toNat (maskOf (fun l =>
      (List.range (etCount et)).all (fun k =>
        r (elemI et k (vregs g a.toNat l (etRegs et))) (elemI et k (vectorB g side b.toNat (etRegs et) l))))) := by
  refine one_form_pred op h he hop hcap hsup rfl rfl ?_ ?_ ?_ ?_ rfl rfl (by simp [formVb, Form.mk0]) ?_
  · rw [issueOf_et hty]; exact het
  · rw [issueOf_et hty]
    intro o ho; simp [formVb, Form.mk0] at ho; rcases ho with rfl | rfl | rfl <;> simp [Operand.Named, opV, opP, spanRegs]
  · simp [formVb, issueOf_et hty]; intro _ _; decide
  · intro hp; simp [formVb, Form.mk0, LitUse.takes, (hl hp)]
  · simp only [issueOf_n hty, issueOf_et hty, issueOf_vb]; rfl

theorem predBin_pred {s : State} {gid side : Nat} {g : Group} {i : Instr} {w : Word} {d a b : BitVec 7} {f : Word → Word → Word} (op : Nat)
    (h : Ready s gid side g [d.toNat, a.toNat, b.toNat] [] [])
    (he : exec i s = predBin w d a b f s)
    (hop : w.toNat / 2 ^ 23 = op) (hcap : capsOfOp op = []) (hsup : supOp op = false)
    (hl : ¬LitPending g side) :
    SetsPred s i gid side g (activeOf g side) d.toNat (f (preg g a.toNat) (preg g b.toNat)) := by
  refine one_form_pred op h he hop hcap hsup rfl rfl rfl ?_ rfl (fun hp => absurd hp hl) rfl rfl (by simp [Form.mk0]) rfl
  intro o ho; simp [Form.mk0] at ho; rcases ho with rfl | rfl | rfl <;> simp [Operand.Named, opP]

theorem vecReduce_lanes {s : State} {gid side : Nat} {g : Group} {i : Instr} {w : Word} {d a : BitVec 7} {et : ET} {f : ET → Bool → List Int → Nat}
    (op : Nat) (hty : typeOf g side = some et)
    (h : Ready s gid side g [] [] [(d.toNat, etRegs et), (a.toNat, etRegs et)])
    (he : exec i s = vecReduce w d a f s)
    (hop : w.toNat / 2 ^ 23 = op) (hcap : capsOfOp op = []) (hsup : supOp op = false)
    (het : setA.contains et = true) (hl : ¬LitPending g side) :
    SetsLanes s i gid side g (activeOf g side) d.toNat (etRegs et) (fun _ => packElems (etBits et) (fun k => f et (mrSAT (slotOf g side).mr)
      ((lanesOf (activeOf g side)).map (fun l => elemI et k (vregs g a.toNat l (etRegs et))))) (etCount et)) := by
  refine un_lanes _ op hty h he hop hcap hsup het ?_ (fun hp => absurd hp hl) ?_
  · intro o ho; simp at ho; rcases ho with rfl | rfl <;> simp [Operand.Named, opV, spanRegs]
  · simp only [issueOf_n hty, issueOf_et hty, issueOf_sat]; rfl

theorem extreme_lo (r : List Int) (x : Int) :
    (r.foldl (fun a y => if y < a then y else a) x) ∈ x :: r ∧ ∀ y ∈ x :: r, (r.foldl (fun a y => if y < a then y else a) x) ≤ y := by
  induction r generalizing x with
  | nil => simp
  | cons y r ih =>
    simp only [List.foldl_cons]
    obtain ⟨h1, h2⟩ := ih (if y < x then y else x)
    refine ⟨?_, ?_⟩
    · rcases List.mem_cons.1 h1 with h1 | h1
      · rw [h1]; split <;> simp
      · exact List.mem_cons_of_mem _ (List.mem_cons_of_mem _ h1)
    · intro z hz
      have h3 := h2 _ (List.mem_cons_self ..)
      simp only [List.mem_cons] at hz
      rcases hz with rfl | rfl | hz
      · split at h3 <;> split <;> omega
      · split at h3 <;> split <;> omega
      · exact h2 z (by simp [hz])

theorem extreme_hi (r : List Int) (x : Int) :
    (r.foldl (fun a y => if a < y then y else a) x) ∈ x :: r ∧ ∀ y ∈ x :: r, y ≤ (r.foldl (fun a y => if a < y then y else a) x) := by
  induction r generalizing x with
  | nil => simp
  | cons y r ih =>
    simp only [List.foldl_cons]
    obtain ⟨h1, h2⟩ := ih (if x < y then y else x)
    refine ⟨?_, ?_⟩
    · rcases List.mem_cons.1 h1 with h1 | h1
      · rw [h1]; split <;> simp
      · exact List.mem_cons_of_mem _ (List.mem_cons_of_mem _ h1)
    · intro z hz
      have h3 := h2 _ (List.mem_cons_self ..)
      simp only [List.mem_cons] at hz
      rcases hz with rfl | rfl | hz
      · split at h3 <;> split <;> omega
      · split at h3 <;> split <;> omega
      · exact h2 z (by simp [hz])

theorem cap_lanes {s : State} {gid side : Nat} {g : Group} {ps ss vs} {i : Instr} {w : Word} {fm eff} (op : Nat)
    {d n : Nat} {f : Nat → Nat} (m : Word) (h : Ready s gid side g ps ss vs)
    (he : exec i s = issueWord w fm eff s)
    (hop : w.toNat / 2 ^ 23 = op) (hcap : (capsOfOp op).all (capOn s (reqOf s g).part) = true) (hsup : supOp op = false)
    (hpriv : fm.priv (issueOf s gid side g w) = false)
    (hrsv : fm.rsv (issueOf s gid side g w) = false)
    (het : fm.accepts (issueOf s gid side g w).et = true)
    (hops : ∀ o ∈ fm.ops, o.Named (issueOf s gid side g w).et ps ss vs)
    (hbad : fm.bad (issueOf s gid side g w) = false)
    (hlit : LitPending g side → fm.lit.takes = true)
    (hruns : fm.runs (issueOf s gid side g w) = false)
    (ht : fm.touch (issueOf s gid side g w) = []) (hc : fm.conv = true → converged g = true)
    (hv : eff (issueOf s gid side g w) = (issueOf s gid side g w).put (setLanes g m d n f)) :
    SetsLanes s i gid side g m d n f := by
  obtain ⟨t, g', ht', ho, hg⟩ := finish_put (s := s) (gid := gid) (side := side) (g := g) (w := w)
    (setLanes g m d n f)
  refine ⟨t, g', ?_, ho, ?_, ?_, ?_⟩
  · rw [he, ready_form op h hop hcap (fun _ => ⟨hsup, hpriv⟩) hrsv het hops hbad hlit hruns (by rw [ht]; intro r hr; exact absurd hr (by simp)) hc, hv, ht']
  · rw [hg]; exact movedOn_of (by simp)
  · intro r l hl; rw [hg, vreg_setSlot]; exact setLanes_lanesAre g _ d n f r l hl
  · rw [hg]; unfold setSlot setLanes; split <;> rfl

/-- Operands of a list of vector registers are named. -/
theorem named_cons {o : Operand} {os : List Operand} {et : ET} {ps ss : List Nat} {vs : List (Nat × Nat)}
    (h1 : o.Named et ps ss vs) (h2 : ∀ q ∈ os, q.Named et ps ss vs) : ∀ q ∈ o :: os, q.Named et ps ss vs := by
  intro q hq
  rcases List.mem_cons.1 hq with rfl | hq
  · exact h1
  · exact h2 q hq

end Sys2Proof.Machine
end

