-- ==== Sys2Proof/Laws/Control.lean ====
section
/-! SUPPORT. Class 0: the completion of control instructions, the divergence stack and JOIN. -/
set_option Elab.async false

namespace Sys2Proof.Machine

/-- A word whose checks pass and whose effect only changes its group leaves that group so. -/
theorem becomes_of {s : State} {i : Instr} {gid side : Nat} {g g' : Group} {ps ss vs} {w : Word} {fm : Form} {eff} (op : Nat)
    (h : Ready s gid side g ps ss vs)
    (he : exec i s = issueWord w fm eff s)
    (hop : w.toNat / 2 ^ 23 = op) (hcap : (capsOfOp op).all (capOn s (reqOf s g).part) = true)
    (hpriv : userLevel g = true → supOp op = false ∧ fm.priv (issueOf s gid side g w) = false)
    (hrsv : fm.rsv (issueOf s gid side g w) = false)
    (het : fm.accepts (issueOf s gid side g w).et = true)
    (hops : ∀ o ∈ fm.ops, o.Named (issueOf s gid side g w).et ps ss vs)
    (hbad : fm.bad (issueOf s gid side g w) = false)
    (hlit : LitPending g side → fm.lit.takes = true)
    (hruns : fm.runs (issueOf s gid side g w) = false)
    (htouch : ∀ r ∈ fm.touch (issueOf s gid side g w),
      r ∈ ss.map (· + 200) ++ vs.flatMap (fun v => (List.range v.2).map (· + v.1)))
    (hc : fm.conv = true → converged g = true)
    (hv : finish (issueOf s gid side g w) (eff (issueOf s gid side g w)) = setGroup s gid g') :
    Becomes s i gid g' := by
  refine ⟨setGroup s gid g', by rw [he, ready_form op h hop hcap hpriv hrsv het hops hbad hlit hruns htouch hc, hv], rfl, ?_, ?_⟩
  · simp [setGroup]
  · intro k hk; simp [setGroup, hk]

/-- Changing what was just set sets the changed value. -/
theorem tmod_tset {α} (t : Tbl α) (k : Nat) (a : α) (f : α → α) : tmod (tset t k a) k f = tset t k (f a) := by
  unfold tset
  cases h : tget t k with
  | some b =>
    simp only [Option.isSome_some, if_true]
    clear h
    induction t with
    | nil => rfl
    | cons c r ih => 
      simp only [tmod]; split
      · next hk => simp [tmod, hk]
      · next hk => simp [tmod, hk, ih]
  | none =>
    simp only [Option.isSome_none, Bool.false_eq_true, if_false]
    induction t with
    | nil => simp [tins, tmod]
    | cons c r ih =>
      have hk : k ≠ c.1 := by intro h0; simp [tget, h0] at h
      simp only [tget, hk, if_false] at h
      simp only [tins]; split
      · simp [tmod]
      · simp [tmod, hk, ih h]

/-- The state after an instruction that only changes its group, as an equation. -/
theorem finish_put_eq {s : State} {gid side : Nat} {g : Group} {w : Word} (g1 : Group) :
    finish (issueOf s gid side g w) ((issueOf s gid side g w).put g1) = setGroup s gid (setSlot g1 side (advance (slotOf g1 side))) := by
  simp only [finish, Issue.put, issueOf, setGroup]
  rw [tmod_tset]

theorem issueOf_imm {n} (s : State) (gid side : Nat) (g : Group) (w : Word) (i : BitVec n) :
    (issueOf s gid side g w).imm i = immOf g side i := by
  unfold Issue.imm immOf issueOf; simp only []; split <;> rfl
theorem issueOf_branching (s : State) (gid side : Nat) (g : Group) (w : Word) (p : BitVec 3) (sense : BitVec 1) :
    (issueOf s gid side g w).branching p sense = (slotOf g side).exec &&& (if sense = 0 then preg g p.toNat else ~~~preg g p.toNat) := rfl
theorem issueOf_tgt (s : State) (gid side : Nat) (g : Group) (w : Word) (x : DWord) :
    (issueOf s gid side g w).tgt x = (slotOf g side).pc + 4 * x := rfl
theorem finish_jump {s : State} {gid side : Nat} {g : Group} {w : Word} {a : DWord} (h : pcValid a = true) :
    finish (issueOf s gid side g w) ((issueOf s gid side g w).jump a (slotOf g side)) = setGroup s gid (setSlot g side (slotAt (slotOf g side) a)) := by
  simp [Issue.jump, h, Issue.go, finish, slotAt, advance]

theorem lowLane_eq {m : Word} {l : Nat} (hl : l < 32) (h1 : m.getLsbD l = true) (h2 : ∀ k, k < l → m.getLsbD k = false) :
    lowLane m = l := by
  have h : List.range 32 = List.range l ++ (List.range (32 - l)).map (l + ·) := by
    rw [← List.range_add, show l + (32 - l) = 32 by omega]
  have h' : List.range (32 - l) = 0 :: (List.range (31 - l)).map Nat.succ := by
    rw [show 32 - l = (31 - l) + 1 by omega, List.range_succ_eq_map]
  have hn : (List.range l).filter (fun k => m.getLsbD k) = [] := by
    rw [List.filter_eq_nil_iff]; intro k hk; rw [h2 k (List.mem_range.1 hk)]; simp
  unfold lowLane lanesOf
  rw [h, List.filter_append, hn, List.nil_append, h', List.map_cons, List.filter_cons, if_pos (by simpa using h1)]; rfl

theorem tmod_none {α} (t : Tbl α) (k : Nat) (f : α → α) (h : tget t k = none) : tmod t k f = t := by
  induction t with
  | nil => rfl
  | cons c r ih => 
    have hk : k ≠ c.1 := by intro h0; simp [tget, h0] at h
    simp only [tget, hk, if_false] at h
    simp [tmod, hk, ih h]

theorem side_cases {side : Nat} (h : side ≤ 1) : 1 - side = otherSide side := by
  unfold otherSide; split <;> omega

theorem findIdx?_eq {α} (f : α → Bool) (pre post : List α) (e : α) (k : Nat) (h : ∀ x ∈ pre, f x = false) (he : f e = true) :
    findIdx? f (pre ++ e :: post) k = some (k + pre.length, e) := by
  induction pre generalizing k with
  | nil => simp [findIdx?, he]
  | cons a r ih =>
    simp only [List.cons_append, findIdx?, h a (by simp), Bool.false_eq_true, if_false, List.length_cons]
    rw [ih _ (fun x hx => h x (by simp [hx]))]; congr 2; omega

theorem findIdx?_none {α} (f : α → Bool) (l : List α) (k : Nat) (h : ∀ x ∈ l, f x = false) : findIdx? f l k = none := by
  induction l generalizing k with
  | nil => rfl
  | cons a r ih => simp [findIdx?, h a (by simp), ih _ (fun x hx => h x (by simp [hx]))]

theorem lastIdx_none {α} (f : α → Bool) (l : List α) (h : ∀ x ∈ l, f x = false) : lastIdx f l = none := by
  unfold lastIdx; rw [findIdx?_none _ _ _ (by simpa using h)]

theorem lastIdx_eq {α} (f : α → Bool) (pre post : List α) (e : α) (h : ∀ x ∈ post, f x = false) (he : f e = true) :
    lastIdx f (pre ++ e :: post) = some pre.length := by
  unfold lastIdx
  have : (pre ++ e :: post).reverse = post.reverse ++ e :: pre.reverse := by simp
  rw [this, findIdx?_eq f _ _ e 0 (by simpa using h) he]
  simp

theorem zip_range_set {α} (f : α → α) (pre post : List α) (e : α) :
    ((pre ++ e :: post).zip (List.range (pre ++ e :: post).length)).map (fun y => if y.2 = pre.length then f y.1 else y.1)
      = pre ++ f e :: post := by
  apply List.ext_getElem
  · simp
  · intro i h1 h2
    simp only [List.getElem_map, List.getElem_zip, List.getElem_range]
    split
    · next h => subst h; simp
    · next h => 
      rcases Nat.lt_or_ge i pre.length with hi | hi
      · simp [List.getElem_append_left hi]
      · obtain ⟨j, hj⟩ : ∃ j, i - pre.length = j + 1 := ⟨i - pre.length - 1, by omega⟩
        simp [List.getElem_append_right hi, hj]

theorem splitBranch_free {s : State} {gid side : Nat} {g : Group} {w : Word} {join tgt : DWord} {t n : Word} (hside : side ≤ 1)
    (ho : (slotOf g (otherSide side)).live = false) (hs : g.stack.length ≤ 63) :
    splitBranch (issueOf s gid side g w) join tgt t n = .leave (setGroup s gid { setSlot (setSlot g side
            { slotAt (slotOf g side) ((slotOf g side).pc + 4) with exec := n, jp := false })
            (otherSide side) { Slot.free with live := true, pc := tgt, exec := t, mr := (slotOf g side).mr } with
          stack := g.stack ++ [{ pc := asPc join, mrs := (slotOf g side).mr, mask := (slotOf g side).exec, arr := 0 }] }) := by
  unfold splitBranch
  have ho' : (slotOf (issueOf s gid side g w).g (1 - (issueOf s gid side g w).side)).live = false := by
    rw [issueOf_side, side_cases hside]; exact ho
  simp only [ho', Bool.false_eq_true, if_false]
  refine (if_neg (by simp only [issueOf_g]; omega)).trans ?_
  rcases (show side = 0 ∨ side = 1 by omega) with rfl | rfl <;> rfl

theorem splitBranch_busy {s : State} {gid side : Nat} {g : Group} {w : Word} {join tgt : DWord} {t n : Word}
    (ho : (slotOf g (otherSide side)).live = true) (hs : g.stack.length ≤ 62) (hside : side ≤ 1) :
    splitBranch (issueOf s gid side g w) join tgt t n = .leave (setGroup s gid { setSlot g side
            { slotAt (slotOf g side) ((slotOf g side).pc + 4) with exec := n, jp := false } with
          stack := g.stack ++ [{ pc := asPc join, mrs := (slotOf g side).mr, mask := (slotOf g side).exec, arr := 0 },
            { pc := tgt, mrs := (slotOf g side).mr, mask := t, arr := t }] }) := by
  unfold splitBranch
  have ho' : (slotOf (issueOf s gid side g w).g (1 - (issueOf s gid side g w).side)).live = true := by
    rw [issueOf_side, side_cases hside]; exact ho
  simp only [ho', if_true]
  refine (if_neg (by simp only [issueOf_g]; omega)).trans ?_
  simp only [issueOf_g, issueOf_sl, issueOf_s, issueOf_gid, issueOf_side, List.append_assoc]
  rcases (show side = 0 ∨ side = 1 by omega) with rfl | rfl <;> rfl

end Sys2Proof.Machine
end

