-- ==== Sys2Proof/Laws/Memory.lean ====
section
/-! SUPPORT. What the named operations over memory can do: each keeps every memory in canonical form, a write at a home
leaves every field but memory and what follows a write, and bytes outside it read as before. -/

namespace Sys2Proof.Machine

/-! ## Sparse maps under folds -/

theorem foldl_mset_wf {w : Nat} {β : Type} (l : List β) (k : β → Nat) (x : β → BitVec w) (m : SMap w) (h : mwf m = true) :
    mwf (l.foldl (fun t e => mset t (k e) (x e)) m) = true := by
  induction l generalizing m with
  | nil => exact h
  | cons e l ih => exact ih _ (mset_wf m _ _ h)

theorem foldl_msetBytes_wf {β : Type} (l : List β) (k n x : β → Nat) (m : SMap 8) (h : mwf m = true) :
    mwf (l.foldl (fun t e => msetBytes t (k e) (n e) (x e)) m) = true := by
  induction l generalizing m with
  | nil => exact h
  | cons e l ih => exact ih _ (msetBytes_wf m _ _ _ h)

theorem filter_wf {w : Nat} (m : SMap w) (p : Nat × BitVec w → Bool) (h : mwf m = true) : mwf (m.filter p) = true :=
  mwfFrom_filter m 0 p h

theorem moveKeys_wf {w : Nat} (ms : List (Nat × Nat × Nat)) (n : Nat) (m : SMap w) (h : mwf m = true) : mwf (moveKeys ms n m) = true :=
  foldl_mset_wf _ _ _ _ (filter_wf m _ h)

theorem copyKeys_wf {w : Nat} (a b n : Nat) (m : SMap w) (h : mwf m = true) : mwf (copyKeys a b n m) = true :=
  foldl_mset_wf _ _ _ _ (mclear_wf m _ _ h)

/-! ## What follows a write -/

/-- A block marked for return is all that `markBlock` changes, with its dispatcher's count. -/
theorem markBlock_frame (s : State) (b : Nat) : { markBlock s b with blocks := s.blocks, disps := s.disps } = s := by
  unfold markBlock
  repeat' split
  all_goals rfl

theorem foldl_markBlock_frame {β : Type} (l : List β) (f : β → Nat) (s : State) :
    { l.foldl (fun s x => markBlock s (f x)) s with blocks := s.blocks, disps := s.disps } = s := by
  induction l generalizing s with
  | nil => rfl
  | cons x l ih =>
    have h1 := ih (markBlock s (f x))
    have h2 := markBlock_frame s (f x)
    rw [List.foldl_cons]
    generalize l.foldl (fun s x => markBlock s (f x)) (markBlock s (f x)) = t at h1
    rw [← h2]
    rw [← h1]

/-- What follows a write changes monitors and marks of blocks, dispatchers' counts, and wake words seen. -/
theorem afterWrite_frame (s : State) (t : Target) (n : Nat) :
    { afterWrite s t n with blocks := s.blocks, disps := s.disps, svcreqs := s.svcreqs } = s := by
  unfold afterWrite
  have h := foldl_markBlock_frame
    ((s.blocks.zip (s.blocks.map (fun b => (b.1, { b.2 with mons := fireMons s t n b.2.mons })))).filter
      (fun x => decide (x.1.2.mons ≠ x.2.2.mons))) (fun x => x.1.1)
    { s with
      blocks := s.blocks.map (fun b => (b.1, { b.2 with mons := fireMons s t n b.2.mons }))
      svcreqs := s.svcreqs.map (fun r =>
        if !r.2.woken && !r.2.hit && overlaps t n r.2.wake 8
            && decide (BitVec.ofNat 64 (readT s r.2.wake 8) = r.2.seq) then (r.1, { r.2 with hit := true }) else r) }
  simp only
  generalize List.foldl _ _ _ = u at h ⊢
  have := congrArg (fun v : State => { v with blocks := s.blocks, svcreqs := s.svcreqs, disps := s.disps }) h
  exact this

/-- `Memory.wf` reads the memories only. -/
theorem wf_of_frame {s t : State} (h : { t with blocks := s.blocks, disps := s.disps, svcreqs := s.svcreqs } = s) :
    Memory.wf t = Memory.wf s := by
  rw [← h]
  rfl

theorem afterWrite_wf (s : State) (t : Target) (n : Nat) : Memory.wf (afterWrite s t n) = Memory.wf s :=
  wf_of_frame (afterWrite_frame s t n)

/-! ## What an access does to copies -/

/-- An access changes the copies of lines alone, and what the host is told. -/
theorem touch_co (s : State) (k : Option Nat) (t : Target) (n : Nat) (write : Bool) :
    touch s k t n write = { s with co := (touch s k t n write).co } := by
  cases t
  case hbm d o => cases k <;> cases write <;> rfl
  all_goals rfl

/-! ## The operations over memory keep its canonical form -/

/-- The conjuncts of the canonical form. -/
theorem wf_iff (s : State) : Memory.wf s = true ↔ mwf s.hbm = true ∧ mwf s.spad = true ∧ mwf s.host = true ∧ mwf s.notify = true
    ∧ mwf s.seqst = true ∧ mwf s.ctag = true ∧ mwf s.poison = true ∧ mwf s.spoison = true ∧ mwf s.hostPoison = true := by
  simp [Memory.wf, and_assoc]

theorem touch_wf (s : State) (k : Option Nat) (t : Target) (n : Nat) (write : Bool) : Memory.wf (touch s k t n write) = Memory.wf s :=
  (congrArg Memory.wf (touch_co s k t n write)).trans rfl

theorem putT_wf (s : State) (t : Target) (n x : Nat) (h : Memory.wf s = true) : Memory.wf (putT s t n x) = true := by
  have h0 := h
  rw [wf_iff] at h
  obtain ⟨h1, h2, h3, h4, h5, h6, h7, h8, h9⟩ := h
  cases t
  case hbm d o => exact (afterWrite_wf _ _ _).trans ((wf_iff _).mpr ⟨msetBytes_wf _ _ _ _ h1, h2, h3, h4, h5, mclear_wf _ _ _ h6, mclear_wf _ _ _ h7, h8, h9⟩)
  case hdm d o => exact (afterWrite_wf _ _ _).trans ((wf_iff _).mpr ⟨msetBytes_wf _ _ _ _ h1, h2, h3, h4, h5, mclear_wf _ _ _ h6, mclear_wf _ _ _ h7, h8, h9⟩)
  case spad c o => exact (afterWrite_wf _ _ _).trans ((wf_iff _).mpr ⟨h1, msetBytes_wf _ _ _ _ h2, h3, h4, h5, h6, h7, mclear_wf _ _ _ h8, h9⟩)
  case notify p i => exact (afterWrite_wf _ _ _).trans ((wf_iff _).mpr ⟨h1, h2, h3, mset_wf _ _ _ h4, h5, h6, h7, h8, h9⟩)
  case host o => exact (afterWrite_wf _ _ _).trans ((wf_iff _).mpr ⟨h1, h2, msetBytes_wf _ _ _ _ h3, h4, h5, h6, h7, h8, mclear_wf _ _ _ h9⟩)
  all_goals exact h0

theorem writeT_wf (s : State) (t : Target) (n x : Nat) (h : Memory.wf s = true) : Memory.wf (writeT s t n x) = true :=
  putT_wf _ _ _ _ ((touch_wf s none t n true).trans h)

theorem writeBy_wf (s : State) (core : Nat) (t : Target) (n x : Nat) (h : Memory.wf s = true) : Memory.wf (writeBy s core t n x) = true :=
  putT_wf _ _ _ _ ((touch_wf s (some core) t n true).trans h)

theorem addNotify_wf (s : State) (p i : Nat) (x : DWord) (h : Memory.wf s = true) : Memory.wf (addNotify s p i x) = true :=
  writeT_wf s _ _ _ h

theorem zeroLine_wf (s : State) (core : Nat) (t : Target) (h : Memory.wf s = true) : Memory.wf (zeroLine s core t) = true := by
  have h0 := (touch_wf s (some core) t 1 true).trans h
  unfold zeroLine
  generalize touch s (some core) t 1 true = u at h0
  have h := h0
  rw [wf_iff] at h
  obtain ⟨h1, h2, h3, h4, h5, h6, h7, h8, h9⟩ := h
  cases t
  case hbm d o => exact (afterWrite_wf _ _ _).trans ((wf_iff _).mpr ⟨mclear_wf _ _ _ h1, h2, h3, h4, h5, mclear_wf _ _ _ h6, mclear_wf _ _ _ h7, h8, h9⟩)
  case hdm d o => exact (afterWrite_wf _ _ _).trans ((wf_iff _).mpr ⟨mclear_wf _ _ _ h1, h2, h3, h4, h5, mclear_wf _ _ _ h6, mclear_wf _ _ _ h7, h8, h9⟩)
  case spad c o => exact (afterWrite_wf _ _ _).trans ((wf_iff _).mpr ⟨h1, mclear_wf _ _ _ h2, h3, h4, h5, h6, h7, mclear_wf _ _ _ h8, h9⟩)
  all_goals exact h0

theorem setRow_wf (s : State) (die pa : Nat) (x : BitVec 8192) (h : Memory.wf s = true) : Memory.wf (setRow s die pa x) = true := by
  rw [wf_iff] at h
  obtain ⟨h1, h2, h3, h4, h5, h6, h7, h8, h9⟩ := h
  have hb := msetBytes_wf s.hbm (hkey die pa) 1024 x.toNat h1
  unfold setRow
  generalize msetBytes s.hbm (hkey die pa) 1024 x.toNat = m at hb ⊢
  exact (wf_iff _).mpr ⟨hb, h2, h3, h4, h5, mclear_wf _ _ _ h6, mclear_wf _ _ _ h7, h8, h9⟩

theorem markRow_wf (s : State) (die pa : Nat) (gs : List Nat) (h : Memory.wf s = true) : Memory.wf (markRow s die pa gs) = true := by
  rw [wf_iff] at h ⊢
  obtain ⟨h1, h2, h3, h4, h5, h6, h7, h8, h9⟩ := h
  exact ⟨h1, h2, h3, h4, h5, h6, foldl_mset_wf _ _ _ _ h7, h8, h9⟩

theorem agentWrites_wf (s : State) (ls : List Nat) : Memory.wf (agentWrites s ls) = Memory.wf s := rfl

theorem zeroFrame_wf (s : State) (p die num : Nat) (h : Memory.wf s = true) : Memory.wf (zeroFrame s p die num) = true := by
  unfold zeroFrame
  split
  · exact h
  · next pa _ _ =>
    have hu := (agentWrites_wf s (linesFrom (hkey die pa) 8192)).trans h
    simp only
    generalize agentWrites s (linesFrom (hkey die pa) 8192) = u at hu ⊢
    rw [wf_iff] at hu ⊢
    obtain ⟨h1, h2, h3, h4, h5, h6, h7, h8, h9⟩ := hu
    exact ⟨mclear_wf _ _ _ h1, h2, h3, h4, h5, mclear_wf _ _ _ h6, mclear_wf _ _ _ h7, h8, h9⟩

/-- Reset lists nothing. -/
theorem reset_wf : Memory.wf State.reset = true := by decide

/-! ## What a write leaves, and what it is read back as -/

/-- A state with the memories of another, what follows a write of it and its copies. -/
def memOf (s v : State) : State :=
  { v with hbm := s.hbm, poison := s.poison, ctag := s.ctag, spad := s.spad, spoison := s.spoison, notify := s.notify, host := s.host,
           hostPoison := s.hostPoison, blocks := s.blocks, disps := s.disps, svcreqs := s.svcreqs, co := s.co }

/-- The bytes of a write change memory, with the tags and marks of the bytes they cover, and what follows a write. -/
theorem putT_frame (s : State) (t : Target) (n x : Nat) : memOf s (putT s t n x) = s := by
  have hbm (d o : Nat) : memOf s (putT s (.hbm d o) n x) = s := by
    have h := afterWrite_frame { s with
      hbm := msetBytes s.hbm (hkey d o) n x
      poison := mclear s.poison ((hkey d o + 15) / 16) ((hkey d o + n) / 16)
      ctag := mclear s.ctag (hkey d o / 16) ((hkey d o + n + 15) / 16) } (.hbm d o) n
    simp only [putT, Target.home]
    generalize afterWrite _ _ _ = u at h ⊢
    have := congrArg (memOf s) h
    exact this
  cases t
  case hbm d o => exact hbm d o
  case hdm d o => exact hbm d o
  case spad c o =>
    have h := afterWrite_frame { s with
      spad := msetBytes s.spad (skey c o) n x
      spoison := mclear s.spoison ((skey c o + 7) / 8) ((skey c o + n) / 8) } (.spad c o) n
    simp only [putT, Target.home]
    generalize afterWrite _ _ _ = u at h ⊢
    have := congrArg (memOf s) h
    exact this
  case notify p i =>
    have h := afterWrite_frame { s with notify := mset s.notify (p * 4096 + i) (BitVec.ofNat 64 x) } (.notify p i) n
    simp only [putT, Target.home]
    generalize afterWrite _ _ _ = u at h ⊢
    have := congrArg (memOf s) h
    exact this
  case host o =>
    have h := afterWrite_frame { s with
      host := msetBytes s.host o n x
      hostPoison := mclear s.hostPoison ((o + 15) / 16) ((o + n) / 16) } (.host o) n
    simp only [putT, Target.home]
    generalize afterWrite _ _ _ = u at h ⊢
    have := congrArg (memOf s) h
    exact this
  all_goals rfl

theorem memOf_memOf (s u v : State) : memOf s (memOf u v) = memOf s v := rfl

/-- A write at a home changes what its bytes change, and the copies of its lines. -/
theorem writeT_frame (s : State) (t : Target) (n x : Nat) : memOf s (writeT s t n x) = s := by
  have hu := touch_co s none t n true
  unfold writeT
  generalize touch s none t n true = u at hu ⊢
  have h := putT_frame u t n x
  generalize putT u t n x = v at h ⊢
  rw [← memOf_memOf s u v, h, hu]
  rfl

/-- The bytes of HBM after a write there. -/
theorem writeT_hbm (s : State) (d o n x : Nat) : (writeT s (.hbm d o) n x).hbm = msetBytes s.hbm (hkey d o) n x := by
  have hu : (touch s none (.hbm d o) n true).hbm = s.hbm := by
    have h := congrArg State.hbm (touch_co s none (.hbm d o) n true)
    exact h
  unfold writeT
  rw [← hu]
  generalize touch s none (.hbm d o) n true = u
  have h := afterWrite_frame { u with
    hbm := msetBytes u.hbm (hkey d o) n x
    poison := mclear u.poison ((hkey d o + 15) / 16) ((hkey d o + n) / 16)
    ctag := mclear u.ctag (hkey d o / 16) ((hkey d o + n + 15) / 16) } (.hbm d o) n
  simp only [putT, Target.home]
  generalize afterWrite _ _ _ = v at h ⊢
  have := congrArg State.hbm h
  exact this

/-- A byte of HBM after a write there. -/
theorem hbm_writeT (s : State) (d o n x k : Nat) :
    mget (writeT s (.hbm d o) n x).hbm k
      = if hkey d o ≤ k ∧ k < hkey d o + n then BitVec.ofNat 8 (x / 256 ^ (k - hkey d o)) else mget s.hbm k := by
  rw [writeT_hbm, mget_msetBytes]

/-- A byte of a scratchpad after a write there. -/
theorem spad_writeT (s : State) (c o n x k : Nat) :
    mget (writeT s (.spad c o) n x).spad k
      = if skey c o ≤ k ∧ k < skey c o + n then BitVec.ofNat 8 (x / 256 ^ (k - skey c o)) else mget s.spad k := by
  have h := afterWrite_frame { s with
      spad := msetBytes s.spad (skey c o) n x
      spoison := mclear s.spoison ((skey c o + 7) / 8) ((skey c o + n) / 8) } (.spad c o) n
  unfold writeT
  simp only [putT, Target.home, touch]
  generalize afterWrite _ _ _ = v at h ⊢
  rw [show v.spad = msetBytes s.spad (skey c o) n x from congrArg State.spad h, mget_msetBytes]

/-- What was written to HBM is read back. -/
theorem readT_writeT_hbm (s : State) (d o n x : Nat) : readT (writeT s (.hbm d o) n x) (.hbm d o) n = x % 256 ^ n := by
  rw [readT, writeT_hbm, mbytes_msetBytes]

end Sys2Proof.Machine
end

