-- ==== Sys2Proof/Tests/Slice0.lean ====
section
/-! SUPPORT. The tests: the well-formedness smoke, words written out from the spec's encodings, single steps with results
worked out from the spec, and a witness of the hypotheses of every obligation. -/

set_option Elab.async false
set_option maxRecDepth 100000

namespace Sys2Proof.Tests

open Sys2Proof Sys2Proof.Machine

/-! ## Well-formedness (R28 to R30, R337, R435) -/

/-- Every instruction of a list is ill-formed. -/
def refusesAll (l : List Instr) : Bool := l.all (fun i => !i.wf)

/-- Ill-formed: a scalar operand above sz (R28). -/
theorem test_wf_scalar_1 : refusesAll [
    .jr 25 0, .itemp 25 0 0, .itemp 0 25 0, .claunch 25 0 0, .claunch 0 25 0,
    .capr 25 0 0, .capr 0 25 0, .smov 25 0, .smov 0 25, .sli 25 0,
    .sadd 25 0 0, .sadd 0 25 0, .sadd 0 0 25, .saddi 25 0 0, .saddi 0 25 0,
    .ssub 25 0 0, .ssub 0 25 0, .ssub 0 0 25, .smul 25 0 0, .smul 0 25 0,
    .smul 0 0 25, .smulh 25 0 0, .smulh 0 25 0, .smulh 0 0 25, .smulhu 25 0 0,
    .smulhu 0 25 0, .smulhu 0 0 25, .sdiv 25 0 0, .sdiv 0 25 0, .sdiv 0 0 25,
    .sdivu 25 0 0, .sdivu 0 25 0, .sdivu 0 0 25, .srem 25 0 0, .srem 0 25 0,
    .srem 0 0 25, .sremu 25 0 0, .sremu 0 25 0, .sremu 0 0 25, .sand 25 0 0,
    .sand 0 25 0, .sand 0 0 25, .sor 25 0 0, .sor 0 25 0, .sor 0 0 25,
    .sxor 25 0 0, .sxor 0 25 0, .sxor 0 0 25, .sshl 25 0 0, .sshl 0 25 0,
    .sshl 0 0 25, .sshr 25 0 0, .sshr 0 25 0, .sshr 0 0 25, .ssra 25 0 0,
    .ssra 0 25 0, .ssra 0 0 25, .smin 25 0 0, .smin 0 25 0, .smin 0 0 25] = true := by decide +kernel

/-- Ill-formed: a scalar operand above sz (R28). -/
theorem test_wf_scalar_2 : refusesAll [
    .smax 25 0 0, .smax 0 25 0, .smax 0 0 25, .sminu 25 0 0, .sminu 0 25 0,
    .sminu 0 0 25, .smaxu 25 0 0, .smaxu 0 25 0, .smaxu 0 0 25, .sclz 25 0,
    .sclz 0 25, .spopc 25 0, .spopc 0 25, .ssetlt 25 0 0, .ssetlt 0 25 0,
    .ssetlt 0 0 25, .ssetltu 25 0 0, .ssetltu 0 25 0, .ssetltu 0 0 25, .sseteq 25 0 0,
    .sseteq 0 25 0, .sseteq 0 0 25, .gets 25 1, .puts 25 0, .sbcast 0 25,
    .slane 0 25 0 0, .slane 0 0 0 25, .vlane 0 0 0 25, .fslt 25 0 0, .vld8 0 0 25 0,
    .vld16 0 0 25 0, .vld32 0 0 25 0, .vld64 0 0 25 0, .vld128 0 0 25 0, .vst8 0 0 25 0,
    .vst16 0 0 25 0, .vst32 0 0 25 0, .vst64 0 0 25 0, .vst128 0 0 25 0, .sld 0 25 0,
    .sld 0 0 25, .sst 0 25 0, .sst 0 0 25, .vldc 0 0 25 0, .pft 25 0,
    .cpy 25 0 0, .cpy 0 25 0, .cpy 0 0 25, .cpyb 25 0 0, .cpyb 0 25 0,
    .cpyb 0 0 25, .flush 25 0, .invl 25 0, .zero 25 0, .sealst 0 25,
    .sealld 0 25, .sealfin 25 0, .sealfin 0 25, .sealchk 25 0, .sealchk 0 25] = true := by decide +kernel

/-- Ill-formed: a scalar operand above sz (R28). -/
theorem test_wf_scalar_3 : refusesAll [
    .amoadd 0 0 25 0, .amomin 0 0 25 0, .amomax 0 0 25 0, .amominu 0 0 25 0, .amomaxu 0 0 25 0,
    .amoand 0 0 25 0, .amoor 0 0 25 0, .amoxor 0 0 25 0, .amoswp 0 0 25 0, .amofadd 0 0 25 0,
    .amoaadd 0 0 25 0, .cas 0 0 25 0, .redadd 0 0 25 0, .redmin 0 0 25 0, .redmax 0 0 25 0,
    .redfadd 0 0 25 0, .redaadd 0 0 25 0, .watch 25 0 0 0 0, .watch 0 25 0 0 0, .bara 25 0,
    .bars 25 0, .opbind 25 0 0, .opbind 0 25 0, .opunb 25 0, .opunb 0 25,
    .opgnt 25 0 0, .opgnt 0 25 0, .oprev 25 0 0, .oprev 0 25 0, .opstat 25 0 0 0 0,
    .opstat 0 25 0 0 0, .opdisc 25 0 0 0, .opdisc 0 25 0 0, .opgang 25 0 0 0 0, .opgang 0 25 0 0 0,
    .nbld 25 0, .nbld 0 25, .nbcpy 0 25 0 0, .nbcpy 0 0 25 0, .nbz 0 25 0 0,
    .nbz 0 0 25 0, .nbstat 25 0 0, .nbstat 0 25 0, .pmap 25 0 0 0 0, .pmap 0 25 0 0 0,
    .punmap 25 0 0 0, .punmap 0 25 0 0, .tlbi 25 0 0, .poolget 25 0 0 0 0 0, .poolget 0 25 0 0 0 0] = true := by decide +kernel

/-- Ill-formed: a predicate operand above p7 (R28). -/
theorem test_wf_predicate : refusesAll [
    .vcmpeq 0 8 0 0, .vcmplt 0 8 0 0, .vcmple 0 8 0 0, .vpand 8 0 0, .vpand 0 8 0,
    .vpand 0 0 8, .vpor 8 0 0, .vpor 0 8 0, .vpor 0 0 8, .vpxor 8 0 0,
    .vpxor 0 8 0, .vpxor 0 0 8, .vpnot 8 0, .vpnot 0 8, .fcmpeq 0 8 0 0,
    .fcmplt 0 8 0 0, .fcmple 0 8 0 0, .fcmpun 0 8 0 0] = true := by decide +kernel

/-- Ill-formed: an unaligned fixed pair or quad (R29). -/
theorem test_wf_aligned : refusesAll [
    .fdota 0 1 0 0, .adrn 0 0 0 1, .afrom 0 0 1 0, .vld64 0 1 0 0, .vld128 0 1 0 0,
    .vst64 0 1 0 0, .vst128 0 1 0 0, .nbexec 0 0 0 1, .nbcpy 0 0 0 1, .nbz 0 0 0 1] = true := by decide +kernel

/-- Ill-formed: a capability register above k15 (R435). -/
theorem test_wf_capability : refusesAll [
    .csetbnd 0 16 0, .csetbnd 0 0 16, .candperm 0 16 0, .candperm 0 0 16, .cincoff 0 16 0,
    .cincoff 0 0 16, .csetoff 0 16 0, .csetoff 0 0 16, .cseal 16 0 0, .cseal 0 16 0,
    .cseal 0 0 16, .cunseal 16 0 0, .cunseal 0 16 0, .cunseal 0 0 16, .csubset 16 0 0,
    .csubset 0 16 0, .cjalr 16 0 0, .cjalr 0 16 0, .cjalr 0 0 16, .cgetbase 0 16 0,
    .cgetlen 16 0, .cgetperm 16 0, .cgettag 16 0, .cclrtag 16 0, .cclrtag 0 16,
    .clc 0 16 0, .clc 0 0 16, .csc 0 16 0 0, .csc 0 0 16 0] = true := by decide +kernel

/-- Ill-formed: an object that the module does not have. -/
theorem test_wf_object_1 : refusesAll [
    .engineLockRegister 4, .waitSatisfied 0 2, .fenceComplete 0 2, .cwaitComplete 0 2, .xacqGrant 512,
    .allocatorPark 512, .allocatorReturn 512, .barrierWaitEnd 0 2, .dispatchAdmit 16, .dispatchPlaceBlock 16,
    .dispatchReturnBlock 16, .gangReserve 16, .queueEnable 16 0, .queueEnable 0 256, .queueDisable 16 0,
    .queueDisable 0 256, .queueTailRaise 16 0, .queueTailRaise 0 256, .queueRecordRead 16 0, .queueRecordRead 0 256,
    .stage2Resolve 16 0 0 false, .operatorInputStore 512, .heldStoreApply 512, .operatorResultLoad 512, .tileStep 512 0,
    .tileStep 0 32, .trussCellsArrive 512 0, .trussCellsArrive 0 64, .passEnd 512 0, .nbQueueHead 8 0,
    .nbQueueHead 0 2048, .notifyPageWrite 16 0 0, .notifyPageAdd 16 0 0, .queue0TailWrite 16 0, .biasreq 16 0,
    .pcerrClr 16 0, .linkEnable 48 0, .linkEnable 0 20, .linkDisable 48 0, .linkDisable 0 20,
    .linkClear 48 0, .linkClear 0 20, .linkTrained 20 0, .trainingAttemptFail 20, .linkTrainingFailed 20,
    .linkLockLost 20, .flitRetry 20, .urradRd 384 0 0 0 false, .urradRd 0 16 0 0 false, .urradWr 384 0 0 0 0,
    .urradWr 0 16 0 0 0, .urradAmo 384 0 0 0 0 0 0, .urradAmo 0 16 0 0 0 0 0, .urradNtf 384 0 0 false 0, .urradNtf 0 16 0 false 0,
    .hartDeviceAccess 48 false 0 0 0, .contextLoad 16 0, .contextLoad 0 1024, .contextRun 16 0, .contextRun 0 1024] = true := by decide +kernel

/-- Ill-formed: an object that the module does not have. -/
theorem test_wf_object_2 : refusesAll [
    .contextSave 16 0, .contextSave 0 1024, .saveQuiesced 16 0, .saveQuiesced 0 1024, .saveGridEnd 16 0,
    .saveGridEnd 0 1024, .contextRestore 16 0, .contextRestore 0 1024, .restoreGridEnd 16 0, .restoreGridEnd 0 1024,
    .contextDrain 16 0, .contextDrain 0 1024, .contextDestroy 16 0, .contextDestroy 0 1024, .partitionCreate 16,
    .partitionResize 16, .partitionAbort 16, .partitionDestroy 16, .partitionEnter 16, .resizeAdmitEnd 16,
    .resizeDrainEnd 16, .resizeForce 16, .rehashHandover 16, .coreMove 16 0, .pageMove 16,
    .resizeDetach 16, .bootStageVerify 5 false 0 0 0, .tagRefusalLimit 16 0, .tagRefusalLimit 0 1024, .keystoneKillRequest 16 0,
    .keystoneKillRequest 0 1024, .keyStoreError 16 0 false, .keyStoreError 0 1024 false, .mrst 48, .hbmHot 8 0,
    .mstatTripClear 48 0, .mpowMaxwClear 48 0, .windowEntryWrite 48 0 0, .peeringEntryWrite 48 0 0, .secondStageInvalidation 16 0,
    .tenantImageLoad 16 0, .hartTrap 48 0 0, .hartSret 48] = true := by decide +kernel
/-- Ill-formed: MODE with type 15 or with guard p7 inverted (R30), GETS of an index other than 0 into a register above sz,
TAG with CM 3 (R337), and a boot stage that is not 1 to 4 (R445). -/
theorem test_wf_other : refusesAll [
    .mode 0 0 15 0 7, .mode 0 0 0 1 7, .gets 25 1, .nbTag 3, .bootStageVerify 0 false 0 0 0, .bootStageVerify 5 false 0 0 0]
    = true := by decide +kernel

/-- Well-formed: each of those checks at the last value it admits. -/
theorem test_wf_admits : [Instr.sadd 24 24 24, .vpand 7 7 7, .vld128 0 124 24 127, .vld64 0 126 24 127, .csetbnd 15 15 15,
    .mode 0 0 14 0 7, .mode 0 0 0 1 6, .gets 127 0, .gets 24 511, .nbTag 2, .xacqGrant 511, .dispatchAdmit 15, .queueEnable 15 255,
    .nbQueueHead 7 2047].all Instr.wf = true := by decide +kernel

/-! ## Decoding (R25, R26, R45, R336, R440) -/

/-- Each word of a group in a list lies in memory as four bytes, least significant first, that decode to the instruction
beside it; and the encoder gives it back. -/
def decodes (l : List (Nat × Instr)) : Bool :=
  l.all (fun x => decide (decode ((List.range 4).map (fun k => BitVec.ofNat 8 (x.1 / 2 ^ (8 * k)))) = .ok x.2)
    && decide ((encode x.2).toNat = x.1))

/-- The words of R440: opcodes 0x7B and 0x2B, by funct3 and funct7. -/
theorem test_decode_hart : [
    (0b00000000010100011000010101111011, Instr.csetbnd 5 3 10), (0b00000000010100011001010101111011, .candperm 5 3 10),
    (0b00000000010100011010010101111011, .cincoff 5 3 10), (0b00000000010100011011010101111011, .csetoff 5 3 10),
    (0b00000000010100011100010101111011, .cseal 5 3 10), (0b00000010010100011100010101111011, .cunseal 5 3 10),
    (0b00000000010100011101010101111011, .csubset 5 3 10), (0b00000000010100011110010101111011, .cjalr 5 3 10),
    (0b00000000000100011111010101111011, .cgetbase 1 3 10), (0b00000010000000011111010101111011, .cgetlen 3 10),
    (0b00000100000000011111010101111011, .cgetperm 3 10), (0b00000110000000011111010101111011, .cgettag 3 10),
    (0b00001000000000011111010101111011, .cclrtag 3 10), (0b11111111000000011000010100101011, .clc 0xFF0 3 10),
    (0b11111110010100011001100000101011, .csc 0x7F 5 3 16), (0b00000000010100011010010100101011, .wfn 5 3 10),
    (0b00000000010100011011010100101011, .ntfy 5 3 10), (0b00000010010100011011010100101011, .ntfySet 5 3 10)].all
      (fun x => decide (decodeHart (BitVec.ofNat 32 x.1) = some x.2) && decide ((encode x.2).toNat = x.1)) = true := by
  decide +kernel

/-- What R440 makes illegal: a nonzero rs2 of CGETLEN, an unlisted funct7, funct3 4 of 0x2B. -/
theorem test_decode_hart_illegal : [0b00000010000100011111010101111011,
    0b00001010000000011111010101111011, 0b00000000010100011100010100101011].all
      (fun w : Nat => decide (decodeHart (BitVec.ofNat 32 w) = none)) = true := by decide +kernel

/-- The microinstructions of R336 and R337: OPC, IMM12, SJ, ROW, ADD, 15 reserved bits, CM, MASK, KEY. -/
theorem test_decode_nb : [
    (0b0000000000000000000000000000000000000000000000000000000000000000, Instr.nbEnd),
    (0b0001000000000000110000010101010000000000000000000000000000000000, .nbSel 0 0b010101 0b11000001),
    (0b0001000000000000110000010101011000000000000000000000000000000000, .nbSel 1 0b010101 0b11000001),
    (0b0010000000000000000000000000000000000000000000101010101000001111, .nbCmp 2 0b10101010 0b00001111),
    (0b0011000000000000000000000000000000000000000000001010101000001111, .nbWr 0b10101010 0b00001111),
    (0b0100000000000000000000000000000000000000000000100000000000000000, .nbTag 2),
    (0b0101100000000011000000000000000000000000000000000000000000000000, .nbCnt 0b100000000011),
    (0b0110100000000011000000000000000000000000000000000000000000000000, .nbDjnz 0b100000000011)].all
      (fun x => decide (decodeNb (BitVec.ofNat 64 x.1) = some x.2) && decide ((encodeNb x.2).toNat = x.1)) = true := by
  decide +kernel

/-- A nonzero unused field, a reserved bit, a reserved CM and a reserved OPC are no microinstruction (R337). -/
theorem test_decode_nb_reserved : [0b1, 0b0010 * 2 ^ 60 + 2 ^ 20, 0b0100 * 2 ^ 60 + 3 * 2 ^ 16, 0b0111 * 2 ^ 60, 0b0101 * 2 ^ 60 + 1].all
      (fun w : Nat => decide (decodeNb (BitVec.ofNat 64 w) = none)) = true := by decide +kernel

/-- The first opcode beyond each class of R45 is reserved (R47 step 1); a nonzero reserved field of an assigned opcode is
refused as such (R26, R47 step 3). -/
theorem test_decode_reserved :
    [0x01B, 0x05F, 0x0A4, 0x0DD, 0x10C, 0x159, 0x195, 0x1D0].all (fun op : Nat => decodeHarran (BitVec.ofNat 32 (op * 2 ^ 23)) = .reservedOpcode)
      = true ∧
    [0x03000001, 0x20200000, 0x84888000, 0xE0000008].all (fun w : Nat => decodeHarran (BitVec.ofNat 32 w) = .reservedBits) = true := by
  decide +kernel

/-- Class 0: the opcode of R45 at [31:23], the fields of each entry at the places of its format (R25). -/
theorem test_decode_control : decodes [
    (0b00000000000000000000000000000000, .nop),
    (0b00000000110000000000000001000011, .bra 4194371),
    (0b00000001000011011000000000010011, .bc 1 5 32787),
    (0b00000001100011011000000000010011, .bany 1 5 32787),
    (0b00000010000011011000000000010011, .ball 1 5 32787),
    (0b00000010100000001000000001000011, .jset 32835),
    (0b00000011000000000000000000000000, .join),
    (0b00000011110000000000000001000011, .call 4194371),
    (0b00000100000000000000000000000000, .ret),
    (0b00000100100000001000011100100101, .jr 67 293),
    (0b00000101000000000000000000000000, .exit),
    (0b00000101100000000000010110110101, .mode 1 1 11 0 5),
    (0b00000110010000000000000001000011, .lit 4194371),
    (0b00000110100000000000000000000011, .xacq 3),
    (0b00000111000000000000000000000011, .xrel 3),
    (0b00000111100011011000000000010011, .rgb 1 5 32787),
    (0b00001000010000111000000000100101, .refill 67 32805),
    (0b00001000110000110100101100010011, .itemp 67 37 275),
    (0b00001001000000000000000000000000, .yield),
    (0b00001001110000000000000001000011, .brk 4194371),
    (0b00001010010000000000000001000011, .sysc 4194371),
    (0b00001010100000000000000000000001, .trapret 1),
    (0b00001011000000000000000000000001, .sret 1),
    (0b00001011100000000000000000000011, .vsw 3),
    (0b00001100010000110100101100010011, .claunch 67 37 275),
    (0b00001100100000000000000000000000, .cwait),
    (0b00001101010000110100101100010011, .capr 67 37 275)] = true := by decide +kernel

/-- Class 1: the opcode of R45 at [31:23], the fields of each entry at the places of its format (R25). -/
theorem test_decode_scalar : decodes [
    (0b00100000000100001100000000100101, .smov 67 37),
    (0b00100000110000111000000000100101, .sli 67 32805),
    (0b00100001000100001101001010010011, .sadd 67 37 19),
    (0b00100001110000110100101100010011, .saddi 67 37 275),
    (0b00100010000100001101001010010011, .ssub 67 37 19),
    (0b00100010100100001101001010010011, .smul 67 37 19),
    (0b00100011000100001101001010010011, .smulh 67 37 19),
    (0b00100011100100001101001010010011, .smulhu 67 37 19),
    (0b00100100000100001101001010010011, .sdiv 67 37 19),
    (0b00100100100100001101001010010011, .sdivu 67 37 19),
    (0b00100101000100001101001010010011, .srem 67 37 19),
    (0b00100101100100001101001010010011, .sremu 67 37 19),
    (0b00100110000100001101001010010011, .sand 67 37 19),
    (0b00100110100100001101001010010011, .sor 67 37 19),
    (0b00100111000100001101001010010011, .sxor 67 37 19),
    (0b00100111100100001101001010010011, .sshl 67 37 19),
    (0b00101000000100001101001010010011, .sshr 67 37 19),
    (0b00101000100100001101001010010011, .ssra 67 37 19),
    (0b00101001000100001101001010010011, .smin 67 37 19),
    (0b00101001100100001101001010010011, .smax 67 37 19),
    (0b00101010000100001101001010010011, .sminu 67 37 19),
    (0b00101010100100001101001010010011, .smaxu 67 37 19),
    (0b00101011000100001100000000100101, .sclz 67 37),
    (0b00101011100100001100000000100101, .spopc 67 37),
    (0b00101100000100001101001010010011, .ssetlt 67 37 19),
    (0b00101100100100001101001010010011, .ssetltu 67 37 19),
    (0b00101101000100001101001010010011, .sseteq 67 37 19),
    (0b00101101110000110000000100100101, .gets 67 293),
    (0b00101110000000001000011100100101, .puts 67 293),
    (0b00101110100100001100000000100101, .sbcast 67 37),
    (0b00101111011010010100100111101001, .slane 3 37 19 105)] = true := by decide +kernel

/-- Class 2: the opcode of R45 at [31:23], the fields of each entry at the places of its format (R25). -/
theorem test_decode_vector_integer : decodes [
    (0b01000000011010010100000000010011, .vmov 3 37 19),
    (0b01000000111010010100100111101001, .vadd 3 37 19 105),
    (0b01000001011010010100100111101001, .vsub 3 37 19 105),
    (0b01000001111010010100100111101001, .vmul 3 37 19 105),
    (0b01000010011010010100100111101001, .vmulh 3 37 19 105),
    (0b01000010111010010100100111101001, .vmad 3 37 19 105),
    (0b01000011011010010100100111101001, .vmin 3 37 19 105),
    (0b01000011111010010100100111101001, .vmax 3 37 19 105),
    (0b01000100011010010100100110000000, .vabs 3 37 19),
    (0b01000100111010010100100110000000, .vneg 3 37 19),
    (0b01000101011010010100100111101001, .vand 3 37 19 105),
    (0b01000101111010010100100111101001, .vor 3 37 19 105),
    (0b01000110011010010100100111101001, .vxor 3 37 19 105),
    (0b01000110111010010100100110000000, .vnot 3 37 19),
    (0b01000111011010010100100111101001, .vshl 3 37 19 105),
    (0b01000111111010010100100111101001, .vshr 3 37 19 105),
    (0b01001000011010010100100111101001, .vsra 3 37 19 105),
    (0b01001000111010010100100110000000, .vclz 3 37 19),
    (0b01001001011010010100100110000000, .vpopc 3 37 19),
    (0b01001001111010010100100111101001, .vbfx 3 37 19 105),
    (0b01001010011010010100100111101001, .vbfi 3 37 19 105),
    (0b01001010111010010100100111101001, .vsel 3 37 19 105),
    (0b01001011011010010100100111101001, .vcmpeq 3 37 19 105),
    (0b01001011111010010100100111101001, .vcmplt 3 37 19 105),
    (0b01001100011010010100100111101001, .vcmple 3 37 19 105),
    (0b01001100100100001101001010010011, .vpand 67 37 19),
    (0b01001101000100001101001010010011, .vpor 67 37 19),
    (0b01001101100100001101001010010011, .vpxor 67 37 19),
    (0b01001110000100001101001010000000, .vpnot 67 37),
    (0b01001110111010010100100111101001, .vshfl 3 37 19 105),
    (0b01001111011010010100100110000000, .vradd 3 37 19),
    (0b01001111111010010100100110000000, .vrmin 3 37 19),
    (0b01010000011010010100100110000000, .vrmax 3 37 19),
    (0b01010000111010010100100110000000, .vscan 3 37 19),
    (0b01010001011010010100100111101001, .vlane 3 37 19 105),
    (0b01010001110000110100101100010011, .vaddi 67 37 275)] = true := by decide +kernel

/-- Class 3: the opcode of R45 at [31:23], the fields of each entry at the places of its format (R25). -/
theorem test_decode_vector_float : decodes [
    (0b01100000011010010100100111101001, .fadd 3 37 19 105),
    (0b01100000111010010100100111101001, .fsub 3 37 19 105),
    (0b01100001011010010100100111101001, .fmul 3 37 19 105),
    (0b01100001111010010100100111101001, .fma 3 37 19 105),
    (0b01100010011010010100100111101001, .fms 3 37 19 105),
    (0b01100010111010010100100111101001, .fnma 3 37 19 105),
    (0b01100011011010010100100111101001, .fmin 3 37 19 105),
    (0b01100011111010010100100111101001, .fmax 3 37 19 105),
    (0b01100100011010010100100110000000, .fabs 3 37 19),
    (0b01100100111010010100100110000000, .fneg 3 37 19),
    (0b01100101011010010100100111101001, .fcmpeq 3 37 19 105),
    (0b01100101111010010100100111101001, .fcmplt 3 37 19 105),
    (0b01100110011010010100100111101001, .fcmple 3 37 19 105),
    (0b01100110111010010100100111101001, .fcmpun 3 37 19 105),
    (0b01100111011010010100100111101001, .fdiv 3 37 19 105),
    (0b01100111111010010100100110000000, .fsqrt 3 37 19),
    (0b01101000011010010100100110000000, .frcp 3 37 19),
    (0b01101000111010010100100110000000, .frsq 3 37 19),
    (0b01101001011010010100100110000000, .fexp2 3 37 19),
    (0b01101001111010010100100110000000, .flog2 3 37 19),
    (0b01101010011010010100100110000000, .fsin 3 37 19),
    (0b01101010111010010100100110000000, .fcos 3 37 19),
    (0b01101011011010010100100110000000, .ftanh 3 37 19),
    (0b01101011111010010100100110000000, .fclass 3 37 19),
    (0b01101100011010010100100110000000, .frint 3 37 19),
    (0b01101100111010010100100110000000, .fradd 3 37 19),
    (0b01101101011010010100100111101001, .fdota 3 37 19 105),
    (0b01101101111010010100100111101001, .aadd 3 37 19 105),
    (0b01101110011010010100100110000000, .areda 3 37 19)] = true := by decide +kernel

/-- Class 4: the opcode of R45 at [31:23], the fields of each entry at the places of its format (R25). -/
theorem test_decode_convert : decodes [
    (0b10000000000000001101001010010011, .cvt 3 37 19),
    (0b10000000100000001101001010010011, .cvti 3 37 19),
    (0b10000001011010010100100111101001, .pack 3 37 19 105),
    (0b10000001111010010100100111101001, .unpk 3 37 19 105),
    (0b10000010001111001111010010010101, .qnt 3 1 19 105 21),
    (0b10000010101111001111010010010101, .dqnt 3 1 19 105 21),
    (0b10000011001100010100100111101001, .hadr 3 5 19 105),
    (0b10000011101100010100100111101001, .hadi 3 5 19 105),
    (0b10000100011010010100100111101001, .amax 3 37 19 105),
    (0b10000100101100000100100111101001, .adrn 3 1 19 105),
    (0b10000101001100000100100111101001, .afrom 3 1 19 105),
    (0b10000101110000110000000000101011, .fslt 67 5 3)] = true := by decide +kernel

/-- Class 5: the opcode of R45 at [31:23], the fields of each entry at the places of its format (R25). -/
theorem test_decode_memory : decodes [
    (0b10100000000110100101100111101001, .vld8 3 37 19 105),
    (0b10100000100110100101100111101001, .vld16 3 37 19 105),
    (0b10100001000110100101100111101001, .vld32 3 37 19 105),
    (0b10100001100110100101100111101001, .vld64 3 37 19 105),
    (0b10100010000110100101100111101001, .vld128 3 37 19 105),
    (0b10100010100110100101100111101001, .vst8 3 37 19 105),
    (0b10100011000110100101100111101001, .vst16 3 37 19 105),
    (0b10100011100110100101100111101001, .vst32 3 37 19 105),
    (0b10100100000110100101100111101001, .vst64 3 37 19 105),
    (0b10100100100110100101100111101001, .vst128 3 37 19 105),
    (0b10100101000110100101100110000000, .sld 3 37 19),
    (0b10100101100110100101100110000000, .sst 3 37 19),
    (0b10100110000110100101100111101001, .vldc 3 37 19 105),
    (0b10100110100000000000000110100101, .pft 3 37),
    (0b10100111000100001101001010010011, .cpy 67 37 19),
    (0b10100111100100001101001010010011, .cpyb 67 37 19),
    (0b10101000000000110101001110010101, .wait 3 5 3 9 5),
    (0b10101000100000000000000000000011, .fence 3),
    (0b10101001000000000000000110100101, .flush 3 37),
    (0b10101001100000000000000110100101, .invl 3 37),
    (0b10101010000000000000000110100101, .zero 3 37),
    (0b10101010100001000011001010000000, .sealst 67 5),
    (0b10101011000001000011001010000000, .sealld 67 5),
    (0b10101011100100001101001010000000, .sealfin 67 37),
    (0b10101100000100001101001010000000, .sealchk 67 37)] = true := by decide +kernel

/-- Class 6: the opcode of R45 at [31:23], the fields of each entry at the places of its format (R25). -/
theorem test_decode_atomics : decodes [
    (0b11000000000110100101100111101001, .amoadd 3 37 19 105),
    (0b11000000100110100101100111101001, .amomin 3 37 19 105),
    (0b11000001000110100101100111101001, .amomax 3 37 19 105),
    (0b11000001100110100101100111101001, .amominu 3 37 19 105),
    (0b11000010000110100101100111101001, .amomaxu 3 37 19 105),
    (0b11000010100110100101100111101001, .amoand 3 37 19 105),
    (0b11000011000110100101100111101001, .amoor 3 37 19 105),
    (0b11000011100110100101100111101001, .amoxor 3 37 19 105),
    (0b11000100000110100101100111101001, .amoswp 3 37 19 105),
    (0b11000100100110100101100111101001, .amofadd 3 37 19 105),
    (0b11000101000110100101100111101001, .amoaadd 3 37 19 105),
    (0b11000101100110100101100111101001, .cas 3 37 19 105),
    (0b11000110000110100101100111101001, .redadd 3 37 19 105),
    (0b11000110100110100101100111101001, .redmin 3 37 19 105),
    (0b11000111000110100101100111101001, .redmax 3 37 19 105),
    (0b11000111100110100101100111101001, .redfadd 3 37 19 105),
    (0b11001000000110100101100111101001, .redaadd 3 37 19 105),
    (0b11001000110000110100101000111101, .watch 67 37 3 1 5),
    (0b11001001010000110000000000000101, .bara 67 5),
    (0b11001001100000000000000000000011, .barw 3),
    (0b11001010010000110000000000000101, .bars 67 5)] = true := by decide +kernel

/-- Class 7: the opcode of R45 at [31:23], the fields of each entry at the places of its format (R25). -/
theorem test_decode_operators_and_system : decodes [
    (0b11100000010000110100101000000011, .opbind 67 37 3),
    (0b11100000110000110100101000000000, .opunb 67 37),
    (0b11100001010000110100101000000011, .opgnt 67 37 3),
    (0b11100001110000110100101000000011, .oprev 67 37 3),
    (0b11100010010000110100101110010101, .opstat 67 37 3 1 5),
    (0b11100010110000110100101000011001, .opdisc 67 37 1 9),
    (0b11100011010000110100101000111101, .opgang 67 37 3 1 5),
    (0b11100011110000110100101000000000, .nbld 67 37),
    (0b11100100011010010100100111101001, .nbexec 3 37 19 105),
    (0b11100100111010010100100111101001, .nbcpy 3 37 19 105),
    (0b11100101011010010100100111101001, .nbz 3 37 19 105),
    (0b11100101110000110100101000000011, .nbstat 67 37 3),
    (0b11100110010000110100101000001101, .pmap 67 37 1 1 1),
    (0b11100110110000110100101000000101, .punmap 67 37 1 1),
    (0b11100111000000001000011001010011, .tlbi 67 1 19),
    (0b11100111110000110100101000011101, .poolget 67 37 1 1 1 1)] = true := by decide +kernel
/-! ## Small states -/

/-- The checks of `Ready`, computed. -/
def readyB (s : State) (gid side : Nat) (g : Group) (ps ss : List Nat) (vs : List (Nat × Nat)) : Bool :=
  decide (s.issuer = .slot gid side) && decide (tget s.groups gid = some g) && mayIssue s g (slotOf g side)
    && ps.all (fun r => decide (r ≤ 7)) && ss.all (fun r => decide (r ≤ 24))
    && vs.all (fun v => decide (v.1 % v.2 = 0) && decide (v.1 + v.2 ≤ 32 + 32 * g.held))
    && g.out.all (fun o => decide (o.cls ≠ .ld)
      || o.regs.all (fun r => decide (r ∉ ss.map (· + 200) ++ vs.flatMap (fun v => (List.range v.2).map (· + v.1)))))

theorem ready_of {s : State} {gid side : Nat} {g : Group} {ps ss : List Nat} {vs : List (Nat × Nat)}
    (h : readyB s gid side g ps ss vs = true) : Ready s gid side g ps ss vs := by
  simp only [readyB, Bool.and_eq_true, decide_eq_true_eq, List.all_eq_true, Bool.or_eq_true] at h
  obtain ⟨⟨⟨⟨⟨⟨h1, h2⟩, h3⟩, h4⟩, h5⟩, h6⟩, h7⟩ := h
  exact ⟨⟨h1, h2, h3⟩, h4, h5, h6, fun o ho hc r hr => (h7 o ho).resolve_left (fun hn => hn hc) r hr⟩

/-- No literal is pending, computed. -/
theorem noLit {g : Group} {side : Nat} (h : (slotOf g side).lc = 0) : ¬LitPending g side := fun hp => hp h

/-- A group with four lanes active, some scalar, vector and predicate registers, at the given level. -/
def g0 : Group :=
  { stageGroup 0 with
    a := { Slot.free with live := true, pc := stagePc, exec := 0xF, mr := 7 }
    s := [(1, 5), (2, 0xFFFFFFFFFFFFFFFD)]
    v := [(32, 1), (33, 2), (34, 0xFFFFFFFF), (35, 0x80000000), (64, 10), (65, 0xFFFFFFFE), (66, 30), (67, 1)]
    p := [(0, 0x5)] }

/-- The block of the group. -/
def b0 : Block := { stageBlock with
  desc := { stageDesc with barriers := 2 }, bars := List.replicate 2 { phase := 7, arrived := [], expect := none, gathering := false }
  items := [[(100, 2), (200, 1)]], itemq := 3 }

/-- The module with these groups and the block, group 0 about to issue from slot A. -/
def stN (b : Block) (gs : List (Nat × Group)) : State :=
  { staged State.reset 0 with
    blocks := [(0, b)], grids := [(0, stageGrid)], groups := gs, issuer := .slot 0 0, uid := 100 }

def st (b : Block) (g : Group) : State := stN b [(0, g)]

/-- The module with the group of the tests. -/
def s0 : State := st b0 g0

/-- Group 0 after an instruction. -/
def ran (i : Instr) (s : State) : Option Group := (nextOf (exec i s)).bind (fun t => tget t.groups 0)


/-! ## Witnesses: classes 1 to 4 -/

/-- The group with element type code `e` in force. -/
def gT (e : Nat) : Group := { g0 with a := { g0.a with mr := BitVec.ofNat 11 (16 * e + 7) } }
def sT (e : Nat) : State := st b0 (gT e)

theorem witness_ScalarArithmetic : Ready s0 0 0 g0 [] [3, 1, 2] [] ∧ converged g0 = true ∧ (LitPending g0 0 → (2 : BitVec 7) = 0) :=
  ⟨ready_of (by decide +kernel), by decide +kernel, fun h => absurd h (noLit rfl)⟩

theorem witness_ScalarLogic : Ready s0 0 0 g0 [] [24, 1, 0] [] ∧ converged g0 = true ∧ (LitPending g0 0 → (0 : BitVec 7) = 0) :=
  ⟨ready_of (by decide +kernel), by decide +kernel, fun _ => rfl⟩

theorem witness_ScalarMoves : converged (gT 6) = true ∧ Ready (sT 6) 0 0 (gT 6) [] [3, 2] [] ∧ Ready (sT 6) 0 0 (gT 6) [] [3] []
    ∧ Ready (sT 6) 0 0 (gT 6) [] [3, 1] [] ∧ typeOf (gT 6) 0 = some .f32 ∧ ET.f32 ≠ .a96 ∧ ¬LitPending (gT 6) 0
    ∧ Ready (sT 6) 0 0 (gT 6) [] [2] [(4, etRegs .f32)] ∧ Ready (sT 6) 0 0 (gT 6) [] [3, 2] [(8, etRegs .f32)] :=
  ⟨by decide +kernel, ready_of (by decide +kernel), ready_of (by decide +kernel), ready_of (by decide +kernel), by decide +kernel,
    by decide, noLit rfl, ready_of (by decide +kernel), ready_of (by decide +kernel)⟩

theorem witness_VectorArithmetic : typeOf (gT 11) 0 = some .i64 ∧ ¬LitPending (gT 11) 0
    ∧ Ready (sT 11) 0 0 (gT 11) [] [] [(4, etRegs .i64), (8, etRegs .i64), (12, etRegs .i64)]
    ∧ Ready (sT 11) 0 0 (gT 11) [] [] [(8, etRegs .i64), (8, etRegs .i64)] :=
  ⟨by decide +kernel, noLit rfl, ready_of (by decide +kernel), ready_of (by decide +kernel)⟩

theorem witness_VectorBits : typeOf (gT 11) 0 = some .i64 ∧ ¬LitPending (gT 11) 0
    ∧ Ready (sT 11) 0 0 (gT 11) [] [] [(4, 2), (8, 2), (12, 2)] ∧ Ready (sT 11) 0 0 (gT 11) [] [] [(4, 2), (8, 2), (13, 1)]
    ∧ Ready (sT 11) 0 0 (gT 11) [] [] [(4, 2), (8, 2)] :=
  ⟨by decide +kernel, noLit rfl, ready_of (by decide +kernel), ready_of (by decide +kernel), ready_of (by decide +kernel)⟩

theorem witness_VectorPredicates : typeOf (gT 5) 0 = some .ui8x4 ∧ ¬LitPending (gT 5) 0
    ∧ Ready (sT 5) 0 0 (gT 5) [7] [] [(8, etRegs .ui8x4), (9, etRegs .ui8x4)]
    ∧ Ready (sT 5) 0 0 (gT 5) [1, 0, 7] [] [] ∧ Ready (sT 5) 0 0 (gT 5) [0, 0] [] [] :=
  ⟨by decide +kernel, noLit rfl, ready_of (by decide +kernel), ready_of (by decide +kernel), ready_of (by decide +kernel)⟩

theorem witness_VectorAcross : typeOf (gT 3) 0 = some .ui16x2 ∧ ¬LitPending (gT 3) 0
    ∧ Ready (sT 3) 0 0 (gT 3) [] [] [(4, 1), (8, 1), (9, 1)] ∧ Ready (sT 3) 0 0 (gT 3) [] [2] [(8, 1), (8, 1)]
    ∧ Ready (sT 3) 0 0 (gT 3) [] [] [(4, 1), (8, 1)] :=
  ⟨by decide +kernel, noLit rfl, ready_of (by decide +kernel), ready_of (by decide +kernel), ready_of (by decide +kernel)⟩

theorem witness_FloatArithmetic : typeOf (gT 8) 0 = some .bf16x2 ∧ ¬LitPending (gT 8) 0
    ∧ Ready (sT 8) 0 0 (gT 8) [] [] [(4, 1), (8, 1), (9, 1)] ∧ Ready (sT 8) 0 0 (gT 8) [] [] [(8, 1), (8, 1)] :=
  ⟨by decide +kernel, noLit rfl, ready_of (by decide +kernel), ready_of (by decide +kernel)⟩

theorem witness_FloatFunctionsAndCompares : typeOf (gT 7) 0 = some .f16x2 ∧ ¬LitPending (gT 7) 0
    ∧ Ready (sT 7) 0 0 (gT 7) [] [] [(4, 1), (8, 1)] ∧ Ready (sT 7) 0 0 (gT 7) [0] [] [(8, 1), (9, 1)] :=
  ⟨by decide +kernel, noLit rfl, ready_of (by decide +kernel), ready_of (by decide +kernel)⟩

/-- A NaN and a number of FP32 (R70), for the clauses on FMIN and FMAX. -/
theorem witness_FloatSpecialValues : fDecode .f32 0x7FC00000 = .nan ∧ fDecode .f32 0x3F800000 ≠ .nan := by decide +kernel

theorem witness_FloatReductions : typeOf (gT 6) 0 = some .f32 ∧ typeOf (gT 14) 0 = some .a96 ∧ ¬LitPending (gT 6) 0
    ∧ ¬LitPending (gT 14) 0 ∧ capOn (sT 6) (reqOf (sT 6) (gT 6)).part capA96 = true
    ∧ capOn (sT 14) (reqOf (sT 14) (gT 14)).part capA96 = true ∧ Ready (sT 6) 0 0 (gT 6) [] [] [(4, 1), (8, 1)]
    ∧ Ready (sT 6) 0 0 (gT 6) [] [] [(4, 4), (8, 1), (9, 1)] ∧ Ready (sT 14) 0 0 (gT 14) [] [] [(4, 4), (8, 4), (16, 4)]
    ∧ Ready (sT 14) 0 0 (gT 14) [] [] [(4, 4), (8, 4)] :=
  ⟨by decide +kernel, by decide +kernel, noLit rfl, noLit rfl, by decide +kernel, by decide +kernel, ready_of (by decide +kernel),
    ready_of (by decide +kernel), ready_of (by decide +kernel), ready_of (by decide +kernel)⟩

/-- FP32 to FP16x2: two source registers for one destination; and codes of four bits in the format slot. -/
theorem witness_Conversions : typeOf (gT 6) 0 = some .f32 ∧ etOfCode (7 : BitVec 4).toNat = some .f16x2
    ∧ Ready (sT 6) 0 0 (gT 6) [] [] [(4, 1), (8, 1), (4, 1), (8, 2)] ∧ etOfCode (2 : BitVec 4).toNat = some .i16x2
    ∧ (etFloat .f32 = none ∨ etFloat .i16x2 = none)
    ∧ Ready (sT 6) 0 0 (gT 6) [] [] [(4, 1), (8, 1), (4, 1), (8, 4)] ∧ Ready (sT 6) 0 0 (gT 6) [] [] [(4, 1), (8, 1), (4, 4), (8, 1)] :=
  ⟨by decide +kernel, by decide +kernel, ready_of (by decide +kernel), by decide +kernel, by decide, ready_of (by decide +kernel),
    ready_of (by decide +kernel)⟩

theorem witness_PackingAndBlocks : typeOf (gT 7) 0 = some .f16x2 ∧ ¬LitPending (gT 7) 0
    ∧ Ready (sT 7) 0 0 (gT 7) [] [] [(4, 1), (8, 1), (9, 1)] ∧ activeOf (gT 7) 0 ≠ 0
    ∧ Ready (sT 7) 0 0 (gT 7) [] [1] [(4, 1), (8, 1), (4, 1), (8, 1)]
    ∧ typeOf (gT 6) 0 = some .f32 ∧ Ready (sT 6) 0 0 (gT 6) [] [1] [(4, 1), (8, 1), (4, 2), (8, 2)] :=
  ⟨by decide +kernel, noLit rfl, ready_of (by decide +kernel), by decide +kernel, ready_of (by decide +kernel), by decide +kernel,
    ready_of (by decide +kernel)⟩

theorem witness_CellsAndSlots : capOn (sT 7) (reqOf (sT 7) (gT 7)).part capA96 = true ∧ typeOf (gT 7) 0 = some .f16x2
    ∧ Ready (sT 7) 0 0 (gT 7) [] [] [(4, 1), (8, 4)] ∧ Ready (sT 7) 0 0 (gT 7) [] [] [(4, 4), (8, 1)]
    ∧ converged (gT 7) = true ∧ ¬LitPending (gT 7) 0 ∧ Ready (sT 7) 0 0 (gT 7) [] [3] [] :=
  ⟨by decide +kernel, by decide +kernel, ready_of (by decide +kernel), ready_of (by decide +kernel), by decide +kernel, noLit rfl,
    ready_of (by decide +kernel)⟩

/-! ## Witnesses: class 0 -/

/-- What a record read gave, as data. -/
def wordsOf (r : RecRes) : Option (List DWord) :=
  match r with
  | .words w => some w
  | _ => none
theorem words_of {r : RecRes} {w : List DWord} (h : wordsOf r = some w) : r = .words w := by
  cases r <;> simp_all [wordsOf]

/-- Targets in scalar register 1 and, as a link, in v31:v30 of lane 0. -/
def gC : Group := { g0 with s := [(1, stagePc)], v := [(32 * 30, stagePc.setWidth 32), (32 * 31, (stagePc >>> 32).setWidth 32)] }
def sC : State := st b0 gC
/-- A pending join latch, and a second live slot. -/
def gJ : Group := { g0 with a := { g0.a with jp := true, jpc := stagePc + 400 } }
def gJ2 : Group := { gJ with b := { g0.a with exec := 0xF0, pc := stagePc + 64 } }
/-- A waiting entry at the slot's own PC, whose other lanes have arrived, under one that waits elsewhere. -/
def eW : SEntry := { pc := stagePc, mrs := 7, mask := 0xFF, arr := 0xF0 }
def eE : SEntry := { pc := stagePc + 8, mrs := 7, mask := 0xFF, arr := 0xF0 }
def gStk : Group := { g0 with stack := [eW, eE] }
def eR (m : Word) : SEntry := { pc := stagePc + 16, mrs := 7, mask := m, arr := m }

theorem witness_ControlFlow : Ready sC 0 0 gC [] [] [] ∧ pcValid ((slotOf gC 0).pc + 4 * (9 : BitVec 23).signExtend 64) = true
    ∧ (slotOf gC 0).lc ≠ 3 ∧ ¬LitPending gC 0 ∧ Ready sC 0 0 gC [0] [] [] ∧ Ready sC 0 0 gC [7] [] []
    ∧ (slotOf gC 0).exec &&& preg gC 0 ≠ 0 ∧ (slotOf gC 0).exec &&& preg gC 1 = 0
    ∧ (slotOf gC 0).exec &&& preg gC 7 = (slotOf gC 0).exec ∧ (slotOf gC 0).exec &&& preg gC 0 ≠ (slotOf gC 0).exec
    ∧ pcValid ((slotOf gC 0).pc + 4 * immOf gC 0 (9 : BitVec 16)) = true ∧ Ready sC 0 0 gC [] [] [(30, 1), (31, 1)]
    ∧ (slotOf gC 0).exec.getLsbD 0 = true ∧ vreg gC 31 0 ++ vreg gC 30 0 = stagePc ∧ pcValid stagePc = true
    ∧ Ready sC 0 0 gC [] [1] [] ∧ pcValid (sreg gC 1 + 4 * immOf gC 0 (9 : BitVec 9)) = true :=
  ⟨ready_of (by decide +kernel), by decide +kernel, by decide, noLit rfl, ready_of (by decide +kernel), ready_of (by decide +kernel),
    by decide +kernel, by decide +kernel, by decide +kernel, by decide +kernel, by decide +kernel, ready_of (by decide +kernel),
    by decide +kernel, by decide +kernel, by decide +kernel, ready_of (by decide +kernel), by decide +kernel⟩

/-- The four cases of a divergent branch: no lane, every lane, some with a free slot, some with none; and the two of
JOIN. -/
theorem witness_DivergenceAndJoin : (∀ p ∈ [0, 1, 7], Ready (st b0 gJ) 0 0 gJ [p] [] []) ∧ ¬LitPending gJ 0 ∧ (slotOf gJ 0).jp = true
    ∧ (slotOf gJ 0).exec &&& preg gJ 1 = 0 ∧ (slotOf gJ 0).exec &&& ~~~((slotOf gJ 0).exec &&& preg gJ 7) = 0
    ∧ (slotOf gJ 0).exec &&& preg gJ 0 ≠ 0 ∧ (slotOf gJ 0).exec &&& ~~~((slotOf gJ 0).exec &&& preg gJ 0) ≠ 0
    ∧ pcValid ((slotOf gJ 0).pc + 4 * immOf gJ 0 (9 : BitVec 16)) = true ∧ (slotOf gJ 1).live = false ∧ gJ.stack.length ≤ 63
    ∧ Ready (st b0 gJ2) 0 0 gJ2 [0] [] [] ∧ (slotOf gJ2 1).live = true ∧ gJ2.stack.length ≤ 62
    ∧ Ready (st b0 gStk) 0 0 gStk [] [] [] ∧ gStk.stack = [] ++ eW :: [eE]
    ∧ (eW.arr ≠ eW.mask ∧ eW.pc = (slotOf gStk 0).pc ∧ (slotOf gStk 0).exec &&& ~~~eW.mask = 0) ∧ eE.pc ≠ (slotOf gStk 0).pc
    ∧ g0.stack = [] :=
  ⟨fun p hp => by
      simp only [List.mem_cons, List.not_mem_nil, or_false] at hp
      rcases hp with rfl | rfl | rfl <;> exact ready_of (by decide +kernel),
    noLit rfl, rfl, by decide +kernel, by decide +kernel, by decide +kernel, by decide +kernel, by decide +kernel, rfl, by decide,
    ready_of (by decide +kernel), rfl, by decide, ready_of (by decide +kernel), rfl, by decide +kernel, by decide +kernel, rfl⟩

theorem witness_FreeSlotsRefill :
    (gJ2.a.live = true ∧ gJ2.b.live = true) ∧ (∀ x ∈ gStk.stack, ¬x.arr = x.mask)
    ∧ (let g := { g0 with stack := [eW] ++ eR 0xF :: [eE] }
      (eR 0xF).arr = (eR 0xF).mask ∧ (∀ x ∈ [eE], ¬x.arr = x.mask) ∧ (∀ x ∈ [eW], ¬x.arr = x.mask) ∧ g.a.live = true ∧ g.b.live = false
        ∧ ({ g with a := Slot.free, b := g.a } : Group).a.live = false ∧ ({ g with a := Slot.free, b := g.a } : Group).b.live = true)
    ∧ (let g := { g0 with a := Slot.free, stack := [eE] ++ eR 1 :: [eW] ++ eR 2 :: [eE] }
      g.a.live = false ∧ g.b.live = false ∧ (eR 1).arr = (eR 1).mask ∧ (eR 2).arr = (eR 2).mask ∧ (∀ x ∈ [eW], ¬x.arr = x.mask)
        ∧ (∀ x ∈ [eE], ¬x.arr = x.mask)) := by decide +kernel

/-- What is left of a group after an EXIT, as the statement gives it. -/
def afterExit (g : Group) (side : Nat) : Group :=
  let sl := slotOf g side
  let x := activeOf g side
  let rest := sl.exec &&& ~~~x
  let cut := fun e : SEntry => { e with mask := e.mask &&& ~~~x, arr := e.arr &&& ~~~x }
  let left := fun e : SEntry => if e.arr ≠ e.mask ∧ (cut e).arr = (cut e).mask then { cut e with pc := e.pc + 4 } else cut e
  refill (setSlot { g with stack := (g.stack.map left).filter (fun e => decide (e.mask ≠ 0)) } side
    (if rest = 0 then Slot.free else { slotAt sl (sl.pc + 4) with exec := rest }))

/-- The guards p1 (no lane), p0 (some lanes) and none (all lanes); another group of the workgroup; a load outstanding. -/
def gGuard (p : BitVec 11) : Group := { g0 with a := { g0.a with mr := p } }
def mate : Group := { g0 with idx := 1, grpid := 1 }
def oLd : Out :=
  { uid := 3, cls := .ld, sem := 0, regs := [3], vw := [(100, 4)], sw := none, stores := [], zero := false, pend := 0, fin := false
    sealed := false, lanes := none, rmw := false }
def gOwed : Group := { g0 with out := [oLd] }

theorem witness_ExitEndsLanes :
    (Ready (st b0 (gGuard 1)) 0 0 (gGuard 1) [] [] [] ∧ activeOf (gGuard 1) 0 = 0)
    ∧ (Ready (st b0 (gGuard 0)) 0 0 (gGuard 0) [] [] [] ∧ activeOf (gGuard 0) 0 ≠ 0 ∧ (afterExit (gGuard 0) 0).a.live = true)
    ∧ (∀ g, g = g0 ∨ g = gOwed → Ready (stN b0 [(0, g), (1, mate)]) 0 0 g [] [] [] ∧ activeOf g 0 ≠ 0
      ∧ (afterExit g 0).a.live = false ∧ (afterExit g 0).b.live = false ∧ (afterExit g 0).stack = []
      ∧ tget (stN b0 [(0, g), (1, mate)]).groups 1 = some mate ∧ mate.blk = g.blk ∧ mate.wgid = g.wgid ∧ mate.st = .resident
      ∧ rgbAt mate = none ∧ tget (stN b0 [(0, g), (1, mate)]).blocks g.blk = some b0 ∧ b0.joint = false)
    ∧ g0.out = [] ∧ gOwed.out ≠ [] := by
  refine ⟨⟨ready_of (by decide +kernel), by decide +kernel⟩, ⟨ready_of (by decide +kernel), by decide +kernel, by decide +kernel⟩,
    ?_, rfl, by decide⟩
  rintro g (rfl | rfl)
  · exact ⟨ready_of (by decide +kernel), by decide +kernel⟩
  · exact ⟨ready_of (by decide +kernel), by decide +kernel⟩

/-- A block whose variant may acquire two blocks of registers, and groups that hold none, one and two. -/
def bX : Block := { b0 with desc := { b0.desc with variants := [{ stageVariant with xblk := 2 }] } }
def gX (n : Nat) : Group := { g0 with held := n }
theorem witness_AgeAndBlocks : converged g0 = true ∧ ¬LitPending g0 0
    ∧ (∀ n, n ≤ 2 → Ready (st bX (gX n)) 0 0 (gX n) [] [] []) ∧ tget (st bX (gX 1)).blocks (gX 1).blk = some bX
    ∧ (1 : BitVec 2).toNat ≤ (variantOf bX).xblk ∧ (1 : BitVec 2).toNat ≤ (gX 1).held ∧ (gX 1).held < (2 : BitVec 2).toNat
    ∧ Ready (st bX (gX 2)) 0 0 (gX 2) [] []
        ((List.range (32 * ((gX 2).held - (1 : BitVec 2).toNat))).map (fun k => (32 + 32 * (1 : BitVec 2).toNat + k, 1)))
    ∧ (1 : BitVec 2).toNat < (gX 2).held ∧ (gX 1).held ≤ (1 : BitVec 2).toNat := by
  refine ⟨by decide +kernel, noLit rfl, fun n h => ?_, by decide +kernel, by decide, by decide, by decide, ready_of (by decide +kernel), by decide, by decide⟩
  rcases n with _ | _ | _ | n
  · exact ready_of (by decide +kernel)
  · exact ready_of (by decide +kernel)
  · exact ready_of (by decide +kernel)
  · omega

/-- The queue of the block holds two ranges: full at two, with room at three. -/
theorem witness_ItemQueue : tget s0.blocks g0.blk = some b0 ∧ g0.wgid < b0.items.length ∧ Ready s0 0 0 g0 [] [3, 1] []
    ∧ converged g0 = true ∧ ¬LitPending g0 0 ∧ (2 : BitVec 9).setWidth 64 ≠ (0 : DWord) ∧ (b0.items.getD 0 []).length < b0.itemq
    ∧ ({ b0 with itemq := 2 } : Block).itemq ≤ (b0.items.getD 0 []).length
    ∧ Ready s0 0 0 g0 [] [] [(5, 1)] ∧ (∀ r ∈ b0.items.getD g0.wgid [], r.2 ≠ 0)
    ∧ pcValid ((slotOf g0 0).pc + 4 * immOf g0 0 (9 : BitVec 16)) = true ∧ (slotOf g0 1).live = false :=
  ⟨by decide +kernel, by decide, ready_of (by decide +kernel), by decide +kernel, noLit rfl, by decide, by decide, by decide,
    ready_of (by decide +kernel), fun r hr => of_decide_eq_true (List.all_eq_true.1
      (by decide : (b0.items.getD g0.wgid []).all (fun r => decide (r.2 ≠ 0)) = true) r hr), by decide +kernel, rfl⟩

theorem witness_Regroup :
    (Ready (stN b0 [(0, gJ), (1, mate)]) 0 0 gJ [0] [] [(0, 32)] ∧ converged gJ = true ∧ ¬LitPending gJ 0 ∧ (slotOf gJ 0).jp = true
      ∧ pcValid ((slotOf gJ 0).pc + 4 * immOf gJ 0 (9 : BitVec 16)) = true
      ∧ tget (stN b0 [(0, gJ), (1, mate)]).groups 1 = some mate ∧ mate.st = .resident ∧ rgbAt mate = none)
    ∧ (let s := stN b0 [(0, gJ), (1, { mate with st := .exited })]
      Ready s 0 0 gJ [0] [] [(0, 32)] ∧ (s.groups.filter (fun x => decide (x.1 = 0))).length = 1 ∧ (slotOf gJ 0).exec ≠ 0
        ∧ slotOf gJ (otherSide 0) = Slot.free ∧ ∀ x ∈ s.groups, x.1 ≠ 0 → x.2.st = .exited) :=
  ⟨⟨ready_of (by decide +kernel), by decide +kernel, noLit rfl, rfl, by decide +kernel, by decide +kernel, rfl, rfl⟩,
    ready_of (by decide +kernel), by decide +kernel, by decide, rfl, by decide +kernel⟩

/-- A group whose scalar register 1 holds the address of a launch record. -/
def gL : Group := { g0 with s := [(1, va509 0 0x50000)] }
theorem witness_JointsAndChildren : tget s0.blocks g0.blk = some b0 ∧ Ready s0 0 0 g0 [] [] [] ∧ converged g0 = true
    ∧ ¬LitPending g0 0 ∧ b0.joint = false ∧ capOn s0 b0.part capChild = true ∧ g0.kids = 0 ∧ ({ g0 with kids := 2 } : Group).kids ≠ 0
    ∧ Ready (st b0 { g0 with kids := 2 }) 0 0 { g0 with kids := 2 } [] [] []
    ∧ Ready (st b0 gL) 0 0 gL [] [3, 1] [] ∧ tget (st b0 gL).grids b0.grid = some stageGrid ∧ stageGrid.depth ≠ 10
    ∧ b0.service = false ∧ b0.kids < 64 ∧ gL.posted = 0 ∧ (sreg gL 1 + 128 * (0 : BitVec 9).setWidth 64).toNat % 128 = 0 ∧ gL.out = []
    ∧ b0.grid < (st b0 gL).uid ∧ tget (st b0 gL).grids (st b0 gL).uid = none
    ∧ readRecord (st b0 gL) 0 (slotOf gL 0).exec { part := b0.part, ctx := b0.ctx, user := decide (gL.hlev ≠ 2) } (va509 0 0x50000) 16
      = .words (List.replicate 16 0) :=
  ⟨by decide +kernel, ready_of (by decide +kernel), by decide +kernel, noLit rfl, rfl, by decide +kernel, rfl, by decide,
    ready_of (by decide +kernel), ready_of (by decide +kernel), by decide +kernel, by decide, rfl, by decide, rfl, by decide +kernel, rfl,
    by decide +kernel, by decide +kernel, words_of (by decide +kernel)⟩

theorem witness_SpecialRegisters : tget s0.blocks g0.blk = some b0 ∧ tget s0.grids b0.grid = some stageGrid
    ∧ tget s0.ctxs (b0.part * 1024 + b0.ctx) = some stageCtx ∧ converged g0 = true ∧ ¬LitPending g0 0
    ∧ Ready s0 0 0 g0 [] [3] [] ∧ Ready s0 0 0 g0 [] [] [(3, 1)]
    ∧ (let g := { g0 with hlev := 2 }; Ready (st b0 g) 0 0 g [] [3] [] ∧ g.hlev = 2) :=
  ⟨by decide +kernel, by decide +kernel, by decide +kernel, by decide +kernel, noLit rfl, ready_of (by decide +kernel),
    ready_of (by decide +kernel), ready_of (by decide +kernel), rfl⟩

/-- The first record, a word between and the end of the list. -/
theorem witness_CapabilityList : Ready s0 0 0 g0 [] [3, 4] [] ∧ converged g0 = true ∧ tget s0.blocks g0.blk = some b0
    ∧ tget s0.parts b0.part = some stagePart ∧ stagePart.capen.getLsbD 0 = true ∧ stagePart.capen.getLsbD 1 = true
    ∧ (sreg g0 4 + 8 * (0 : BitVec 9).setWidth 64).toNat = 0 ∧ (sreg g0 4 + 8 * (8 : BitVec 9).setWidth 64).toNat = 0x40
    ∧ (sreg g0 4 + 8 * (44 : BitVec 9).setWidth 64).toNat = 0x160 ∧ (sreg g0 4 + 8 * (42 : BitVec 9).setWidth 64).toNat = 0x150 :=
  ⟨ready_of (by decide +kernel), by decide +kernel⟩

/-! ## Witnesses: traps -/

def trap (c : Nat) : TrapI := { cause := c, tmask := 3, hmask := 0xF, taddr := 0x1234, info := 9, emu := none }
def gTrap : Group := { g0 with stack := [eW], b := { g0.a with exec := 0xF0, pc := stagePc + 64, jp := true, jpc := stagePc, lc := 2, lat := 77 } }

/-- A context whose frames lie in the scratchpad of core 0, in the block's allocation. -/
def cxS : Ctx := { stageCtx with frame := spadAddr 0 0x8000 }
def stS (g : Group) : State := { st b0 g with ctxs := [(0, cxS)] }

/-- The state in which the frame of a trap is written. -/
def framed (s : State) (side : Nat) (g : Group) (lv : Nat) (t : TrapI) : DevRes State :=
  devWrite s { part := 0, ctx := 0, user := false } (cxS.frame + BitVec.ofNat 64 ((2 * g.pidx + (lv - 1)) * 2048))
    (frameWords g side lv t (slotOf g side).pc)
def isDone {α : Type} (r : DevRes α) : Bool :=
  match r with
  | .done _ => true
  | _ => false
theorem done_some {α : Type} {r : DevRes α} (h : isDone r = true) : ∃ a, r = .done a := by
  cases r <;> simp_all [isDone]

/-- From level 0 to a user handler, and from level 1 to the supervisor. -/
theorem witness_TrapEntry :
    (let s := stS gTrap
     (tget s.groups 0 = some gTrap ∧ tget s.blocks gTrap.blk = some b0 ∧ tget s.ctxs (b0.part * 1024 + b0.ctx) = some cxS
      ∧ gTrap.out = [] ∧ (slotOf gTrap 1).wait = .none ∧ gTrap.hlev.toNat = 0 ∧ b0.desc.emupc ≠ 0)
      ∧ ∃ u, framed s 0 gTrap 1 (trap 13) = .done u)
    ∧ (let g := { gTrap with hlev := 1 }
      let s := stS g
      (tget s.groups 0 = some g ∧ g.hlev.toNat < 2 ∧ cxS.suph ≠ 0) ∧ ∃ u, framed s 1 g 2 (trap 16) = .done u) :=
  ⟨⟨by decide +kernel, done_some (by decide +kernel)⟩, by decide +kernel, done_some (by decide +kernel)⟩

theorem witness_TrapFrame : gTrap.stack.length ≤ 64 ∧ (trap 19).cause < 256 ∧ (∀ e ∈ gTrap.stack, pcValid e.pc = true)
    ∧ (gTrap.a.live = true ∧ gTrap.a.wait = .none ∧ gTrap.a.passed = 0) ∧ g0.b = Slot.free := by decide +kernel

/-- A partition with no feature but the base ones, and a group with both slots live. -/
def sBare : State := { s0 with parts := [(0, { stagePart with capen := 3 })] }
theorem witness_DecodeTraps : Issues sBare 0 0 g0 ∧ capOn sBare (reqOf sBare g0).part capVariants = false
    ∧ capOn sBare (reqOf sBare g0).part capA96 = false ∧ Issues s0 0 0 g0 ∧ g0.hlev ≠ 2
    ∧ capOn s0 (reqOf s0 g0).part capNbAssoc = true ∧ capOn s0 (reqOf s0 g0).part capSealed = true
    ∧ Issues (st b0 gJ2) 0 0 gJ2 ∧ converged gJ2 = false ∧ (slotOf gJ2 0).lc = 0 :=
  ⟨⟨by decide +kernel, by decide +kernel, by decide +kernel⟩, by decide +kernel, by decide +kernel,
    ⟨by decide +kernel, by decide +kernel, by decide +kernel⟩, by decide, by decide +kernel, by decide +kernel,
    ⟨by decide +kernel, by decide +kernel, by decide +kernel⟩, by decide +kernel, rfl⟩

/-- Handlers at level 1 and 2, and a frame of the level with slot A live: its header, the word with EXEC, MR and the live
bit, and the PC (R254, R255). -/
def gHand (lv : BitVec 2) : Group := { g0 with hlev := lv }
def sHand (lv : BitVec 2) : State :=
  let s := stS (gHand lv)
  let at_ := 0x8000 + (lv.toNat - 1) * 2048
  { s with spad := msetBytes (msetBytes (msetBytes s.spad at_ 8 0x30000000D) (at_ + 64) 8 stagePc.toNat) (at_ + 72) 8 0xF08000007 }
def frameOf (lv : BitVec 2) : List DWord :=
  match devRead (sHand lv) { part := 0, ctx := 0, user := false } (cxS.frame + BitVec.ofNat 64 ((lv.toNat - 1) * 2048)) 256 with
  | .done w => w
  | _ => []
def backOf (lv : BitVec 2) : Group :=
  let g := gHand lv
  let w := frameOf lv
  { g with
    a := resumeSlot g lv.toNat 0 (w.drop 8), b := resumeSlot g lv.toNat 1 (w.drop 12)
    s := (List.range 4).foldl (fun m i => mset m i (w.getD (16 + i) 0)) g.s
    p := readPreds (w.drop 20), v := (List.range 4).foldl (fun v r => readVreg v r (w.drop (32 + 16 * r))) g.v
    stack := readStack (w.drop 128) ((w.getD 0 0).toNat / 2 ^ 16 % 256), susp := g.susp.filter (fun x => decide (x.1 ≠ lv.toNat))
    hlev := if lv = 1 then 0 else g.plev2 }
theorem read_frameOf {lv : BitVec 2}
    (h : isDone (devRead (sHand lv) { part := 0, ctx := 0, user := false } (cxS.frame + BitVec.ofNat 64 ((lv.toNat - 1) * 2048)) 256)
      = true) :
    devRead (sHand lv) { part := 0, ctx := 0, user := false } (cxS.frame + BitVec.ofNat 64 ((lv.toNat - 1) * 2048)) 256
      = .done (frameOf lv) := by
  obtain ⟨w, h⟩ := done_some h
  rw [frameOf, h]
theorem ready_hand1 : Ready (sHand 1) 0 0 (gHand 1) [] [] [] := ready_of (by decide +kernel)
theorem ready_hand2 : Ready (sHand 2) 0 0 (gHand 2) [] [] [] := ready_of (by decide +kernel)
theorem read_hand1 :
    devRead (sHand 1) { part := 0, ctx := 0, user := false } (cxS.frame + BitVec.ofNat 64 (((1 : BitVec 2).toNat - 1) * 2048)) 256
      = .done (frameOf 1) := read_frameOf (by decide +kernel)
theorem read_hand2 :
    devRead (sHand 2) { part := 0, ctx := 0, user := false } (cxS.frame + BitVec.ofNat 64 (((2 : BitVec 2).toNat - 1) * 2048)) 256
      = .done (frameOf 2) := read_frameOf (by decide +kernel)
theorem witness_TrapReturns : ∀ lv : BitVec 2, lv = 1 ∨ lv = 2 →
    (tget (sHand lv).blocks (gHand lv).blk = some b0 ∧ tget (sHand lv).ctxs (b0.part * 1024 + b0.ctx) = some cxS
      ∧ converged (gHand lv) = true ∧ (gHand lv).out = [] ∧ (gHand lv).hlev ≠ 0)
    ∧ ((frameOf lv).getD 0 0).toNat / 2 ^ 16 % 256 ≤ 64 ∧ (backOf lv).a.pc = stagePc ∧ restoreValid (backOf lv) = true := by
  decide +kernel

/-- A context whose request ring and park areas lie in the scratchpad too; lane 0 alone is active. -/
def cxR : Ctx := { cxS with ring := spadAddr 0 0x6000, park := spadAddr 0 0 }
def gSys : Group := { g0 with a := { g0.a with exec := 1 }, v := [(32 * 13, 1), (32 * 14, 2), (32, 4), (0, 6)] }
def sSys : State :=
  let s := st b0 gSys
  { s with ctxs := [(0, cxR)], spad := msetBytes (msetBytes (msetBytes s.spad 0x6000 8 8) 0x6010 8 2) 0x6018 8 (spadAddr 0 0x9000).toNat }
def sysPost : PostRes :=
  postRequest sSys 0 (activeOf gSys 0) 9 (slotOf gSys 0).pc (fun l => (List.range 8).map (fun k => vreg gSys (2 * k + 1) l ++ vreg gSys (2 * k) l))
    ((List.range 32).flatMap (fun l => [(vreg gSys 13 l).toNat, (vreg gSys 14 l).toNat + 2 ^ 32 * (vreg gSys 15 l).toNat]))
def sysU : State × DWord :=
  match sysPost with
  | .posted u q => (u, q)
  | _ => (sSys, 0)
def isPosted (r : PostRes) : Bool :=
  match r with
  | .posted _ _ => true
  | _ => false
theorem posted_sysU (h : isPosted sysPost = true) : sysPost = .posted sysU.1 sysU.2 := by
  unfold sysU
  cases h' : sysPost <;> simp_all [isPosted]
def gOn : Group := setSlot gSys 0 (slotAt (slotOf gSys 0) ((slotOf gSys 0).pc + 4))
theorem sys_posted : sysPost = .posted sysU.1 sysU.2 := posted_sysU (by decide +kernel)
theorem sys_parks : ∃ v, devWrite2 (setGroup sysU.1 0 gOn) { part := 0, ctx := 0, user := false } (cxR.park + BitVec.ofNat 64 (gSys.pidx * 18432))
    (parkHead gOn 2 sysU.2) (cxR.park + BitVec.ofNat 64 (gSys.pidx * 18432) + 0x800) (parkRegs gOn) = .done v :=
  done_some (by decide +kernel)
theorem witness_BreakAndServiceCall : Ready (st b0 (gGuard 1)) 0 0 (gGuard 1) [] [] [] ∧ activeOf (gGuard 1) 0 = 0
    ∧ Ready sSys 0 0 gSys [] [] [] ∧ (9 : BitVec 23).toNat < 0x400000 ∧ Ready sSys 0 0 gSys [] [] ((List.range 16).map (fun r => (r, 1)))
    ∧ activeOf gSys 0 ≠ 0 ∧ gSys.out = [] ∧ tget sysU.1.groups 0 = some gSys ∧ tget sysU.1.blocks gSys.blk = some b0
    ∧ tget sysU.1.ctxs (b0.part * 1024 + b0.ctx) = some cxR :=
  ⟨ready_of (by decide +kernel), by decide +kernel, ready_of (by decide +kernel), by decide, ready_of (by decide +kernel),
    by decide +kernel⟩

/-! ## Witnesses: memory -/

/-- The target of an access that passes the checks, as data. -/
def accTgt (r : Acc) : Option Target :=
  match r with
  | .ok t _ => some t
  | _ => none
theorem acc_of {r : Acc} {t : Target} (h : accTgt r = some t) : ∃ e, r = .ok t e := by
  cases r <;> simp_all [accTgt]
theorem lanes_of {m : Word} {P : Nat → Prop} (h : ∀ l, l < 32 → m.getLsbD l = true → P l) : ∀ l, m.getLsbD l = true → P l :=
  fun l hl => h l (BitVec.lt_of_getLsbD hl) hl

/-- Scalar registers 4, 5 and 6 hold an HBM address, one in the scratchpad and one a doubleword on; v6 holds offsets; the
lanes may be owed an answer to another register. -/
def gm : Group := { g0 with s := [(4, va509 0 0x50000), (5, spadAddr 0 0), (6, va509 0 0x50008)], v := [(32 * 6 + 1, 16), (32 * 6 + 2, 32), (32 * 8, 11)] }
def gmE (e : Nat) : Group := { gm with a := { gm.a with mr := BitVec.ofNat 11 (16 * e + 7) } }
def sm_ (g : Group) : State :=
  let s := st b0 g
  { s with hbm := msetBytes s.hbm 0x50000 16 0x112233445566778899aabbccddeeff00, spad := msetBytes s.spad 0 8 0x8877665544332211 }
/-- The address of lane `l` and where it leads. -/
def addrM (g : Group) (b o l : Nat) : DWord := sreg g b + (vreg g o l).signExtend 64
def atH (l : Nat) : Target := .hbm 0 (if l = 1 then 0x50010 else if l = 2 then 0x50020 else 0x50000)

/-- The checks of a memory instruction over the four lanes, computed. -/
def lanesPass (s : State) (g : Group) (k : AKind) (b o n : Nat) : Bool :=
  (List.range 32).all (fun l => !(activeOf g 0).getLsbD l
    || (decide (accTgt (checkAcc s (reqOf s g) k (addrM g b o l) n (addrM g b o l).toNat n) = some (atH l)) && !poisonedT s (atH l) n))
theorem lanes_pass {s : State} {g : Group} {k : AKind} {b o n : Nat} (h : lanesPass s g k b o n = true) :
    ∀ l, (activeOf g 0).getLsbD l = true → elsewhere (atH l) = false ∧ (∀ c j, atH l ≠ .nbctl c j) ∧ (∀ c j, atH l ≠ .window c j)
      ∧ poisonedT s (atH l) n = false ∧ ∃ e, checkAcc s (reqOf s g) k (addrM g b o l) n (addrM g b o l).toNat n = .ok (atH l) e :=
  lanes_of fun l hl ha => by
    have := List.all_eq_true.mp h l (List.mem_range.mpr hl)
    simp only [ha, Bool.not_true, Bool.false_or, Bool.and_eq_true, decide_eq_true_eq, Bool.not_eq_true'] at this
    exact ⟨rfl, fun _ _ hc => by simp [atH] at hc, fun _ _ hc => by simp [atH] at hc, this.2, acc_of this.1⟩

theorem witness_Loads : (∀ o ∈ gm.out, o.stores = [] ∧ o.pend = 0) ∧ ¬LitPending gm 0
    ∧ Ready (sm_ gm) 0 0 gm [] [4] [(12, 2), (6, 1)] ∧ activeOf gm 0 ≠ 0
    ∧ (activeOf (gGuard 1) 0 = 0 ∧ Ready (st b0 (gGuard 1)) 0 0 (gGuard 1) [] [4] [(12, 2), (6, 1)])
    ∧ (∀ l, (activeOf gm 0).getLsbD l = true → elsewhere (atH l) = false ∧ poisonedT (sm_ gm) (atH l) 8 = false
      ∧ ∃ e, checkAcc (sm_ gm) (reqOf (sm_ gm) gm) .load (addrM gm 4 6 l) 8 (addrM gm 4 6 l).toNat 8 = .ok (atH l) e)
    ∧ Ready (sm_ gm) 0 0 gm [] [7, 4] [] ∧ converged gm = true ∧ poisonedT (sm_ gm) (.hbm 0 0x50000) 8 = false
    ∧ ∃ e, checkAcc (sm_ gm) (reqOf (sm_ gm) gm) .load (sreg gm 4 + 0) 8 (sreg gm 4 + 0).toNat 8 = .ok (.hbm 0 0x50000) e :=
  ⟨by decide, noLit rfl, ready_of (by decide +kernel), by decide +kernel, ⟨by decide +kernel, ready_of (by decide +kernel)⟩,
    fun l hl => by
      obtain ⟨h1, -, -, h2, h3⟩ := lanes_pass (s := sm_ gm) (g := gm) (k := .load) (b := 4) (o := 6) (n := 8) (by decide +kernel) l hl
      exact ⟨h1, h2, h3⟩,
    ready_of (by decide +kernel), by decide +kernel, by decide +kernel, acc_of (by decide +kernel)⟩

/-- A lane of a load that goes to another node. -/
theorem witness_Loads_far : let a := BitVec.ofNat 64 (5 * 2 ^ 55 + 0x40)
    ∃ t e, checkAcc (sm_ gm) (reqOf (sm_ gm) gm) .load a 8 a.toNat 8 = .ok t e ∧ t = .remote 5 a ∧ elsewhere t = true ∧ poisonedT (sm_ gm) t 8 = false :=
  ⟨_, (acc_of (by decide +kernel)).choose, (acc_of (by decide +kernel)).choose_spec, rfl, rfl, rfl⟩

theorem witness_Stores : (∀ o ∈ gm.out, o.pend = 0) ∧ ¬LitPending gm 0 ∧ Ready (sm_ gm) 0 0 gm [] [4] [(8, 4), (6, 1)]
    ∧ (∀ l, (activeOf gm 0).getLsbD l = true → (∀ c j, atH l ≠ .nbctl c j) ∧ (∀ c j, atH l ≠ .window c j)
      ∧ ∃ e, checkAcc (sm_ gm) (reqOf (sm_ gm) gm) .store (addrM gm 4 6 l) 16 (addrM gm 4 6 l).toNat 16 = .ok (atH l) e)
    ∧ Ready (sm_ gm) 0 0 gm [] [7, 4] [] ∧ (slotOf gm 0).exec.getLsbD 0 = true
    ∧ ∃ e, checkAcc (sm_ gm) (reqOf (sm_ gm) gm) .store (sreg gm 4 + 0) 8 (sreg gm 4 + 0).toNat 8 = .ok (.hbm 0 0x50000) e :=
  ⟨by decide, noLit rfl, ready_of (by decide +kernel),
    fun l hl => by
      obtain ⟨-, h1, h2, -, h3⟩ := lanes_pass (s := sm_ gm) (g := gm) (k := .store) (b := 4) (o := 6) (n := 16) (by decide +kernel) l hl
      exact ⟨h1, h2, h3⟩,
    ready_of (by decide +kernel), by decide, acc_of (by decide +kernel)⟩

/-- The four lanes' addresses of `witness_Loads` lie in one line. -/
theorem witness_LineOperations : ¬LitPending gm 0 ∧ Ready (sm_ gm) 0 0 gm [] [4] [(6, 1)] ∧ (∀ x ∈ gm.out, x.pend = 0)
    ∧ activeOf gm 0 ≠ 0 ∧ (activeOf (gGuard 1) 0 = 0 ∧ Ready (st b0 (gGuard 1)) 0 0 (gGuard 1) [] [4] [(6, 1)])
    ∧ ∀ l, (activeOf gm 0).getLsbD l = true → inAperture (sm_ gm) (addrM gm 4 6 l) = false
      ∧ (∃ e, checkAcc (sm_ gm) (reqOf (sm_ gm) gm) .line (addrM gm 4 6 l) 1
          (lineOf (route (sm_ gm) (reqOf (sm_ gm) gm).part (addrM gm 4 6 l)) (addrM gm 4 6 l)).1 128 = .ok (atH l) e)
      ∧ (lineOf (route (sm_ gm) (reqOf (sm_ gm) gm).part (addrM gm 4 6 l)) (addrM gm 4 6 l)).2 = 128
      ∧ (∃ e, checkAcc (sm_ gm) (reqOf (sm_ gm) gm) .store (addrM gm 4 6 l) 1
          (lineOf (route (sm_ gm) (reqOf (sm_ gm) gm).part (addrM gm 4 6 l)) (addrM gm 4 6 l)).1 128 = .ok (atH l) e)
      ∧ ∃ d p, atH l = .hbm d p :=
  ⟨noLit rfl, ready_of (by decide +kernel), by decide, by decide +kernel, ⟨by decide +kernel, ready_of (by decide +kernel)⟩,
    lanes_of fun l hl ha => by
      have h : ∀ l, l < 32 → (activeOf gm 0).getLsbD l = true → inAperture (sm_ gm) (addrM gm 4 6 l) = false
        ∧ accTgt (checkAcc (sm_ gm) (reqOf (sm_ gm) gm) .line (addrM gm 4 6 l) 1
          (lineOf (route (sm_ gm) (reqOf (sm_ gm) gm).part (addrM gm 4 6 l)) (addrM gm 4 6 l)).1 128) = some (atH l)
        ∧ (lineOf (route (sm_ gm) (reqOf (sm_ gm) gm).part (addrM gm 4 6 l)) (addrM gm 4 6 l)).2 = 128
        ∧ accTgt (checkAcc (sm_ gm) (reqOf (sm_ gm) gm) .store (addrM gm 4 6 l) 1
          (lineOf (route (sm_ gm) (reqOf (sm_ gm) gm).part (addrM gm 4 6 l)) (addrM gm 4 6 l)).1 128) = some (atH l) := by decide +kernel
      obtain ⟨h1, h2, h3, h4⟩ := h l hl ha
      exact ⟨h1, acc_of h2, h3, acc_of h4, _, _, rfl⟩⟩

/-- WAIT and FENCE: counters met with nothing recorded, with a refusal, with a near-bank fault; and not met. -/
def gRef : Group := { g0 with ref := some { addr := 0x1234, mask := 3, cls := 0 } }
def gNbf : Group := { g0 with nbwin := 0x300001000 }
theorem witness_WaitAndFence : Ready s0 0 0 g0 [] [] [] ∧ g0.out = [] ∧ g0.ref = none ∧ g0.nbwin.getLsbD 12 = false ∧ g0.posted = 0
    ∧ Ready (st b0 gRef) 0 0 gRef [] [] [] ∧ gRef.ref = some { addr := 0x1234, mask := 3, cls := 0 } ∧ gRef.out = []
    ∧ Ready (st b0 gNbf) 0 0 gNbf [] [] [] ∧ gNbf.nbwin.getLsbD 12 = true ∧ gNbf.ref = none ∧ gNbf.out = []
    ∧ Ready (st b0 gOwed) 0 0 gOwed [] [] [] ∧ (gOwed.out.filter (fun o => decide (o.cls = .ld))).length = 1 :=
  ⟨ready_of (by decide +kernel), rfl, rfl, rfl, rfl, ready_of (by decide +kernel), rfl, rfl, ready_of (by decide +kernel), by decide, rfl,
    rfl, ready_of (by decide +kernel), by decide⟩

/-- An atomic of 4 bytes, and one of 16 at a cell. -/
def gQ (e : Nat) : Group := { gmE e with v := [(32 * 8, 11)] }
theorem witness_Atomics : typeOf (gQ 0) 0 = some .i32 ∧ typeOf (gQ 14) 0 = some .a96 ∧ typeOf (gQ 6) 0 = some .f32
    ∧ (∀ x ∈ (gQ 0).out, x.stores = [] ∧ x.pend = 0) ∧ ¬LitPending (gQ 0) 0 ∧ activeOf (gQ 0) 0 ≠ 0
    ∧ (∀ l, (activeOf (gQ 0) 0).getLsbD l = true → elsewhere (Target.hbm 0 0x50000) = false ∧ poisonedT (sm_ (gQ 0)) (.hbm 0 0x50000) 4 = false
      ∧ (∃ e, checkAcc (sm_ (gQ 0)) (reqOf (sm_ (gQ 0)) (gQ 0)) .amo (addrM (gQ 0) 4 6 l) 4 (addrM (gQ 0) 4 6 l).toNat 4 = .ok (.hbm 0 0x50000) e)
      ∧ ∃ e, checkAcc (sm_ (gQ 0)) (reqOf (sm_ (gQ 0)) (gQ 0)) .store (addrM (gQ 0) 4 6 l) 4 (addrM (gQ 0) 4 6 l).toNat 4 = .ok (.hbm 0 0x50000) e)
    ∧ Ready (sm_ (gQ 0)) 0 0 (gQ 0) [] [4] [(8, 1), (6, 1)] ∧ Ready (sm_ (gQ 0)) 0 0 (gQ 0) [] [4] [(8, 2), (6, 1)]
    ∧ Ready (sm_ (gQ 14)) 0 0 (gQ 14) [] [4] [(8, 4), (6, 1)]
    ∧ capOn (sm_ (gQ 14)) (reqOf (sm_ (gQ 14)) (gQ 14)).part capA96Atomics = true :=
  ⟨by decide +kernel, by decide +kernel, by decide +kernel, by decide, noLit rfl, by decide +kernel,
    lanes_of fun l hl ha => by
      have h : ∀ l, l < 32 → (activeOf (gQ 0) 0).getLsbD l = true → poisonedT (sm_ (gQ 0)) (.hbm 0 0x50000) 4 = false
        ∧ accTgt (checkAcc (sm_ (gQ 0)) (reqOf (sm_ (gQ 0)) (gQ 0)) .amo (addrM (gQ 0) 4 6 l) 4 (addrM (gQ 0) 4 6 l).toNat 4)
          = some (.hbm 0 0x50000)
        ∧ accTgt (checkAcc (sm_ (gQ 0)) (reqOf (sm_ (gQ 0)) (gQ 0)) .store (addrM (gQ 0) 4 6 l) 4 (addrM (gQ 0) 4 6 l).toNat 4)
          = some (.hbm 0 0x50000) := by decide +kernel
      obtain ⟨h1, h2, h3⟩ := h l hl ha
      exact ⟨rfl, h1, acc_of h2, acc_of h3⟩,
    ready_of (by decide +kernel), ready_of (by decide +kernel), ready_of (by decide +kernel), by decide +kernel⟩

/-- A barrier that the group has arrived at, one at which its arrival completes the phase, and one at which a second group
is still missing. -/
def bBar (x : Bar) : Block := { b0 with bars := [x, x] }
def bar0 : Bar := { phase := 7, arrived := [], expect := none, gathering := false }
theorem witness_Barriers : converged g0 = true ∧ ¬LitPending g0 0 ∧ tget s0.blocks g0.blk = some b0
    ∧ (1 : BitVec 4).toNat < b0.desc.barriers ∧ (1 : BitVec 4).toNat < b0.bars.length ∧ g0.out = []
    ∧ Ready s0 0 0 g0 [] [24] [] ∧ g0.idx ∉ (b0.bars.getD 1 bar0).arrived
    ∧ (s0.groups.filter (fun x => decide (x.2.blk = g0.blk) && decide (x.2.st ≠ .exited))).length ≤ [g0.idx].length
    ∧ (let s := stN b0 [(0, g0), (1, mate)]
      Ready s 0 0 g0 [] [24] [] ∧ ¬(s.groups.filter (fun x => decide (x.2.blk = g0.blk) && decide (x.2.st ≠ .exited))).length ≤ [g0.idx].length)
    ∧ (let b := bBar { bar0 with arrived := [0], expect := some 2, gathering := true }
      Ready (stN b [(0, g0), (1, mate)]) 0 0 g0 [] [24] [] ∧ g0.idx ∈ (b.bars.getD 1 bar0).arrived) :=
  ⟨by decide +kernel, noLit rfl, by decide +kernel, by decide, by decide, rfl, ready_of (by decide +kernel), by decide, by decide +kernel,
    ⟨ready_of (by decide +kernel), by decide +kernel⟩, ready_of (by decide +kernel), by decide⟩

/-- A word that the comparison holds for at once (equal), one to monitor, and one in the scratchpad that is read again. -/
def gW : Group := { g0 with s := [(4, va509 0 0x50000), (5, spadAddr 0 0), (7, 0x99aabbccddeeff00), (8, 3)] }
def bW : Block := { b0 with desc := { b0.desc with monitors := 1 }, monitors := 1, mdies := [0] }
def sW (b : Block) : State := { sm_ gW with blocks := [(0, b)] }
theorem witness_Watch : Ready (sW bW) 0 0 gW [] [7, 4] [] ∧ Ready (sW bW) 0 0 gW [] [8, 5] [] ∧ converged gW = true ∧ ¬LitPending gW 0
    ∧ tget (sW bW).blocks gW.blk = some bW ∧ gW.out = []
    ∧ (∃ e, checkAcc { sW bW with locks := [], ops := [] } (reqOf (sW bW) gW) .load (sreg gW 4) 8 (sreg gW 4).toNat 8
      = .ok (.hbm 0 0x50000) e ∧ pteBias e = false)
    ∧ (∃ e, checkAcc { sW bW with locks := [], ops := [] } (reqOf (sW bW) gW) .load (sreg gW 5) 8 (sreg gW 5).toNat 8
      = .ok (.spad 0 0) e)
    ∧ poisonedT (sW bW) (.hbm 0 0x50000) 8 = false ∧ poisonedT (sW bW) (.spad 0 0) 8 = false
    ∧ readT (sW bW) (.hbm 0 0x50000) 8 = (sreg gW 7).toNat ∧ readT (sW bW) (.hbm 0 0x50000) 8 ≠ (sreg gW 8).toNat
    ∧ monFree bW (monDie (sW bW) 0 (.hbm 0 0x50000)) = true ∧ monFree b0 (monDie (sW b0) 0 (.hbm 0 0x50000)) = false :=
  ⟨ready_of (by decide +kernel), ready_of (by decide +kernel), by decide +kernel, noLit rfl, by decide +kernel, rfl,
    ⟨stageLeaf, by decide +kernel⟩, ⟨0, by decide +kernel⟩, by decide +kernel⟩

/-! ## Witnesses: paging -/

/-- A context with a used frame, two free ones and a free one of bandwidth; a supervisor group whose registers name a
free place for a leaf, a leaf in use, a covered region, a missing table and no paged address at all. -/
def cxP : Ctx := { stageCtx with frames := [
  { die := 0, num := 0x40, size := 0, br := false, free := false, maps := 0, table := false }, { die := 0, num := 0x41, size := 0, br := false, free := true, maps := 0, table := false },
  { die := 0, num := 0x80, size := 0, br := true, free := true, maps := 0, table := false }] }
def offP : Nat := 2 * 2 ^ 33 + 5 * 8192
def gP : Group := { g0 with hlev := 2, s := [
  (4, va509 0 offP), (5, 0x40 * 8192 + 0x2D), (8, va509 0 (offP + 8192)), (9, va509 0 (3 * 2 ^ 33)), (10, 0x40 * 8192),
  (11, 0xFFFF000000000000), (13, va509 0 0), (14, va509 0 (offP + 16384))] }
def sP : State :=
  let s := st b0 gP
  { s with
    ctxs := [(0, cxP)]
    hbm := msetBytes (msetBytes (msetBytes (msetBytes s.hbm 0x8010 8 (stageTable 0xA000).toNat) 0xA000 8 (stageTable 0xC000).toNat)
      0xC030 8 0x8203D) 0xC038 8 0x8443D }
theorem ready_sP : Ready sP 0 0 gP [] [5, 4] [] := ready_of (by decide +kernel)
theorem witness_Paging : converged gP = true ∧ ¬LitPending gP 0 ∧ gP.hlev = 2 ∧ tget sP.blocks gP.blk = some b0
    ∧ tget sP.ctxs (b0.part * 1024 + b0.ctx) = some cxP
    -- no paged address; a code of the check; a covered place; a leaf in use; a free place
    ∧ pagedVa sP (sreg gP 11) = false ∧ pmapCheck sP 0 0 (sreg gP 11) (sreg gP 5) 0 false = 8
    ∧ pmapCheck sP 0 0 (sreg gP 13) (sreg gP 5) 0 false = 0 ∧ slotOfLeaf sP 0 0 0 (vaOff (sreg gP 13)) 0 = .covered
    ∧ pmapCheck sP 0 0 (sreg gP 8) (sreg gP 5) 0 false = 0 ∧ slotOfLeaf sP 0 0 0 (vaOff (sreg gP 8)) 0 = .slot 0xC030
    ∧ pmapCheck sP 0 0 (sreg gP 4) (sreg gP 5) 0 false = 0 ∧ slotOfLeaf sP 0 0 0 (vaOff (sreg gP 4)) 0 = .slot 0xC028
    ∧ pteV (rdPte sP.hbm 0 0xC030) = true ∧ pteV (rdPte sP.hbm 0 0xC028) = false
    -- PUNMAP: a missing table, no leaf (above), a leaf in a run, a leaf
    ∧ pagedVa sP (sreg gP 9) = true ∧ slotOfLeaf sP 0 0 0 (vaOff (sreg gP 9)) 0 = .missing 2 0x8018
    ∧ slotOfLeaf sP 0 0 0 (vaOff (sreg gP 14)) 0 = .slot 0xC038 ∧ pteV (rdPte sP.hbm 0 0xC038) = true
    ∧ pteT (rdPte sP.hbm 0 0xC038) = false ∧ pteRun (rdPte sP.hbm 0 0xC038) = true
    ∧ pteT (rdPte sP.hbm 0 0xC030) = false ∧ pteRun (rdPte sP.hbm 0 0xC030) = false ∧ flipAt sP 0 0 0 (vaOff (sreg gP 8)) = none
    -- TLBI
    ∧ nbHolds sP 0 0 = false ∧ (∀ x ∈ sP.groups, ∀ o ∈ x.2.out, o.stores = [])
    -- POOLGET: a frame to give, none of the size, one to take back
    ∧ freeFrame cxP (vaDie (sreg gP 10)) false 0 = some (1, { die := 0, num := 0x41, size := 0, br := false, free := true, maps := 0, table := false })
    ∧ (takeFrame sP 0 0 (vaDie (sreg gP 10)) false 1).2 = .empty ∧ (s2translate sP 0 0 (0x41 * 8192)).isSome = true ∧ tget (takeFrame sP 0 0 (vaDie (sreg gP 10)) false 1).1.groups 0 = some gP
    ∧ sreg gP 10 = BitVec.ofNat 64 (0 * 2 ^ 53 + 0x40 * 2 ^ 13) ∧ frameRetiring sP 0 0 0 0x40 1 = false :=
  ⟨by decide +kernel, noLit rfl, by decide +kernel⟩

/-! ## Witnesses: operators -/

/-- A partition of twelve virtual cores, a block of one or two workgroups with a format slot, and an operator descriptor. -/
def gO : Group := { g0 with s := [(4, va509 0 0x50000)] }
def bO (fmt : DWord) (ops : Nat) (vs : List (Nat × Nat)) : Block :=
  { b0 with
    ophnd := ops, slots := (List.replicate 128 0).set 16 fmt, vcores := vs.map (·.1), spadOff := vs.map (·.2)
    desc := { stageDesc with variants := [{ stageVariant with wgs := vs.length, spad := 0x20000 }] } }
def odesc (deck : DWord) (k n : Nat) : List DWord := [deck, BitVec.ofNat 64 (n * 2 ^ 16 + k + 2 ^ 36), 0, 0, 0, 0, 0, 0]
def sO (b : Block) (x : List DWord) : State :=
  let s := st b gO
  { s with
    parts := [(0, { stagePart with cmap := (List.range 12).map (fun v => (v, BitVec.ofNat 16 (0x8000 + v))) })]
    hbm := (List.range 8).foldl (fun m k => msetBytes m (0x50000 + 8 * k) 8 (x.getD k 0).toNat) s.hbm }
def bO1 : Block := bO 0 2 [(0, 0)]
def bO2 : Block := bO 0 2 [(0, 0), (1, 0x2000)]
def dO : List DWord := odesc (spadAddr 0 0) 128 256
def lockO : RLock :=
  { die := 0, lo := (spadAddr 0 0x40).toNat, hi := (spadAddr 0 0x7F).toNat, write := true, part := 0, ctx := 0, blk := 0, op := 5 }

/-- The conditions that all clauses share, for the block and the descriptor. -/
theorem bind_shared : ∀ b, b = bO1 ∨ b = bO2 ∨ b = bO 0xFF 2 [(0, 0)] ∨ b = bO 0 0 [(0, 0)] →
    Ready (sO b dO) 0 0 gO [] [3, 4] [] ∧ tget (sO b dO).blocks gO.blk = some b ∧ capOn (sO b dO) b.part capOperators = true
    ∧ readRecord (sO b dO) 0 (slotOf gO 0).exec (reqOf (sO b dO) gO) (sreg gO 4) 8 = .words dO := by
  rintro b (rfl | rfl | rfl | rfl) <;>
    exact ⟨ready_of (by decide +kernel), by decide +kernel, by decide +kernel, words_of (by decide +kernel)⟩

/-- The descriptors that the first checks refuse: K of 0, a bad format, an image past the allocation; and one that
passes, with the shares of a truss of two. -/
theorem witness_OperatorBinding : converged gO = true ∧ ¬LitPending gO 0 ∧ gO.out = [] ∧ gO.recs = [] ∧ (sreg gO 4).toNat % 64 = 0
    ∧ badDesc (odesc (spadAddr 0 0) 0 256) = true ∧ badDesc dO = false
    ∧ badFmt (sO (bO 0xFF 2 [(0, 0)]) dO) 0 0xFF (readODesc dO) = true ∧ badFmt (sO bO1 dO) 0 0 (readODesc dO) = false
    ∧ inAlloc (issueOf (sO bO1 dO) 0 0 gO 0) bO1 0 (spadAddr 0 0x1F000) (shareBytes 0 128 256) = none
    ∧ (let s := sO bO1 dO
      let is := issueOf s 0 0 gO 0
      let p := newOper s is bO1 (readODesc dO) 2 0 0 0 none none [0] false 128 256 0 0
      inAlloc is bO1 0 (spadAddr 0 0) (shareBytes 0 128 256) = some 0 ∧ scalesAt is bO1 (readODesc dO) = some none ∧ 0 % tileBytes (fsWFMT 0) = 0
        ∧ noSpace p = false ∧ heldBy s 0 0 < bO1.ophnd ∧ (bO 0 0 [(0, 0)]).ophnd ≤ heldBy s 0 0
        ∧ tagBad s 0 0 (shareBytes 0 128 256) (fsSWZ 0) = none ∧ engineOn s 0 0 0 0 (shareBytes 0 128 256) = false)
    -- an engine's lock on the deck
    ∧ (let s := { sO bO1 dO with locks := [lockO] }
      let is := issueOf s 0 0 gO 0
      readyB s 0 0 gO [] [3, 4] [] = true ∧ wordsOf (readRecord s 0 (slotOf gO 0).exec (reqOf s gO) (sreg gO 4) 8) = some dO
        ∧ badFmt s 0 0 (readODesc dO) = false ∧ inAlloc is bO1 0 (spadAddr 0 0) (shareBytes 0 128 256) = some 0
        ∧ scalesAt is bO1 (readODesc dO) = some none ∧ noSpace (newOper s is bO1 (readODesc dO) 2 0 0 0 none none [0] false 128 256 0 0) = false
        ∧ heldBy s 0 0 < bO1.ophnd ∧ tagBad s 0 0 (shareBytes 0 128 256) (fsSWZ 0) = none ∧ engineOn s 0 0 0 0 (shareBytes 0 128 256) = true)
    ∧ (let s := sO bO2 dO
      let o := readODesc dO
      let is := issueOf s 0 0 gO 0
      let share := shareOf o false 2
      let keys := claimIndices s bO2 0 2
      let p := newOper s is bO2 o 2 (keys.headD (0, 0)).2 0 0 none none (keys.map Prod.snd) false (share 0).1 (share 0).2.1 0 0
      capOn s 0 capTruss = true ∧ badFmt s 0 0 o = false ∧ 0 + 2 ≤ (variantOf bO2).wgs ∧ 2 ≤ (o.n + 63) / 64 ∧ o.trans = false ∧ o.scale = false
        ∧ (variantOf bO2).wgs < 0 + 3
        ∧ inAlloc is bO2 0 o.deck (shareBytes 0 (share 0).1 (share 0).2.1) = some 0
        ∧ o.w * o.s * opIES p ≤ 0x80000 ∧ o.w * o.s * opRES p ≤ 0x80000
        ∧ (∀ j, j < 2 → (bO2.spadOff.getD j 0) % tileBytes (fsWFMT 0) = 0
          ∧ shareBytes 0 (share j).1 (share j).2.1 ≤ (variantOf bO2).spad ∧ heldBy s 0 j < bO2.ophnd
          ∧ tagBad s (wgCore s bO2 j) (bO2.spadOff.getD j 0) (shareBytes 0 (share j).1 (share j).2.1) (fsSWZ 0) = none
          ∧ engineOn s 0 0 (bO2.vcores.getD j 0) (bO2.spadOff.getD j 0) (shareBytes 0 (share j).1 (share j).2.1) = false)
        ∧ (keys.map Prod.snd).Nodup) :=
  ⟨by decide +kernel, noLit rfl, rfl, rfl, by decide +kernel⟩

/-- A bound operator of two windows of three slots: slot 0 of window 0 queued, the rest empty or a result. The handle of
register 4 names it, that of register 6 a lower reuse count; registers 3 and 5 hold a grant and a bad one. -/
def opH : Oper :=
  { (newOper (sO bO1 dO) (issueOf (sO bO1 dO) 0 0 gO 0) bO1 (readODesc dO) 2 1 0 0 none none [1] false 128 256 0 0) with
    w := 2, s := 3, reuse := 3, entries := [(0, { Entry.empty with q := 1 })], grants := [0, 0] }
def gH : Group := { g0 with s := [(4, 0x0B), (3, 0x8000000100000000), (5, 0x9000000000000000), (6, 0x0A)] }
def passH : Pass := { op := 1, entry := 0, input := [], poisoned := false, tiles := [], cells := [], arrived := [], gid := none, skips := [] }
/-- A store into slot 4 of window 1 that waits for a place under the grant that its slot had. -/
def heldH : HeldAcc :=
  { core := 0, load := false, consume := false, who := { part := 0, ctx := 0, blk := some 0, die := 0, cls := 0, node := 0, gid := some (0, 0) }, reg := 0
    lanes := [{ lane := 0, addr := 0, tgt := .window 0 (0x100000 + 4 * opIES opH), size := 4, data := 0 }], held := true, req := none, more := false
    ident := none, susp := false, grant := none }
def sH_ (ps : Tbl Pass) : State := { st b0 gH with ops := [(1, opH)], passes := ps, opReuse := [(1, 3)] }
theorem witness_OperatorHandles : converged gH = true ∧ ¬LitPending gH 0 ∧ capOn (sH_ []) (reqOf (sH_ []) gH).part capOperators = true
    ∧ Ready (sH_ []) 0 0 gH [] [3, 4] [] ∧ Ready (sH_ []) 0 0 gH [] [5, 4] [] ∧ Ready (sH_ []) 0 0 gH [] [3, 6] []
    ∧ Ready (sH_ [(9, passH)]) 0 0 gH [] [3, 4] []
    ∧ opOfHandle (issueOf (sH_ []) 0 0 gH 0) (sreg gH 6) = none ∧ opOfHandle (issueOf (sH_ []) 0 0 gH 0) (sreg gH 4) = some (1, opH)
    ∧ opOfHandle (issueOf (sH_ [(9, passH)]) 0 0 gH 0) (sreg gH 4) = some (1, opH) ∧ opH.members = [1]
    ∧ opH.w ≤ (2 : BitVec 4).toNat ∧ (1 : BitVec 4).toNat < opH.w ∧ (sreg gH 5).extractLsb' 51 12 ≠ 0
    ∧ (sreg gH 3).extractLsb' 51 12 = 0 ∧ (sreg gH 3).extractLsb' 38 4 = 0 ∧ (sreg gH 3).extractLsb' 11 21 = 0
    ∧ (sreg gH 3).extractLsb' 42 9 = 0
    ∧ (∀ e ∈ (List.range 3).map (· + 3), (entryOf opH e).q = 0) ∧ (entryOf opH 0).q ≠ 0
    ∧ storeFor { sH_ [] with heldAcc := [heldH] } 1 1 heldH = true ∧ heldH.held = true
    ∧ opOfHandle (issueOf { sH_ [] with heldAcc := [heldH] } 0 0 gH 0) (sreg gH 4) = some (1, opH)
    ∧ (sH_ []).passes.filter (fun p => decide (p.2.op = 1)) = [] ∧ (sH_ [(9, passH)]).passes.filter (fun p => decide (p.2.op = 1)) ≠ [] :=
  ⟨by decide +kernel, noLit rfl, by decide +kernel, ready_of (by decide +kernel), ready_of (by decide +kernel), ready_of (by decide +kernel),
    ready_of (by decide +kernel), by decide +kernel⟩

/-! ## Witnesses: copies -/

/-- Transfer records of 64 elements of a byte at a base (R183). -/
def tr1 (base : DWord) (fmt : Nat) : List DWord := [base, BitVec.ofNat 64 fmt, 0, 64, 0, 0, 0, 0]
def gCp : Group := { g0 with s := [(3, spadAddr 0 0x100), (4, va509 0 0x50000), (5, va509 0 0x50040)] }
def bCp (rl : Nat) : Block := { b0 with rlocks := rl }
def sCp (rl : Nat) (src dst : List DWord) (ls : List RLock) : State :=
  let s := st (bCp rl) gCp
  let put := fun (m : SMap 8) (p : Nat) (x : List DWord) => (List.range 8).foldl (fun m k => msetBytes m (p + 8 * k) 8 (x.getD k 0).toNat) m
  { s with hbm := put (put s.hbm 0x50000 src) 0x50040 dst, locks := ls }
def srcC : List DWord := tr1 (va509 0 0x51000) 0
def dstC : List DWord := tr1 (va509 0 0x52000) 0
def otherLock : RLock :=
  { die := 0, lo := (va509 0 0x51000).toNat, hi := (va509 0 0x51007).toNat, write := true, part := 0, ctx := 0, blk := 9, op := 5 }
/-- The source's page at the end of a change of bias that has not come. -/
def sFlip : State :=
  { s0 with flips := [(7, { part := 0, ctx := 0, die := 0, off := 0x50000, lvl := 3, run := false, pte := stageLeaf, toHost := true, host := none, snoop := 0 })] }
/-- The locks that the copy asks for. -/
def locksC (s : State) : List RLock :=
  let c : Copy := { part := 0, ctx := 0, blk := 0, gid := 0, core := 0, user := true, out := s.uid, src := srcC, dsts := [dstC], status := none
                    locks := [], started := true, phase := 0, prog := 0, waits := 0, buf := [], fails := [], wfails := [], ends := none }
  lockOf s c s.uid (trec srcC) false ++ lockOf s c s.uid (trec dstC) true

theorem copy_shared : ∀ s, s = sCp 2 srcC dstC [] ∨ s = sCp 2 srcC dstC [otherLock] ∨ s = sCp 1 srcC dstC [] →
    Ready s 0 0 gCp [] [24, 4, 5] [] ∧ Ready s 0 0 gCp [] [3, 4, 5] [] ∧ tget s.copies s.uid = none
    ∧ readRecord s 0 (slotOf gCp 0).exec (reqOf s gCp) (sreg gCp 4) 8 = .words srcC
    ∧ readRecord s 0 (slotOf gCp 0).exec (reqOf s gCp) (scalarB gCp 0 5) 8 = .words dstC := by
  rintro s (rfl | rfl | rfl) <;>
    exact ⟨ready_of (by decide +kernel), ready_of (by decide +kernel), by decide +kernel, words_of (by decide +kernel),
      words_of (by decide +kernel)⟩

/-- A copy that starts, one whose locks another holds, and one of each early failure. -/
theorem witness_Copies : ¬LitPending gCp 0 ∧ tget (sCp 2 srcC dstC []).blocks gCp.blk = some (bCp 2)
    ∧ gCp.out = [] ∧ gCp.recs = [] ∧ (sreg gCp 4).toNat % 64 = 0 ∧ (scalarB gCp 0 5).toNat % 64 = 0 ∧ (sreg gCp 3).toNat % 16 = 0
    ∧ recOk srcC = true ∧ recOk dstC = true ∧ sameShape (trec srcC) (trec dstC) = true ∧ footsMeet ((trec srcC).here (sCp 2 srcC dstC [])) ((trec dstC).here (sCp 2 srcC dstC [])) = false
    ∧ max (1 + [dstC].length) (locksC (sCp 2 srcC dstC [])).length ≤ reservedLocks (bCp 2)
    ∧ (let s := sCp 2 srcC dstC []
      swzBad s 0 (trec srcC) false = none ∧ swzBad s 0 (trec dstC) true = none
        ∧ (∀ x ∈ [srcC, dstC], ∀ j, j < (trec x).units → unitFlips s { part := 0, ctx := 0, user := userLevel gCp } ((trec x).addr j) = false)
        ∧ locksFree s (bCp 2) 0 (locksC s) = true ∧ lockQueue s s.uid (locksC s) = false)
    ∧ (let s := sCp 2 srcC dstC [otherLock]; locksFree s (bCp 2) 0 (locksC s) = false)
    -- a record that does not fit, footprints that meet, and too few locks
    ∧ sameShape (trec srcC) (trec (tr1 (va509 0 0x52000) 3)) = false ∧ footsMeet ((trec srcC).here (sCp 2 srcC dstC [])) ((trec srcC).here (sCp 2 srcC dstC [])) = true
    ∧ reservedLocks (bCp 1) < 1 + [dstC].length
    -- CPYB into the scratchpad of each core of the block, and a wrong swizzle tag there
    ∧ (let w := trec (tr1 (spadAddr 0 0x100) 0)
      let off := ownVa s0 w.base - spadAddr 0 0
      0 ≤ Int.ofNat off.toNat + w.span.1 ∧ Int.ofNat off.toNat + w.span.2 < Int.ofNat (variantOf b0).spad)
    ∧ swzBad { s0 with swz := [(4, 3)] } 0 (trec (tr1 (spadAddr 0 0x100) 0)) false ≠ none
    -- a page of the source that is changing bias
    ∧ unitFlips sFlip { part := 0, ctx := 0, user := userLevel gCp } ((trec srcC).addr 0) = true :=
  ⟨noLit rfl, by decide +kernel⟩

/-- An address of host memory. -/
def hostVa (off : Nat) : DWord := BitVec.ofNat 64 (510 * 2 ^ 55 + off)
theorem ctxWrite_done {u : State} {rq : Req} {va a b : DWord} {t0 t8 : Target} (h0 : ctxTarget u rq va = .done t0)
    (h8 : ctxTarget u rq (va + 8) = .done t8) : ∃ v, ctxWrite u rq va a b = .done v := by
  unfold ctxWrite
  rw [h0, h8]
  exact ⟨_, rfl⟩
theorem ctxTarget_spad {s u : State} {rq : Req} {va : DWord} {v c o : Nat} (h1 : u.parts = s.parts) (h2 : u.moved = s.moved) (h3 : u.mnode = s.mnode)
    (h4 : u.blocks = s.blocks) (h5 : u.ops = s.ops) (d1 : route s rq.part va = .spad v c o) (d2 : allocHeld s rq.part rq.ctx v o = true)
    (d3 : deckHit s .store c o 8 = false) : ctxTarget u rq va = .done (.spad c o) := by
  have r : route u rq.part va = route s rq.part va := by unfold route physCore capOn; rw [h1, h2, h3]
  have a : allocHeld u rq.part rq.ctx v o = allocHeld s rq.part rq.ctx v o := by unfold allocHeld; rw [h4]
  have q : deckHit u .store c o 8 = deckHit s .store c o 8 := by unfold deckHit; rw [h5]
  simp [ctxTarget, r, a, q, d1, d2, d3]
/-- A status block in the block's scratchpad can be written whatever the engines hold. -/
def sCpS : State := sCp 1 srcC dstC []
theorem status_places : route sCpS 0 (sreg gCp 3) = .spad 0 0 0x100 ∧ allocHeld sCpS 0 0 0 0x100 = true ∧ deckHit sCpS .store 0 0x100 8 = false
    ∧ route sCpS 0 (sreg gCp 3 + 8) = .spad 0 0 0x108 ∧ allocHeld sCpS 0 0 0 0x108 = true ∧ deckHit sCpS .store 0 0x108 8 = false := by decide +kernel
theorem witness_Copies_status (u : State)
    (h : u = { sCpS with groups := u.groups, copies := u.copies, locks := u.locks, uid := u.uid }) :
    ∃ v, ctxWrite u { part := 0, ctx := 0, user := userLevel gCp } (sreg gCp 3) 4 0 = .done v := by
  have h1 := congrArg State.parts h
  have h2 := congrArg State.moved h
  have h3 := congrArg State.mnode h
  have h4 := congrArg State.blocks h
  have h5 := congrArg State.ops h
  clear h
  simp only at h1 h2 h3 h4 h5
  obtain ⟨d1, d2, d3, e1, e2, e3⟩ := status_places
  exact ctxWrite_done (ctxTarget_spad h1 h2 h3 h4 h5 d1 d2 d3) (ctxTarget_spad h1 h2 h3 h4 h5 e1 e2 e3)


/-! ## Witnesses: sealing -/

def sealS (save : Bool) (issued : Nat) : Seal :=
  { save := save, key := 0x0123456789abcdef, ctr := 77, ctx := 3, part := 2, seg := 5, cts := [], issued := issued, ended := false, code := 0 }
def gSe (x : Option Seal) : Group := { g0 with hlev := 2, s := [(4, va509 0 0x50000), (6, va509 0 0x52000)], sess := x }
def sSe (x : Option Seal) : State := st b0 (gSe x)
/-- A header of a segment of no chunk with this counter and tag (R384). -/
def sHead (ctr t0 t1 : Nat) : State :=
  let s := sSe (some (sealS false 0))
  { s with hbm := [(0, 0x100474553), (8, ctr), (16, 3 * 2 ^ 32 + 5), (32, 2), (48, t0), (56, t1)].foldl (fun m x => msetBytes m (0x52000 + x.1) 8 x.2) s.hbm }
def gSeal : Group := gSe (some (sealS false 0))
def sealTag : List Nat :=
  gcmTag (bytesLittle (sealS false 0).key.toNat 32) (sealIV (sealS false 0)) (segHead (sealS false 0) 0) []
def headOf (s : State) : List DWord := (wordsOf (readRecord s 0 (slotOf gSeal 0).exec (reqOf s gSeal) (sreg gSeal 6) 8)).getD []

theorem seal_shared : ∀ x, x = none ∨ x = some (sealS true 0) ∨ x = some (sealS false 0) ∨ x = some (sealS true (2 ^ 26)) →
    Ready (sSe x) 0 0 (gSe x) [] [4] [(7, 1)] ∧ Ready (sSe x) 0 0 (gSe x) [] [3, 6] [] ∧ converged (gSe x) = true ∧ (gSe x).hlev = 2
    ∧ capOn (sSe x) (reqOf (sSe x) (gSe x)).part capSealed = true ∧ tget (sSe x).blocks (gSe x).blk = some b0 ∧ (gSe x).out = []
    ∧ (gSe x).recs = [] := by
  rintro x (rfl | rfl | rfl | rfl) <;> exact ⟨ready_of (by decide +kernel), ready_of (by decide +kernel), by decide +kernel⟩

theorem witness_Sealing : (∀ save n, (save = true ∨ save = false) → n = 0 → (sealS save n).ended = false ∧ (sealS save n).issued < 2 ^ 26)
    ∧ 2 ^ 26 ≤ (sealS true (2 ^ 26)).issued ∧ elsewhere (Target.hbm 0 0x50000) = false
    ∧ (∃ e, checkAcc (sSe (some (sealS true 0))) (reqOf (sSe (some (sealS true 0))) (gSe (some (sealS true 0)))) .store (va509 0 0x50000) 128
        (va509 0 0x50000).toNat 128 = .ok (.hbm 0 0x50000) e)
    ∧ (∃ e, checkAcc (sSe (some (sealS true 0))) (reqOf (sSe (some (sealS true 0))) (gSe (some (sealS true 0)))) .store (va509 0 0x52000) 64
        (va509 0 0x52000).toNat 64 = .ok (.hbm 0 0x52000) e)
    ∧ (∃ e, checkAcc (sHead 77 0 0) (reqOf (sHead 77 0 0) gSeal) .load (va509 0 0x50000) 128 (va509 0 0x50000).toNat 128 = .ok (.hbm 0 0x50000) e)
    ∧ (∃ e, checkAcc (sHead 77 0 0) (reqOf (sHead 77 0 0) gSeal) .load (va509 0 0x52000) 64 (va509 0 0x52000).toNat 64 = .ok (.hbm 0 0x52000) e)
    ∧ poisonedT (sHead 77 0 0) (.hbm 0 0x50000) 128 = false ∧ (sreg gSeal 6).toNat % 64 = 0
    ∧ readRecord (sHead 77 0 0) 0 (slotOf gSeal 0).exec (reqOf (sHead 77 0 0) gSeal) (sreg gSeal 6) 8 = .words (headOf (sHead 77 0 0))
    ∧ (let w := headOf (sHead 77 0 0)
      (w.getD 0 0).toNat = 0x100474553 ∧ w.getD 2 0 = BitVec.ofNat 64 (3 * 2 ^ 32 + 5) ∧ w.getD 3 0 = 0 ∧ w.getD 4 0 = 2 ∧ (w.getD 5 0).toNat = 0
        ∧ w.getD 1 0 = (sealS false 0).ctr)
    ∧ (headOf (sHead 76 0 0)).getD 1 0 ≠ (sealS false 0).ctr ∧ ((headOf (sSe (some (sealS false 0)))).getD 0 0).toNat ≠ 0x100474553 :=
  ⟨by rintro s n (rfl | rfl) rfl <;> decide, by decide, rfl, acc_of (by decide +kernel), acc_of (by decide +kernel), acc_of (by decide +kernel),
    acc_of (by decide +kernel), by decide +kernel, by decide +kernel, words_of (by decide +kernel), by decide +kernel⟩
/-- Both clauses on the tag: a header with the tag of the segment, and one with none. -/
theorem seal_tag : sealTag = [117, 44, 27, 0, 137, 94, 223, 51, 119, 95, 60, 126, 226, 18, 56, 164] := by decide +kernel
theorem witness_Sealing_tag :
    (let s := sHead 77 3737810158246112373 11833228784905772919
     bytesLittle ((headOf s).getD 6 0).toNat 8 ++ bytesLittle ((headOf s).getD 7 0).toNat 8 = sealTag)
    ∧ bytesLittle ((headOf (sHead 77 0 0)).getD 6 0).toNat 8 ++ bytesLittle ((headOf (sHead 77 0 0)).getD 7 0).toNat 8 ≠ sealTag := by
  rw [seal_tag]
  decide +kernel

/-- A published value of AES-256-GCM: key, IV and plaintext all zero (NIST SP 800-38D's test cases). -/
theorem test_gcm : gcmTag (List.replicate 32 0) (List.replicate 12 0) []
    [0xCE, 0xA7, 0x40, 0x3D, 0x4D, 0x60, 0x6B, 0x6E, 0x07, 0x4E, 0xC5, 0xD3, 0xBA, 0xF3, 0x9D, 0x18]
    = [0xD0, 0xD1, 0xC8, 0xA7, 0x99, 0x99, 0x6B, 0xF0, 0x26, 0x5B, 0x98, 0xB5, 0xD4, 0x8A, 0xB9, 0x19] := by decide +kernel

/-! ## Witnesses: the near-bank engine -/

/-- A partition with every channel and slice and an allotment; a group with four pairs of spans of 64 KiB apart. -/
def partN : Part :=
  { stagePart with
    chans := List.replicate 4 0xFFFFFFFF, slices := List.replicate 4 0xFFFFFFFF, sqbase := 16, sqlen := 64 }
def gN (word : DWord) (hlev : BitVec 2) : Group :=
  { g0 with
    hlev := hlev, s := [(3, 0x20003), (4, word)]
    v := (List.range 4).flatMap (fun l => [(32 * 8 + l, (va509 0 (0x100000 + l * 65536)).setWidth 32), (32 * 9 + l, ((va509 0 0) >>> 32).setWidth 32)])
      ++ (List.range 4).flatMap (fun l => [(32 * 10 + l, (va509 0 (0x200000 + l * 65536)).setWidth 32), (32 * 11 + l, ((va509 0 0) >>> 32).setWidth 32)]) }
def sN (rl : Nat) (g : Group) (ls : List RLock) : State := { st (bCp rl) g with parts := [(0, partN)], locks := ls }
def lockN : RLock :=
  { die := 0, lo := (va509 0 0x100000).toNat, hi := (va509 0 0x101007).toNat, write := true, part := 0, ctx := 0, blk := 9, op := 5 }
def spansN (g : Group) (k : Nat) : List (Nat × DWord × DWord) :=
  [0, 1, 2, 3].map (fun l => (l, BitVec.ofNat 64 (vregs g 8 l 2), if k = 1 then BitVec.ofNat 64 (vregs g 10 l 2) else 0))
def locksN (s : State) (g : Group) (k : Nat) : List RLock :=
  let lock := fun (y : DWord) (w : Bool) => ({ die := vaDie y, lo := y.toNat, hi := y.toNat + 8191, write := w, part := 0, ctx := 0, blk := 0, op := s.uid } : RLock)
  (spansN g k).flatMap (fun x => if k = 1 then [lock x.2.1 false, lock x.2.2 true] else [lock x.2.1 true])

theorem witness_NearBankCommands : ¬LitPending (gN 0 0) 0 ∧ tget (sN 8 (gN 0 0) []).blocks 0 = some (bCp 8) ∧ (gN 0 0).out = [] ∧ (gN 0 0).recs = []
    ∧ capOn (sN 8 (gN 0 0) []) (reqOf (sN 8 (gN 0 0) []) (gN 0 0)).part capNbAssoc = true
    ∧ capOn (sN 8 (gN 0 0) []) (reqOf (sN 8 (gN 0 0) []) (gN 0 0)).part capNbCopy = true
    ∧ Ready (sN 8 (gN 0 0) []) 0 0 (gN 0 0) [] [24, 4] [(8, 2)] ∧ Ready (sN 8 (gN 0 0) []) 0 0 (gN 0 0) [] [24, 4] [(8, 4)]
    ∧ activeOf (gN 0 0) 0 ≠ 0 ∧ (gN 0 0).posted < 63
    ∧ (∀ k, k < 3 → (∀ x ∈ spansN (gN 0 0) k, (x.2.1.toNat % 8192 = 0 ∧ ∃ o ∈ [0x100000, 0x110000, 0x120000, 0x130000], route (sN 8 (gN 0 0) []) 0 x.2.1 = .paged 0 o)
        ∧ (k = 1 → x.2.2.toNat % 8192 = 0 ∧ ∃ o ∈ [0x200000, 0x210000, 0x220000, 0x230000], route (sN 8 (gN 0 0) []) 0 x.2.2 = .paged 0 o))
      ∧ nbRefusal (sN 8 (gN 0 0) []) (reqOf (sN 8 (gN 0 0) []) (gN 0 0)) (bCp 8) k 0 (spansN (gN 0 0) k) (4 * (if k = 1 then 2 else 1)) = 0
      ∧ (∀ l, l < 4 → (bankQueue (sN 8 (gN 0 0) []) l).length < 16)
      ∧ locksFree (sN 8 (gN 0 0) []) (bCp 8) 0 (locksN (sN 8 (gN 0 0) []) (gN 0 0) k) = true
      ∧ lockQueue (sN 8 (gN 0 0) []) 100 (locksN (sN 8 (gN 0 0) []) (gN 0 0) k) = false
      ∧ locksFree (sN 8 (gN 0 0) [lockN]) (bCp 8) 0 (locksN (sN 8 (gN 0 0) [lockN]) (gN 0 0) k) = false
      ∧ nbRefusal (sN 1 (gN 0 0) []) (reqOf (sN 1 (gN 0 0) []) (gN 0 0)) (bCp 1) k 0 (spansN (gN 0 0) k) (4 * (if k = 1 then 2 else 1)) ≠ 0)
    ∧ (activeOf (gGuard 1) 0 = 0 ∧ Ready (st b0 (gGuard 1)) 0 0 (gGuard 1) [] [24, 4] [(8, 4)])
    ∧ (let g := gN (va509 0 0x50000) 2
      let s := sN 8 g []
      Ready s 0 0 g [] [3, 4] [] ∧ converged g = true ∧ g.hlev = 2 ∧ (sreg g 4).toNat % 8 = 0 ∧ (allotment s 0).1 + (allotment s 0).2 ≤ 4096
        ∧ ¬(sreg g 3).toNat / 2 ^ 29 ≠ 0 ∧ ¬(sreg g 3).toNat / 2 ^ 12 % 16 ≠ 0 ∧ (sreg g 3).toNat / 2 ^ 16 % 2 ^ 13 = 2
        ∧ (sreg g 3).toNat % 4096 + 2 ≤ (allotment s 0).2
        ∧ readRecord s 0 (slotOf g 0).exec (reqOf s g) (sreg g 4) 2 = .words [0, 0] ∧ s.nbcmds = []) :=
  ⟨noLit rfl, by decide +kernel, rfl, rfl, by decide +kernel, by decide +kernel, ready_of (by decide +kernel), ready_of (by decide +kernel),
    by decide +kernel, by decide, by decide +kernel, ⟨by decide +kernel, ready_of (by decide +kernel)⟩,
    ready_of (by decide +kernel), by decide +kernel, by decide, by decide +kernel, by decide +kernel, by decide +kernel, by decide +kernel,
    by decide +kernel, by decide +kernel, words_of (by decide +kernel), rfl⟩

def cmdIdle : NbCmd :=
  { kind := 0, part := 0, ctx := 0, blk := 0, gid := 0, user := false, word := 0, spans := [], status := none, locks := [], started := true
    out := 0, units := [], issued := 0, past := [], first := 0xFFF, last := 0xFFF }
/-- A microprogram of the partition that runs: a load of the store waits, and a program of another partition does not. -/
theorem witness_NearBankCommands_waits : let g := gN (va509 0 0x50000) 2
    let c := cmdIdle
    let s := { sN 8 g [] with nbcmds := [(5, c)] }
    Ready s 0 0 g [] [3, 4] [] ∧ acqPending g = false ∧ s.nblds = [] ∧ (∃ c ∈ s.nbcmds, c.2.part = 0 ∧ c.2.kind = 0 ∧ c.2.started = true)
      ∧ readRecord s 0 (slotOf g 0).exec (reqOf s g) (sreg g 4) 2 = .words [0, 0]
      ∧ ∀ e ∈ ({ s with nbcmds := [(5, { c with part := 1 })] } : State).nbcmds, e.2.part ≠ 0 ∨ e.2.kind ≠ 0 ∨ e.2.started = false :=
  ⟨ready_of (by decide +kernel), by decide +kernel, rfl, by decide +kernel, words_of (by decide +kernel), by decide +kernel⟩

/-- A command with a running unit over one chunk and a stopped one; an allotment of 8 from 16. -/
def unitU : NbUnit :=
  { lane := 0, st := .running, code := 0, sel := [0, 1, 2, 3, 4, 5, 6, 7], key := 0, mask := 0, tag := 5, c := 3, ip := 4, src := [0x100000], dst := [] }
def cmdU (us : List NbUnit) (issued : Nat) : NbCmd :=
  { kind := 0, part := 0, ctx := 0, blk := 0, gid := 0, user := false, word := 0, spans := [], status := none, locks := [], started := true
    out := 0, units := us, issued := issued, past := [], first := 0xFFF, last := 0xFFF }
def sU (c : NbCmd) : State := { s0 with parts := [(0, { stagePart with sqbase := 16, sqlen := 8 })], nbcmds := [(5, c)], issuer := .nb 5 }
theorem witness_Microinstructions : (let c := cmdU [unitU, { unitU with st := .stopped }] 0
      (sU c).issuer = .nb 5 ∧ tget (sU c).nbcmds 5 = some c ∧ c.at? = some 4 ∧ c.issued + 1 < 2 ^ 24 ∧ (allotment (sU c) 0).2 = 8
        ∧ c.units.filter (fun x => decide (x.st = .running)) = [unitU] ∧ (∀ j, j < 8 → (unitU.sel.getD j 0).toNat < 8 * unitU.src.length)
        ∧ unitU.src.Nodup ∧ ∀ p ∈ unitU.src, p % 8192 = 0)
    ∧ (cmdU [{ unitU with ip := 7 }] 0).at? = some 7
    ∧ 8 * unitU.src.length ≤ (({ unitU with sel := [8, 1, 2, 3, 4, 5, 6, 7] } : NbUnit).sel.getD 0 0).toNat
    ∧ (cmdU [unitU] (2 ^ 24 - 1)).issued + 1 = 2 ^ 24 := by decide +kernel

/-! ## Witnesses: the harts -/

def hx (ks : List (Nat × BitVec 129)) (xs : List (Nat × DWord)) (lvl : HLevel) (icr : DWord) : Hart :=
  { Hart.reset with pc := 0x1000, k := ks, x := xs, lvl := lvl, kp := mkCap true 0x1000 2 0 0x3FFF 0x3FF 0, fetched := some (4, 5), icr := icr }
def sHart (x : Hart) : State := { staged State.reset 0 with issuer := .hart 2, harts := tset State.reset.harts 2 x, svcRoots := [0x2000, 0, 0, 0] }
/-- Capabilities over all addresses, at a cursor, with permissions and a type. -/
def capAll (cur perm type : Nat) : BitVec 129 := mkCap true cur 50 0 0x3FFF perm type
def at5 : Nat := (va509 0 0x50000).toNat
def hH : Hart := hx [(1, capAll at5 0x3FF 0), (2, capAll 5 0x60 0), (3, mkCap true 0x7000 60 9 3 0x1FF 0)] [(1, 100), (3, 0xFFFFFFFFFFFFFFFF)] .hs 0

theorem witness_HartCapabilities : (sHart hH).issuer = .hart 2 ∧ tget (sHart hH).harts 2 = some hH ∧ hH.busy = false ∧ hH.refused = none
    ∧ 2 ^ 64 < capCur (kget hH 1) + (xget hH 3).toNat ∧ capCur (kget hH 1) + (xget hH 1).toNat ≤ 2 ^ 64 ∧ xget hH 3 ≠ 0
    ∧ (capE (kget hH 1) ≤ 50 ∧ capBM (kget hH 1) ≤ capTM (kget hH 1)) ∧ ¬(capE (kget hH 3) ≤ 50 ∧ capBM (kget hH 3) ≤ capTM (kget hH 3)) := by
  decide +kernel

/-- Whether a hart's request was done at once. -/
def reqDone (r : HartReq) : Bool :=
  match r with
  | .done _ _ => true
  | _ => false
theorem req_done {r : HartReq} (h : reqDone r = true) : ∃ u data, r = .done u data := by
  cases r <;> simp_all [reqDone]

/-- k1 may everything, k2 is untagged, k3 sealed, k4 read-only, k5 ends before the address; k6 jumps, k7 and k8 are a return
pair, k9 calls through the gate at its cursor. -/
def hA : Hart :=
  hx [(1, capAll at5 0x3FF 0), (2, mkCap false at5 50 0 0x3FFF 0x3FF 0), (3, capAll at5 0x3FF 4), (4, capAll at5 0x001 0), (5, mkCap true at5 0 0 0 0x3FF 0),
    (6, mkCap true 0x4000 2 0 0x3FFF 0x3FF 0), (7, mkCap true 0x4000 2 0 0x3FFF 0x3FF 15), (8, mkCap true 0x5000 2 0 0x3FFF 0x1FF 15), (9, capAll at5 0x3FF 2),
    (15, capAll at5 0x3FF 0)] [(1, 7), (2, 10), (3, 11), (4, 0x1000)] .vu 0
def sA : State :=
  let s := sHart hA
  { s with
    hbm := msetBytes (msetBytes s.hbm 0x50000 16 ((mkCap true 0x4000 2 0 0x3FFF 0x3FF 0).toNat % 2 ^ 128)) 0x50010 16 ((capAll at5 0x3FF 0).toNat % 2 ^ 128)
    ctag := mset (mset s.ctag 0x5000 1) 0x5001 1, notify := [(7, 10)] }
/-- An authority that passes every check for the permissions and the bytes. -/
def mayAll (c : BitVec 129) (perms : List Nat) (addr n : Nat) : Bool :=
  capTag c && decide (capType c = 0) && perms.all (fun p => (BitVec.ofNat 16 (capPerm c)).getLsbD p) && decide (capBase c ≤ addr)
    && decide (addr + n ≤ capTop c)
def hasPerm (c : BitVec 129) (p : Nat) : Bool := (BitVec.ofNat 16 (capPerm c)).getLsbD p
def gateDone (r : HartReq × Bool) : Bool := reqDone r.1
def gateCap (r : HartReq × Bool) (c : BitVec 129) : BitVec 129 :=
  match r.1 with
  | .done _ w => capLoad c w r.2
  | _ => 0

theorem witness_HartAccesses : sA.issuer = .hart 2 ∧ tget sA.harts 2 = some hA ∧ hA.busy = false ∧ hA.refused = none
    -- CLC and CSC: each way to fail the checks, a misaligned address, and one that passes
    ∧ capTag (kget hA 2) = false ∧ (capTag (kget hA 3) = true ∧ capType (kget hA 3) ≠ 0)
    ∧ (capTag (kget hA 4) = true ∧ capType (kget hA 4) = 0 ∧ hasPerm (kget hA 4) 3 = false ∧ hasPerm (kget hA 4) 1 = false)
    ∧ (capTag (kget hA 5) = true ∧ capType (kget hA 5) = 0 ∧ hasPerm (kget hA 5) 0 = true ∧ hasPerm (kget hA 5) 3 = true
      ∧ hasPerm (kget hA 5) 1 = true ∧ hasPerm (kget hA 5) 4 = true ∧ capTop (kget hA 5) < at5 + 16)
    ∧ mayAll (kget hA 1) [0, 3] at5 16 = true ∧ mayAll (kget hA 1) [1, 4] (at5 + 8) 16 = true ∧ at5 % 16 = 0 ∧ (at5 + 8) % 16 ≠ 0
    ∧ reqDone (hartReq sA hA (hartIn hA 2 .rd 16 (va509 0 0x50000) 0 false 44)) = true
    ∧ reqDone (hartReq sA hA (hartIn hA 2 .wr 16 (va509 0 0x50000) ((kget hA 6).toNat % 2 ^ 128) false 64)) = true
    ∧ tagAt sA (hartIn hA 2 .wr 16 (va509 0 0x50000) ((kget hA 6).toNat % 2 ^ 128) false 64) = some 0x5000
    -- CJALR: a jump, a return pair and a broken one, a gate
    ∧ capType (kget hA 6) = 0 ∧ mayAll (kget hA 6) [2] 0x4000 2 = true ∧ hasPerm (kget hA 4) 2 = false
    ∧ (capTag (kget hA 7) = true ∧ capTag (kget hA 8) = true ∧ capType (kget hA 7) = 15 ∧ capType (kget hA 8) = 15) ∧ capType (kget hA 6) ≠ 15
    ∧ (capType (kget hA 9) = 2 ∧ capTag (kget hA 9) = true ∧ hasPerm (kget hA 9) 7 = true ∧ hasPerm (kget hA 9) 3 = true
      ∧ capCur (kget hA 9) % 32 = 0 ∧ capBase (kget hA 9) ≤ capCur (kget hA 9) ∧ capCur (kget hA 9) + 32 ≤ capTop (kget hA 9))
    ∧ (let r0 := gateRead sA hA 2 (kget hA 9) (BitVec.ofNat 64 at5)
      let r1 := gateRead sA hA 2 (kget hA 9) (BitVec.ofNat 64 (at5 + 16))
      gateDone r0 = true ∧ gateDone r1 = true ∧ capTag (gateCap r0 (kget hA 9)) = true ∧ capTag (gateCap r1 (kget hA 9)) = true
        ∧ capType (gateCap r0 (kget hA 9)) = 0 ∧ capType (gateCap r1 (kget hA 9)) = 0 ∧ hasPerm (gateCap r0 (kget hA 9)) 2 = true)
    -- WFN and NTFY: a register in range at 10, compared with 10 and 11, and one out of range
    ∧ (hasPerm (kget hA 15) 9 = true ∧ (xget hA 1).toNat < 4096 ∧ hA.icr.toNat % 32 < 16 ∧ capOn sA 0 capNotify = true ∧ mget sA.notify 7 = 10
      ∧ (xget hA 2).toNat ≤ 10 ∧ 10 < (xget hA 3).toNat ∧ 4096 ≤ (xget hA 4).toNat) := by decide +kernel

/-! ## Witnesses: what ends accesses and waits -/

def outOf (cls : OCls) (uid : Nat) : Out :=
  { uid := uid, cls := cls, sem := 0, regs := [], vw := [], sw := none, stores := [], zero := false, pend := 0, fin := false, sealed := false, lanes := none, rmw := false }
def oSt : Out :=
  { outOf .st 5 with sem := 9, stores := [{ lane := 0, addr := va509 0 0x50000, tgt := .hbm 0 0x50000, size := 4, data := 0x1234 }] }
/-- A group with a copy, a load, a store and a near-bank command outstanding. -/
def gEv : Group := { g0 with out := [outOf .cp 2, oLd, oSt, outOf .nb 6] }
def sEv : State := st b0 gEv
def reqEv (cls : Nat) : RReq :=
  { src := 0, part := 0, ctx := 0, node := 5, addr := 0x77, kind := .rd, op := 0, size := 4, a := 0, b := 0, port := some 0, owner := .lane 0 (if cls = 0 then 3 else 5) 2 7 1 }
def gWait (w : Wait) : Group := { g0 with a := { g0.a with wait := w } }
def lockE (op : Nat) : RLock := { die := 0, lo := 1, hi := 5, write := false, part := 0, ctx := 0, blk := 0, op := op }
def copyE (started : Bool) (src dst : List DWord) : Copy :=
  { part := 0, ctx := 0, blk := 0, gid := 0, core := 0, user := true, out := 50, src := src, dsts := [dst], status := none, locks := [lockE 50]
    started := started, phase := 0, prog := 0, waits := 0, buf := [], fails := [], wfails := [], ends := none }
def cmdE : NbCmd :=
  { cmdU [{ unitU with st := .queued }] 0 with word := 0x10000000, locks := [lockE 50], started := false, out := 50 }
/-- A copy of four bytes, and the states between its units. -/
def tr4 (base : DWord) : List DWord := [base, 0, 0, 4, 0, 0, 0, 0]
def cp4 : Copy := copyE true (tr4 (va509 0 0x51000)) (tr4 (va509 0 0x52000))
def gCp4 : Group := { g0 with out := [oLd, outOf .cp 50] }
def sCp4 : State := { st (bCp 4) gCp4 with copies := [(50, cp4)], locks := cp4.locks }
def fCp4 : Nat → State
  | 0 => { sCp4 with copies := tset sCp4.copies 50 { cp4 with phase := 1 } }
  | k + 1 => writeT (touch (fCp4 k) none (.hbm 0 (0x51000 + k)) 1 false) (.hbm 0 (0x52000 + k)) 1 (readT (fCp4 k) (.hbm 0 (0x51000 + k)) 1)
def opE : Oper := { opH with entries := [] }
def bindE : Bind := { gid := 0, side := 0, d := 3, handle := 7, ops := [(1, opE)] }

theorem witness_AccessEvents :
    -- the group and what is outstanding: each clause's access, with what stands before and after it
    (tget sEv.groups 0 = some gEv ∧ gEv.out = [outOf .cp 2] ++ oLd :: [oSt, outOf .nb 6]
      ∧ (∀ e ∈ [outOf .cp 2] ++ [oSt, outOf .nb 6], e.uid ≠ oLd.uid) ∧ oLd.cls = .ld ∧ oLd.pend = 0 ∧ (∀ e ∈ [outOf .cp 2], e.cls ≠ .ld))
    ∧ (gEv.out = [outOf .cp 2, oLd] ++ oSt :: [outOf .nb 6] ∧ oSt.cls = .st ∧ oSt.zero = false ∧ oSt.stores ≠ []
      ∧ (∀ w ∈ oSt.stores, elsewhere w.tgt = false) ∧ (∀ e ∈ [outOf .cp 2, oLd], e.stores = [] ∧ e.pend = 0 ∧ unread e = false ∧ e.cls ≠ .st) ∧ 8 ≤ oSt.sem.toNat ∧ oSt.sem.toNat < 12)
    ∧ ((reqEv 0).owner = .lane 0 oLd.uid 2 7 1 ∧ (reqEv 1).owner = .lane 0 oSt.uid 2 7 1 ∧ (reqEv 0).node ≠ 510 ∧ (4 : Word).getLsbD 2 = true)
    -- a copy and a posted command that wait for their locks
    ∧ (let s := { st (bCp 4) (gWait (.engine 50)) with copies := [(50, copyE false [] [])] }
      tget s.copies 50 = some (copyE false [] []) ∧ s.nbcmds = [] ∧ (∀ e ∈ s.copies, e = (50, copyE false [] [])) ∧ (lockE 50).die = 0
        ∧ (∀ w ∈ [([] : List DWord), []], ∀ j, j < (trec w).units → unitFlips s { part := 0, ctx := 0, user := true } ((trec w).addr j) = false)
        ∧ locksFree s (bCp 4) 0 [lockE 50] = true ∧ lockQueue s 50 [lockE 50] = false)
    ∧ (let s := { st (bCp 4) (gWait (.engine 50)) with nbcmds := [(50, cmdE)] }
      tget s.nbcmds 50 = some cmdE ∧ s.copies = [] ∧ cmdE.word.getLsbD 28 = true ∧ locksFree s (bCp 4) 0 [lockE 50] = true
        ∧ lockQueue s 50 [lockE 50] = false ∧ s.nblds = []
        ∧ nbBiased s { part := cmdE.part, ctx := cmdE.ctx, user := cmdE.user } cmdE.kind cmdE.word cmdE.spans = false ∧ ∀ u ∈ cmdE.units, (bankQueue s (cmdE.word.toNat % 512 * 32 + u.lane)).length < 16)
    -- waits that end, or do not
    ∧ (g0.out = [] ∧ g0.ref = none ∧ g0.nbwin.getLsbD 12 = false ∧ g0.st = .resident ∧ g0.kids = 0 ∧ g0.posted = 0)
    ∧ ((gWait (.counters 0)).a.wait = .counters 0 ∧ (gEv.out.filter (fun o => decide (o.cls = .ld))).length = 1)
    ∧ (tget s0.ops 9 = none ∧ tget s0.flips 4 = none ∧ s0.heldAcc = [])
    ∧ (let s := { st b0 (gWait (.engine 50)) with binds := [(50, bindE)] }
      tget s.copies 50 = none ∧ tget s.binds 50 = some bindE ∧ standsStill s (gWait (.engine 50)) = false ∧ ∀ o ∈ bindE.ops, opBusy s o.2 = false)
    ∧ (let s := { s0 with ops := [(1, opE)] }; tget s.ops (0 * 64 + 1) = some opE ∧ ∀ j, j < opE.s → (entryOf opE (1 * opE.s + j)).q = 0) := by
  refine ⟨?_, ?_, ?_, ?_, ?_, ?_, ?_, ?_, ?_, ?_⟩ <;> decide +kernel

theorem witness_AccessEvents_copy : tget sCp4.copies 50 = some cp4 ∧ gCp4.out = [oLd] ++ outOf .cp 50 :: [] ∧ cp4.started = true ∧ cp4.waits = 0
    ∧ cp4.phase = 0 ∧ cp4.prog = 0 ∧ cp4.fails = [] ∧ (trec cp4.src).units = 4 ∧ (trec cp4.src).unit = 1
    ∧ (∀ w ∈ [cp4.src, tr4 (va509 0 0x52000)], ∀ j, j < 4 → unitFlips sCp4 { part := 0, ctx := 0, user := true } ((trec w).addr j) = false)
    ∧ copyRefused sCp4 cp4 { part := 0, ctx := 0, user := true } = none ∧ firstS2 sCp4 { part := 0, ctx := 0, user := true } cp4 = none
    ∧ engWaits sCp4 { part := 0, ctx := 0, user := true } cp4 = false ∧ cp4.wfails = [] ∧ cp4.ends = none
    ∧ (∀ j, j < 4 → engAcc sCp4 { part := 0, ctx := 0, user := true } .load ((trec cp4.src).addr j) 1 = .ok (.hbm 0 (0x51000 + j)))
    ∧ ∀ k, k < 4 → engAcc (fCp4 k) { part := 0, ctx := 0, user := true } .load ((trec cp4.src).addr k) 1 = .ok (.hbm 0 (0x51000 + k))
      ∧ poisonedT (fCp4 k) (.hbm 0 (0x51000 + k)) 1 = false
      ∧ engAcc (touch (fCp4 k) none (.hbm 0 (0x51000 + k)) 1 false) { part := 0, ctx := 0, user := true } .store ((trec (tr4 (va509 0 0x52000))).addr k) 1 = .ok (.hbm 0 (0x52000 + k)) := by
  decide +kernel

/-! ## Witnesses: the groups' events -/

/-- A block of two groups that may acquire three blocks of registers; a group that waits for two. -/
def bAl : Block :=
  { b0 with
    desc := { stageDesc with variants := [{ stageVariant with xblk := 3, groups := 16 }] }
    bars := [{ phase := 7, arrived := [], expect := none, gathering := false }] }
def gAl (k held n : Nat) : Group :=
  { g0 with idx := k, gslot := k, pidx := 0, age := k, held := held, xreq := some n, a := { g0.a with wait := .xacq n } }
/-- Sixteen groups that hold every block of the core and all want one more. -/
def sDead : State := { stN bAl ((List.range 16).map (fun k => (k, gAl k 2 3))) with ctxs := [(0, cxR)] }
/-- A parked group, its park area with slot A live; for the allocator, and with a second-stage wait behind it. -/
def gPark (s2 : Option (Nat × Nat)) (r : Nat) (want : Option Nat) : Group :=
  { g0 with st := .parked, reason := r, a := Slot.free, v := [], s := [], p := [], xreq := want, s2at := s2 }
def sPark (g : Group) : State :=
  let s := st bAl g
  { s with ctxs := [(0, cxR)], spad := msetBytes (msetBytes s.spad 64 8 stagePc.toNat) 72 8 0xF08000007 }
def parkWords (g : Group) (at_ n : Nat) : List DWord :=
  match devRead (sPark g) { part := 0, ctx := 0, user := false } (cxR.park + BitVec.ofNat 64 at_) n with
  | .done w => w
  | _ => []
def gXreq : Group := gPark none 1 (some 2)
def gS2 : Group := gPark (some (0, 3)) 5 none
theorem park_reads : ∀ g, g = gXreq ∨ g = gS2 →
    (∃ w, devRead (sPark g) { part := 0, ctx := 0, user := false } (cxR.park + BitVec.ofNat 64 (g.pidx * 18432)) 256 = .done w)
    ∧ (∃ w, devRead (sPark g) { part := 0, ctx := 0, user := false } (cxR.park + BitVec.ofNat 64 (g.pidx * 18432) + 0x800) (16 * (32 + 32 * g.held)) = .done w)
    ∧ (let w := parkWords g 0 256
      let a := readSlot (w.drop 8)
      (w.getD 0 0).toNat / 2 ^ 16 % 256 = 0 ∧ a.live = true ∧ a.exec ≠ 0 ∧ mrValid a.mr = true ∧ pcValid a.pc = true ∧ a.jp = false
        ∧ (w.getD 13 0).getLsbD 27 = false) := by
  rintro g (rfl | rfl) <;> exact ⟨done_some (by decide +kernel), done_some (by decide +kernel), by decide +kernel⟩
theorem park_writes : ∃ u, devWrite2 sDead { part := 0, ctx := 0, user := false } (cxR.park + BitVec.ofNat 64 0) (parkHead (gAl 15 2 3) 1 0)
    (cxR.park + BitVec.ofNat 64 0 + 0x800) (parkRegs (gAl 15 2 3)) = .done u := done_some (by decide +kernel)

def mon0 : Mon := { die := 0, gid := 0, tgt := .hbm 0 8, size := 4, cond := 0, val := 3, cap := some 99 }
def svc0 (kind : Nat) : SvcReq :=
  { part := 0, ctx := 0, seq := 8, gid := 0, lanes := 3, kind := kind, slot := spadAddr 0 0x8000, wake := .spad 0 0x9040, hit := true, woken := false
    args := [], reply := [], asked := false, waits := 0, bad := [] }
def sSvc (kind : Nat) : State := { st b0 { g0 with st := .parked, reason := 2 } with ctxs := [(0, cxR)], svcreqs := [(6, svc0 kind)] }
def gPoll (v : DWord) : Group := gWait (.watchPoll 3 (va509 0 0x50000) 4 0 v)

theorem witness_GroupEvents :
    (let s := st bAl (gAl 0 0 2); oldestWant s 0 = some (0, gAl 0 0 2, 2) ∧ 2 - (gAl 0 0 2).held ≤ freeExt s 0 ∧ tget s.blocks 0 = some bAl
      ∧ tget s.ctxs (bAl.part * 1024 + bAl.ctx) = some stageCtx)
    ∧ (allocDeadlock sDead 0 = true ∧ allocVictim sDead 0 = some 15 ∧ tget sDead.groups 15 = some (gAl 15 2 3) ∧ (gAl 15 2 3).out = [])
    ∧ (oldestWant (sPark gXreq) 0 = some (0, gXreq, 2) ∧ 2 ≤ freeExt (sPark gXreq) 0 ∧ gXreq.susp = [] ∧ gXreq.held ≤ 3)
    ∧ ((gWait (.barWait 0 6)).a.wait = .barWait 0 6 ∧ (bAl.bars.getD 0 bar0).phase = 7)
    ∧ (let x := gWait (.watchMon 3 44); watchSide x = 0 ∧ tget ({ b0 with mons := [(44, mon0)] } : Block).mons 44 = some mon0 ∧ mon0.cap = some 99 ∧ x.st = .resident)
    ∧ (∀ v : DWord, v = 0 ∨ v = 1 → watchSide (gPoll v) = 0 ∧ (gPoll v).a.wait = .watchPoll 3 (va509 0 0x50000) 4 0 v
      ∧ accTgt (checkAcc { st b0 (gPoll v) with locks := [], ops := [] } (reqOf (st b0 (gPoll v)) (gPoll v)) .load (va509 0 0x50000) 4 (va509 0 0x50000).toNat 4)
        = some (.hbm 0 0x50000)
      ∧ poisonedT (st b0 (gPoll v)) (.hbm 0 0x50000) 4 = false ∧ ownWordHits (st b0 (gPoll v)) 0 (.hbm 0 0x50000) = false
      ∧ watchHolds 0 4 (BitVec.ofNat 64 (readT (st b0 (gPoll v)) (.hbm 0 0x50000) 4)) v = decide (v = 0))
    ∧ (mate.st = .resident ∧ rgbAt mate = none ∧ b0.joint = false ∧ ({ g0 with st := .exiting } : Group).out = [])
    ∧ (∀ kind, kind = 9 ∨ kind = 0x400001 → requestOf (sSvc kind) 0 = some (6, svc0 kind) ∧ (svc0 kind).hit = true ∧ (svc0 kind).woken = false)
    ∧ isDone (devRead (sSvc 9) { part := 0, ctx := 0, user := false } ((svc0 9).slot + 0x840) 256) = true
    ∧ (gS2.st = .parked ∧ gS2.reason = 5 ∧ gS2.s2at = some (0, 3) ∧ (0, 0, 3) ∉ (sPark gS2).s2wait ∧ resumeCore (sPark gS2) 0 gS2 bAl = some 0 ∧ gS2.susp = []) := by
  refine ⟨by decide +kernel, by decide +kernel, by decide +kernel, by decide +kernel, by decide +kernel, ?_, by decide +kernel, ?_, by decide +kernel,
    by decide +kernel⟩
  · rintro v (rfl | rfl) <;> decide +kernel
  · rintro k (rfl | rfl) <;> decide +kernel

/-! ## Witnesses: the dispatcher and operators at work -/

/-- What a dispatcher's read, a launch check and a reservation give, as propositions from computed tests. -/
def isWords (r : DRd) : Bool :=
  match r with
  | .words _ => true
  | _ => false
theorem drd_words {r : DRd} (h : isWords r = true) : ∃ w, r = .words w := by
  cases r <;> simp_all [isWords]
def launchTest (r : Checked) (f : KDesc → List DWord → Bool) : Bool :=
  match r with
  | .ok d sl => f d sl
  | _ => false
theorem launch_ok {r : Checked} {f : KDesc → List DWord → Bool} (h : launchTest r f = true) : ∃ e sl, r = .ok e sl ∧ f e sl = true := by
  cases r with
  | ok d sl => exact ⟨d, sl, rfl, h⟩
  | _ => cases h
def reserveTest (r : Except State (Option (Nat × List Nat))) (f : List Nat → Bool) : Bool :=
  match r with
  | .ok (some (_, run)) => f run
  | _ => false
theorem reserve_ok {r : Except State (Option (Nat × List Nat))} {s : State} (h : reserveTest r (fun run => (occupants s run).isEmpty) = true) :
    ∃ v run, r = .ok (some (v, run)) ∧ occupants s run = [] := by
  unfold reserveTest at h
  split at h
  · exact ⟨_, _, rfl, List.isEmpty_iff.1 h⟩
  · cases h

/-- A partition whose queue table lies in the scratchpad, a queue, a launch record and its kernel descriptor. -/
def partQ : Part := { stagePart with qtab := spadAddr 0 0x7000 }
def qOf (st_ : QSt) (tail head : DWord) (grid : Option Nat) : Queue :=
  { st := st_, tail := tail, head := head, cause := 0, haddr := 0, ring := spadAddr 0 0x6000, ctx := 0, logn := 3, serial := false, grid := grid, prev := none, en := true }
def dE : Disp := { decisions := 4, marks := 0, cycle := [], last := [], reserving := none, waiters := [], recs := [] }
def lrE : List DWord := [spadAddr 0 0x1000, 0x0001000100000002, 0x5, 0, 0, 0, spadAddr 0 0x2000, 77, 0, 0, 0, 0, 0, 0, 0, 0]
def gE (st_ : GridSt) : Grid := { stageGrid with st := st_, src := .queue 3, addr := spadAddr 0 0x6100, lrec := lrE, next := 0, live := 0 }
def qWords (w1 tail : DWord) : List DWord := [spadAddr 0 0x6000, w1, tail, 2]
def sQueue (w1 tail : DWord) (qs : Tbl Queue) : State :=
  let s := stN b0 []
  { s with parts := [(0, partQ)], queues := qs, spad := (List.range 4).foldl (fun m k => msetBytes m (0x70C0 + 8 * k) 8 ((qWords w1 tail).getD k 0).toNat) s.spad }
def sDisp (gr : Grid) (d : Disp) : State :=
  let s := stN b0 []
  { s with
    parts := [(0, partQ)], grids := [(9, gr)], queues := [(3, qOf .active 5 2 (some 9))], disps := [(0, d)]
    spad := msetBytes (msetBytes (msetBytes s.spad 0x1000 8 0x0001002000000000) 0x1040 8 0x0001020100001000) 0x1048 8 stagePc.toNat }
def qW (w1 tail : DWord) : Option (List DWord) := some (qWords w1 tail ++ [0, 0, 0, 0])

theorem witness_DispatchEvents_queue :
    (let s := sQueue 0x31 5 [];
      queueRecord s 0 3 = qW 0x31 5 ∧ (0x31 : DWord) &&& 0xFFFFFC00FFFFFE0E#64 = 0 ∧ ctxLive s 0 0 = true)
    ∧ (∃ v, devWrite (sQueue 0x31 5 [(3, qOf .active 2 2 none)]) { part := 0, ctx := 0, user := false } (partQ.qtab + BitVec.ofNat 64 (64 * 3) + 24) [2, 1, 0] = .done v)
    ∧ queueRecord (sQueue 0x30 5 [(3, qOf .active 5 2 (some 9))]) 0 3 = qW 0x30 5
    ∧ (∀ tail : DWord, tail = 10 ∨ tail = 11 ∨ tail = 1 → queueRecord (sQueue 0x31 tail [(3, qOf .active 2 2 none)]) 0 3 = qW 0x31 tail)
    ∧ ((10 : DWord).toNat - (2 : DWord).toNat ≤ 2 ^ 3 ∧ 2 ^ 3 < (11 : DWord).toNat - (2 : DWord).toNat ∧ (1 : DWord).toNat < (2 : DWord).toNat)
    ∧ (let s := sQueue 0x31 5 [(3, qOf .active 5 2 none)];
      ctxServed s 0 0 = true ∧ (∃ w, dispRead s { part := 0, ctx := 0, user := false } (spadAddr 0 0x6100) 16 = .words w)
        ∧ (spadAddr 0 0x6000 + BitVec.ofNat 64 ((2 : DWord).toNat % 2 ^ 3 * 128) = spadAddr 0 0x6100))
    ∧ (let s := sDisp { gE .queued with st := .queued } dE; tget s.grids 9 = some (gE .queued) ∧ depsMet s 0 lrE = true) := by
  refine ⟨by decide +kernel, done_some (by decide +kernel), by decide +kernel, ?_, by decide +kernel,
    ⟨by decide +kernel, drd_words (by decide +kernel), by decide +kernel⟩, by decide +kernel⟩
  rintro t (rfl | rfl | rfl) <;> decide +kernel

/-- The state and the dispatcher that decide. -/
def deciding (s : State) : State := ((decider s 0).map Prod.snd).getD s
def bad9 : Grid := { gE .eligible with lrec := lrE.set 9 5 }
/-- A swapped-out block that may return: its image lies in another block's allocation. -/
def bRet : Block :=
  { b0 with
    swapped := true, marked := some 2, passed := 3, claimed := true, order := 7, spadOff := [0x20000], prio := 2, bars := []
    desc := { stageDesc with variants := [{ stageVariant with spad := 0x40 }] } }
def cxD : Ctx := { stageCtx with swapbase := spadAddr 0 0x4000, nswap := 4, swapstride := 0x1000 }
def sRet : State :=
  { stN b0 [(0, { g0 with blk := 5, st := .exited })] with
    parts := [(0, partQ)], ctxs := [(0, cxD)], grids := [], blocks := [(0, b0), (5, bRet)], disps := [(0, dE)] }
def sGang : State :=
  { sDisp { gE .placing with passed := 64 } { dE with waiters := [.queue 3, .queue 7] } with
    parts := [(0, { partQ with cmap := [(0, 0x8000), (1, 0x8001)] })], groups := [(0, g0)] }

theorem witness_DispatchEvents :
    (let s := sDisp (gE .eligible) dE;
      (∃ d, decider s 0 = some (d, deciding s) ∧ candidates (deciding s) 0 d = [{ src := .queue 3, prio := 5, ask := .enter 9 }])
      ∧ badRecord (capOn (deciding s) 0 capNotify) false lrE = none ∧ lrecResident lrE = false
      ∧ ∃ e sl, checkLaunch (deciding s) (gE .eligible) = .ok e sl ∧ fitsEmpty (deciding s) 9 (gE .eligible) e sl = true)
    ∧ (let s := sDisp bad9 dE;
      (∃ d, decider s 0 = some (d, deciding s) ∧ candidates (deciding s) 0 d = [{ src := .queue 3, prio := 5, ask := .enter 9 }])
      ∧ badRecord (capOn (deciding s) 0 capNotify) false bad9.lrec = some 9)
    ∧ (let s := sDisp (gE .placing) dE;
      (∃ d, decider s 0 = some (d, deciding s) ∧ candidates (deciding s) 0 d = [{ src := .queue 3, prio := 5, ask := .place 9 }])
      ∧ (∃ e sl, checkLaunch (deciding s) (gE .placing) = .ok e sl ∧ (spotOf (deciding s) (gE .placing) e 5).isSome = true)
      ∧ isService (gE .placing) = false ∧ ∀ b ∈ (deciding s).blocks, b.2.part = 0 → b.2.stop = false)
    ∧ (let u := deciding sRet;
      (∃ d, decider sRet 0 = some (d, u) ∧ candidates u 0 d = [{ src := .ret 5, prio := 2, ask := .ret 5 }])
      ∧ tget u.blocks 5 = some bRet ∧ lostCore u bRet = false ∧ returnFits u 5 bRet (heldCores u 0 2 (some (.ret 5))) = true
      ∧ ctxOf u bRet = some cxD ∧ (∃ v, restoreSpads u 5 bRet cxD = .done v) ∧ ∀ h ∈ groupsOf u 5, h.2.st ≠ .parked ∨ (h.2.reason ≠ 3 ∧ h.2.reason ≠ 4))
    ∧ (let u := deciding sGang;
      let c : Cand := { src := .queue 3, prio := 5, ask := .place 9 };
      (∃ d, decider sGang 0 = some (d, u) ∧ candidates u 0 d = [c] ∧ d.waiters = [.queue 3, .queue 7] ∧ d.reserving = none)
      ∧ 64 ≤ passedOf u c ∧ (∃ v run, reserveFor u 0 c = .ok (some (v, run)) ∧ occupants sGang run = [])) :=
  ⟨⟨⟨dE, by decide +kernel⟩, by decide +kernel, by decide +kernel, launch_ok (by decide +kernel)⟩,
    ⟨⟨dE, by decide +kernel⟩, by decide +kernel⟩,
    ⟨⟨dE, by decide +kernel⟩, launch_ok (by decide +kernel), by decide +kernel⟩,
    ⟨⟨dE, by decide +kernel⟩, by decide +kernel, by decide +kernel, by decide +kernel, by decide +kernel, done_some (by decide +kernel), by decide +kernel⟩,
    ⟨{ dE with waiters := [.queue 3, .queue 7] }, by decide +kernel⟩, by decide +kernel, reserve_ok (by decide +kernel)⟩

/-- A bound operator of two rows and two columns, two windows of two slots; slot 0 of window 0 takes stores of its block. -/
def opW : Oper :=
  { st := .bound, blk := 0, wg := 0, ctx := 0, part := 0, reuse := 0, deck := 0x400, k := 2, n := 2, w := 2, s := 2, prio := 0, scale := none, zeroabs := false
    overwrite := false, raw := false, readable := false, trans := false, fslot := 0, slot := List.replicate 8 0, entries := [], grants := [0x8000000100000000, 0]
    root := none, members := [1], split := false, sk := 2, sn := 2, k0 := 0, n0 := 0 }
def whoB (gid : Option (Nat × Nat)) : Who := { part := 0, ctx := 0, blk := some 0, die := 0, cls := 0, node := 0, gid := gid }
def lnW (off size : Nat) (data : BitVec 128) : StLane := { lane := 2, addr := va509 0 0x900, tgt := .window 0 (0x100000 + off), size := size, data := data }
def hW (gid : Option (Nat × Nat)) (l : StLane) (load held : Bool) : HeldAcc :=
  { core := 0, load := load, consume := true, who := whoB gid, reg := 8, lanes := [l], held := held, req := none, more := false
    ident := none, susp := false, grant := none }
def elseHeld : HeldAcc := { hW none (lnW 0 1 0) false false with core := 1 }
def sOp (o : Oper) (hs : List HeldAcc) : State :=
  { st b0 { g0 with out := [{ outOf .st 5 with pend := 2 }, outOf .op 7] } with ops := [(1, o)], heldAcc := [elseHeld] ++ hs ++ [elseHeld] }
/-- Whether a byte lies in an entry of the operator, its input, and what its grant says. -/
def atOwner (o : Oper) (l : StLane) (gid : Option (Nat × Nat)) (input : Bool) (entry byte : Nat) (w r : Bool) : Prop :=
  (∃ c off, l.tgt = .window c off ∧ winOwner (sOp o [hW gid l (!input) false]) c off = some (1, o, { input := input, entry := entry, byte := byte }))
    ∧ grantOk 1 o (entry / o.s) (whoB gid) = w ∧ readOk 1 o (entry / o.s) (whoB gid) = r
theorem at_owner {o : Oper} {l : StLane} {gid : Option (Nat × Nat)} {input : Bool} {entry byte : Nat} {w r : Bool} {c off : Nat} (ht : l.tgt = .window c off)
    (h : winOwner (sOp o [hW gid l (!input) false]) c off = some (1, o, { input := input, entry := entry, byte := byte })
      ∧ grantOk 1 o (entry / o.s) (whoB gid) = w ∧ readOk 1 o (entry / o.s) (whoB gid) = r) : atOwner o l gid input entry byte w r :=
  ⟨⟨c, off, ht, h.1⟩, h.2⟩
def opHalf : Oper := { opW with entries := [(1, { Entry.empty with fill := [1], staged := [(1, 9)] })] }
def opRd (r zero : Bool) : Oper := { opW with zeroabs := zero, entries := [(2, { Entry.empty with r := r, result := msetBytes [] 0 4 0x99AABBCC })] }
def pW (tiles : List (Nat × Nat)) : Pass :=
  { op := 1, entry := 1, input := [(0, 0x38), (1, 0xC4)], poisoned := false, tiles := tiles, cells := [], arrived := [], gid := some (0, 7), skips := [] }

theorem witness_OperatorEvents :
    -- stores: refused, one that fills a byte, and one that completes the vector
    (atOwner opW (lnW 32 1 7) (some (0, 5)) true 2 0 false true ∧ atOwner opW (lnW 0 1 7) (some (0, 5)) true 0 0 true true
      ∧ atOwner opHalf (lnW 16 1 7) none true 1 0 true true ∧ (entryOf opHalf 1).fill = [1] ∧ (entryOf opHalf 1).r = false ∧ opUb opHalf = 2
      ∧ placesFree (sOp opHalf [hW none (lnW 16 1 7) false false]) opHalf = true ∧ tget (sOp opW []).groups 0 = some { g0 with out := [{ outOf .st 5 with pend := 2 }, outOf .op 7] })
    -- loads of an entry that is ready, and of an absent one
    ∧ (atOwner (opRd true false) (lnW (0x80000 + 32) 4 0) (some (0, 5)) false 2 0 false true ∧ (entryOf (opRd true false) 2).r = true
      ∧ atOwner (opRd false true) (lnW (0x80000 + 32) 4 0) (some (0, 5)) false 2 0 false true ∧ (entryOf (opRd false true) 2).q = 0)
    -- a step, the arrival of a member's cells, the end
    ∧ (let s := { sOp opW [] with passes := [(4, pW [(0, 0)])] };
      choosePass s 0 0 = some 4 ∧ passTileAt s 0 0 (pW [(0, 0)]) = some (0, 1, 0))
    ∧ (let o := { opW with members := [1, 65] };
      1 < o.members.length ∧ (1 : Nat) / 64 = 0 ∧ ∀ x ∈ (pW [(0, 0)]).tiles, x.1 ≠ 1)
    ∧ ((pW []).tiles = [] ∧ (∀ j, 0 < j → j < opW.members.length → j ∈ (pW []).arrived)
      ∧ (let y := [outOf .op 7]; (∀ v ∈ y, v.uid = 7 ∧ v.cls = .op) ∧ ∀ v ∈ [outOf .st 5], v.uid ≠ 7 ∧ v.cls ≠ .op)) := by
  refine ⟨⟨at_owner rfl (by decide +kernel), at_owner rfl (by decide +kernel), at_owner rfl (by decide +kernel), by decide +kernel⟩,
    ⟨at_owner rfl (by decide +kernel), by decide +kernel, at_owner rfl (by decide +kernel), by decide +kernel⟩, by decide +kernel, by decide +kernel, rfl, ?_, by decide +kernel⟩
  intro j h0 h1; simp [opW] at h1; omega

/-! ## Witnesses: near-bank commands, pages, coherence -/

def uQ (src : List Nat) (st_ : NbSt) : NbUnit := { unitU with lane := 16, st := st_, src := src }
def cmdB (kind : Nat) (us : List NbUnit) (issued : Nat) : NbCmd :=
  { cmdU us issued with kind := kind, word := 0x10000000, spans := [(16, va509 0 0x100000, 0), (3, va509 0 0x100000, 0)] }
def sBank (c : NbCmd) : State := let s := { st b0 g0 with parts := [(0, partN)], nbcmds := [(5, c)] }
  { s with hbm := msetBytes s.hbm 0x8000 8 0x103D }
/-- How a span of a lane translates. -/
def spanOf (s : State) (kind : AKind) (lane : Nat) : Option (List Nat ⊕ Nat) :=
  match spanTr s { part := 0, ctx := 0, user := false } kind 0x10000000 lane (va509 0 0x100000) with
  | .ok ps => some (.inl ps)
  | .bad c => some (.inr c)
  | _ => none
def key7 : Nat × Nat × Nat := (0, 0, 0x200000000 / 8192)
def sS2w : State := { s0 with s2wait := [key7], devq := [], inreqs := [] }
/-- Four levels of tables down to the page at 0x50000, and a flip of it. -/
def flp : Flip := { part := 0, ctx := 0, die := 0, off := 0x50000, lvl := 3, run := false, pte := 0, toHost := true, host := none, snoop := 0 }
def sFlp : State :=
  let s := st b0 (gWait (.flip 3 7))
  { s with
    hbm := msetBytes (msetBytes (msetBytes s.hbm 0x8000 8 (stageTable 0xA000).toNat) 0xA000 8 (stageTable 0xC000).toNat) (0xC000 + 8 * 40) 8 0x5003D
    flips := [(7, flp)] }
def slotIs (r : SlotAt) (pa : Nat) : Bool :=
  match r with
  | .slot q => decide (q = pa)
  | _ => false
theorem slot_is {r : SlotAt} {pa : Nat} (h : slotIs r pa = true) : r = .slot pa := by
  cases r <;> simp_all [slotIs]

theorem witness_BankAndPageEvents :
    -- the head of a queue: translated, and refused
    (∀ kind, kind = 0 ∨ kind = 2 → ∀ lane, lane = 16 ∨ lane = 3 →
      let c := cmdB kind [{ uQ [] .queued with lane := lane }] 0
      bankQueue (sBank c) (0 * 2048 + lane) = [(5, { uQ [] .queued with lane := lane })] ∧ c.spans.find? (fun x => decide (x.1 = lane)) = some (lane, va509 0 0x100000, 0)
        ∧ spanOf (sBank c) (if kind = 0 then .amo else .store) lane = some (if lane = 16 then .inl [0x100000] else .inr 6))
    -- preparation, the end of a unit, the limit of issues, completion
    ∧ ((cmdB 0 [uQ [0x100000] .preparing] 0).started = true ∧ ∀ u ∈ (cmdB 0 [uQ [0x100000] .preparing] 0).units, u.st ≠ .queued)
    ∧ (∀ kind, kind = 1 ∨ kind = 2 → let u := { uQ [0x100000] .running with dst := [0x300000] }
      (cmdB kind [u] 0).units.find? (fun u => decide (u.lane = 16)) = some u ∧ u.src.Nodup ∧ u.dst.Nodup ∧ (∀ p ∈ u.src, p % 8192 = 0) ∧ (∀ p ∈ u.dst, p % 8192 = 0)
        ∧ (∀ p ∈ u.src, p ∉ u.dst) ∧ ∀ k, k < 8 * u.src.length → rowPoison (sBank (cmdB kind [u] 0)) 0 (rowAt u.src k) = [])
    ∧ ((cmdB 0 [uQ [0x100000] .running] (2 ^ 24 - 1)).at? = some 4 ∧ (cmdB 0 [uQ [0x100000] .running] (2 ^ 24 - 1)).issued + 1 = 2 ^ 24)
    ∧ (let c := cmdB 0 [uQ [] .ended, { uQ [] .stopped with lane := 1, code := 8 }] 9
      (∀ u ∈ c.units, u.st = .ended ∨ u.st = .stopped) ∧ c.status = none ∧ c.word.getLsbD 28 = true ∧ tget (sBank c).groups c.gid = some g0 ∧ g0.st = .resident)
    -- a second-stage failure: refused, and mapped
    ∧ (key7 = (0, vaDie (va509 0 0x200000000), vaOff (va509 0 0x200000000) / 8192) ∧ key7 ∈ sS2w.s2wait ∧ s2rootOf sS2w 0 0 = some 0x2000
      ∧ s2slot sS2w.hbm 0 0x200000000 4 (pteOff 0x2000) = some (2, 0x4008) ∧ pteV 0x3D = true ∧ pteT 0x3D = false
      ∧ (s2translate (writeT sS2w (.hbm 0 0x4008) 8 0x3D) 0 0 0x200000000).isSome = true)
    -- invalidations and a flip
    ∧ (∀ k g, (k, g) ∈ s0.groups → ∀ o ∈ g.out, o.stores = [])
    ∧ (tget sFlp.flips 7 = some flp ∧ sFlp.inreqs = [] ∧ (∀ fn, fn < 16 → (mget sFlp.biasreq fn).toNat % 4 ≠ 1) ∧ flipLocked sFlp flp (leafSize (3 - flp.lvl)) = false
      ∧ (gWait (.flip 3 7)).a.wait = .flip 3 7)
    ∧ slotOfLeaf sFlp flp.part flp.ctx flp.die flp.off (3 - flp.lvl) = .slot (0xC000 + 8 * 40)
    ∧ s0.reqs = [] := by
  refine ⟨?_, by decide +kernel, ?_, by decide +kernel, by decide +kernel, by decide +kernel, ?_, by decide +kernel, slot_is (by decide +kernel), rfl⟩
  · rintro k (rfl | rfl) l (rfl | rfl) <;> decide +kernel
  · rintro k (rfl | rfl) <;> decide +kernel
  · intro k g h; simp only [s0, st, stN, List.mem_singleton, Prod.mk.injEq] at h; obtain ⟨-, rfl⟩ := h; decide

/-- A flip to device bias, before its snoops go out and after the host has answered them. -/
theorem witness_BankAndPageEvents_flip : ∀ n, n = 0 ∨ n = 2 → let f := { flp with toHost := false, snoop := n }
    let s := { sFlp with flips := [(7, f)], devq := [] }
    tget s.flips 7 = some f ∧ s.inreqs = [] ∧ flipLocked s f (leafSize (3 - f.lvl)) = false
      ∧ slotOfLeaf s f.part f.ctx f.die f.off (3 - f.lvl) = .slot (0xC000 + 8 * 40) ∧ pteOff (rdPte s.hbm 0 (0xC000 + 8 * 40)) = 0x50000
      ∧ (s2translate s 0 0 0x50000).map Prod.fst = some 0x50000 := by
  rintro n (rfl | rfl) <;> exact ⟨rfl, rfl, by decide +kernel, slot_is (by decide +kernel), by decide +kernel, by decide +kernel⟩

/-- Transactions and copies of line 9, homed on die 0, in the caches 3 and 7 of one bay. -/
def txC (kind : CReqK) (req : Nat) (probes : List Nat) : CTx :=
  { line := 9, place := 0, req := req, kind := kind, probes := probes, sent := false, keep := false, grant := Machine.stM, up := false, slice := 0 }
def coh (x3 x7 : BitVec 3) (owner : Option (Nat × BitVec 3)) (txs : List CTx) (msgs : List CKind) : Coh :=
  { Coh.reset with
    cst := mset (mset [] (ckey 9 3) x3) (ckey 9 7) x7, dir := [(2, 1)], bay := [(576, 0x88)], ctxn := txs
    own := match owner with
      | some (k, x) => [(72, BitVec.ofNat 13 (k * 8 + x.toNat))]
      | none => []
    cmsgs := msgs.map (fun k => { kind := k, cache := 3, line := 9 }) }
def lineOf1 : Nat := 2 ^ 46 + 9
def hostL : Nat := 2 ^ 50 + 9
def isBusy (c : Coh) (line place : Nat) : Bool := c.ctxn.any (fun x => decide (x.line = line) && decide (x.place = place))
/-- A slice with one region listed: whether it is given up is open. -/
theorem victim_one : victim { s0 with co := Coh.reset } (coh 0 0 none [] []) 400 0 = if Config.dirFull s0.clock 400 then some 2 else none := by
  have h : ((coh 0 0 none [] []).dir.map Prod.fst).filter
      (fun r => decide (lineDie (r * 4) = lineDie 400) && decide (sliceOf { s0 with co := Coh.reset } (r * 4) = 0)) = [2] := by decide +kernel
  unfold victim
  rw [h]
  simp [Nat.mod_one]

theorem witness_CoherenceEvents :
    -- a request: not needed, of a busy line, of a line that another cache owns or shares, of a line that nobody holds
    (canHold s0 3 9 = true ∧ canHold s0 7 9 = true ∧ canHold s0 519 9 = true ∧ placeFor 3 9 = 0
      ∧ mget (coh Machine.stM 0 none [] []).cst (ckey 9 3) = Machine.stM ∧ isBusy (coh 0 0 none [txC .rds 7 []] []) 9 0 = true
      ∧ (let c := { coh 0 0 none [txC .rds 7 []] [] with cqueue := [txC .rdx 5 []] }; ∀ q ∈ c.cqueue, heldUp c q = true)
      ∧ (let c := coh 0 Machine.stM (some (7, Machine.stM)) [] []; ownerAt c 0 9 = some (7, Machine.stM) ∧ mget c.dir (9 / 4) ≠ 0 ∧ c.cqueue = [] ∧ c.cwait = [])
      ∧ (let c := coh Machine.stS Machine.stS none [] []; (named c 0 9 2048).contains 3 = true ∧ named c 0 9 3 = [7] ∧ ownerAt c 0 9 = none)
      ∧ (victim s0 Coh.reset 9 (sliceOf s0 9) = none ∧ named Coh.reset 0 9 3 = [])
      ∧ (let c := coh 0 0 none [] []; mget c.dir (400 / 4) = 0 ∧ quietRegion c 2 = true))
    -- a line homed elsewhere, and a host line
    ∧ (canHold s0 3 lineOf1 = true ∧ placeFor 3 lineOf1 = 1 ∧ ∀ x, x = 0 ∨ x = Machine.stS →
      let c := { Coh.reset with cst := mset [] (ckey lineOf1 512) x, ctxn := [{ txC .rds 7 [] with line := lineOf1 }] }
      isBusy c lineOf1 1 = false ∧ isBusy c lineOf1 0 = true ∧ mget c.cst (ckey lineOf1 512) = x)
    ∧ (canHold s0 512 hostL = true ∧ placeFor 512 hostL = 0 ∧ hostLine hostL = true ∧ lineThere hostL = true ∧ ownerAt Coh.reset 0 hostL = none)
    -- evictions, and the buffer that is freed
    ∧ ((∀ x, x = Machine.stM ∨ x = Machine.stO ∨ x = Machine.stE ∨ x = Machine.stS → mget (coh x 0 none [] []).cst (ckey 9 3) = x)
      ∧ coHas (coh 0 0 none [] [.wbAck]) .wbAck 3 9 = true)
    -- probes of a cache, which supplies or not, and of an RDC
    ∧ (∀ kind, kind = .rds ∨ kind = .rdx → ∀ m, m = CKind.prbShr ∨ m = .prbInv →
      let c := coh Machine.stM 0 none [txC kind 7 [3]] [m]
      coHas c m 3 9 = true ∧ c.ctxn = [] ++ txC kind 7 [3] :: [] ∧ (txC kind 7 [3]).probes = [3] ∧ owns (mget c.cst (ckey 9 3)) = true
        ∧ owns (mget (coh Machine.stS 0 none [txC kind 7 [3]] [m]).cst (ckey 9 3)) = false ∧ (coh Machine.stS 0 none [txC kind 7 [3]] [m]).evict = [])
    ∧ (let c := { Coh.reset with own := [(74, BitVec.ofNat 13 (130 * 8 + 1))], cmsgs := [{ kind := .prbShr, cache := 513, line := 9 }] }
      isRdc 513 = true ∧ coHas c .prbShr 513 9 = true ∧ ownerAt c 2 9 = some (130, Machine.stM) ∧ c.ctxn = [])
    -- answers, data and Cmp
    ∧ (∀ m, m = CKind.prbRsp ∨ m = .invAck → coHas (coh 0 0 none [txC .rdx 7 [3]] [m]) m 3 9 = true ∧ coHas (coh 0 0 none [txC .rdx 7 [3, 5]] [m]) m 3 9 = true
      ∧ (txC .rdx 7 [3]).probes.erase 3 = [] ∧ (txC .rdx 7 [3, 5]).probes.erase 3 ≠ [])
    ∧ (∀ m, m = CKind.data ∨ m = .dataX ∨ m = .cmp → ∀ d e,
      let c := { coh 0 0 none [txC .rds 3 []] [m] with cwait := [{ line := 9, cache := 3, data := d, cmp := e }] }
      coHas c m 3 9 = true ∧ c.cwait = [] ++ { line := 9, cache := 3, data := d, cmp := e } :: [] ∧ c.ctxn = [] ++ txC .rds 3 [] :: [])
    -- snoops: of a busy line, of a line that an RDC owns, and of one that nobody holds
    ∧ (let c := { Coh.reset with ctxn := [{ txC .rds 512 [] with line := hostL }] }; isBusy c hostL 0 = true ∧ c.cqueue = [])
    ∧ (let c := { Coh.reset with own := [(hostL * 8, BitVec.ofNat 13 (512 * 8 + 1))], snp := [(hostL, 1)] }
      ownerAt c 0 hostL = some (512, Machine.stM) ∧ named c 0 hostL 2048 = [512] ∧ c.ctxn = []) := by
  refine ⟨by decide +kernel, ⟨by decide +kernel, by decide +kernel, ?_⟩, by decide +kernel, ⟨?_, by decide +kernel⟩, ?_, by decide +kernel, ?_, ?_,
    by decide +kernel, by decide +kernel⟩
  · rintro x (rfl | rfl) <;> decide +kernel
  · rintro x (rfl | rfl | rfl | rfl) <;> decide +kernel
  · rintro k (rfl | rfl) m (rfl | rfl) <;> decide +kernel
  · rintro m (rfl | rfl) <;> decide +kernel
  · rintro m (rfl | rfl | rfl) d e <;> cases d <;> cases e <;> decide +kernel


/-! ## Witnesses: the host, the links, other nodes, the harts' events -/

def upLinks : List Link := List.replicate 20 { Link.reset with st := .up }
def hostReq (kind : RKind) : RReq :=
  { src := 0, node := 510, addr := 0xFF00000000003340, kind := kind, op := 0, size := 8, a := 0x1122334455667788, b := 3, port := some 19, part := 0, ctx := 0
    owner := .lane 0 5 2 7 2 }
def gThree : Group := { g0 with out := [outOf .st 4] ++ outOf .ld 5 :: [outOf .ld 9] }
def sHostReq (kind : RKind) (tdi : BitVec 2) (refused : List (Nat × Nat)) : State :=
  { st b0 gThree with links := upLinks, reqs := [(8, hostReq kind)], tdi := mset [] 0 tdi, hostRefused := refused }
/-- A window at 5 * 2^46 for context 0, and addresses in it. -/
def winE (t : Bool) : BitVec 128 := BitVec.ofNat 128 (5 * 2 ^ 46 + (if t then 2 else 0) + 1)
def hostA (base off : Nat) : DWord := BitVec.ofNat 64 (base * 2 ^ 46 + off)
def sWin (t : Bool) (tdi : BitVec 2) (pc : SMap 64) : State := { s0 with links := upLinks, windows := [(0, winE t)], tdi := mset [] 0 tdi, pcerr := pc }
/-- Whether a place of the window table holds the address. -/
def inWindow (s : State) (p : Nat) (a : DWord) : Bool := winV (mget s.windows p) && decide (winBase (mget s.windows p) = a.toNat / 2 ^ 46 * 2 ^ 46)
def trIs (r : TrRes) (pa : Nat) : Bool :=
  match r with
  | .ok q _ => decide (q = pa)
  | _ => false
theorem tr_is {r : TrRes} {pa : Nat} (h : trIs r pa = true) : ∃ e, r = .ok pa e := by
  cases r <;> simp_all [trIs]
def rq0 : Req := { part := 0, ctx := 0, user := false }
/-- The table in the scratchpad would be served there: here it lies in memory. -/
def sBar (leaf : Nat) (v : DWord) : State :=
  let s := { s0 with links := upLinks, parts := [(0, { stagePart with qtab := va509 0 0x40000 })], windows := [(0, winE false)], biasreq := mset [] 0 v }
  { s with hbm := msetBytes s.hbm 0x8000 8 leaf }
def s1Is (r : Walk) (leaf : DWord) : Bool :=
  match r with
  | .leaf e _ _ => decide (e = leaf)
  | _ => false
theorem s1_is {r : Walk} {leaf : DWord} (h : s1Is r leaf = true) : ∃ k x, r = .leaf leaf k x := by
  cases r <;> simp_all [s1Is]

theorem witness_HostEvents :
    -- a request to the host that it serves, one of each kind, and one that it does not
    (∀ kind, kind = .rd ∨ kind = .wr ∨ kind = .amo → let s := sHostReq kind 2 []
      portUp s 19 = true ∧ tget s.groups 0 = some gThree ∧ (∀ e ∈ [outOf .st 4, outOf .ld 9], e.uid ≠ 5) ∧ tget s.ctxs ((hostReq kind).part * 1024 + (hostReq kind).ctx) = some stageCtx ∧ s.devq = []
        ∧ (stageCtx.pasid, vaOff (hostReq kind).addr / 4096) ∉ s.hostRefused ∧ mget s.tdi (hostReq kind).part = 2 ∧ poisonedT s (.host (vaOff (hostReq kind).addr)) 8 = false)
    ∧ (let s := { sHostReq .rd 1 [] with hostPoison := [(vaOff (hostReq .rd).addr / 16, 1)] }
      mget s.tdi (hostReq .rd).part ≠ 2 ∧ poisonedT s (.host (vaOff (hostReq .rd).addr)) 8 = true)
    -- an access through no window, a trusted window, a hole of the window, and both kinds of record
    ∧ (let s := sWin false 0 []; portUp s 19 = true ∧ hostSizeOk (hostA 6 0x50000) 64 = true ∧ (∀ p, p < 16 → inWindow s p (hostA 6 0x50000) = false)
      ∧ (mget s.pcerr 16).toNat / 2 ^ 48 % 2 ^ 15 = 0)
    ∧ (∀ t, t = true ∨ t = false → inWindow (sWin t 1 []) 0 (hostA 5 0x50000) = true) ∧ winT (winE true) = true ∧ winT (winE false) = false ∧ mget (sWin true 1 []).tdi 0 ≠ 2
    ∧ ((hostA 5 (2 ^ 43 + 2 ^ 40)).toNat % 2 ^ 46 / 2 ^ 43 % 2 = 1 ∧ (hostA 5 (2 ^ 43 + 2 ^ 40)).toNat % 2 ^ 46 / 2 ^ 40 % 8 ≠ 0
      ∧ (mget (sWin false 0 [(0, 0x7FFF000000000003)]).pcerr 0).toNat / 2 ^ 48 % 2 ^ 15 ≠ 0)
    ∧ (let s := sWin false 0 []; (hostA 5 0x50000).toNat % 2 ^ 46 = 0x50000 ∧ s.inreqs = [] ∧ s.heldAcc = [] ∧ route s 0 (va509 0 0x50000) = .paged 0 0x50000
      ∧ winCtx (mget s.windows 0) = 0)
    ∧ (∃ e, translate (sWin false 0 []) rq0 .load 0 0x50000 = .ok 0x50000 e) ∧ (∃ e, translate (sWin false 0 []) rq0 .store 0 0x50000 = .ok 0x50000 e)
    -- the pages of the function
    ∧ (let s := sBar 0x3D 2; barServed s 0 = true ∧ capOn s 0 capNotify = true ∧ route s 0 (va509 0 0x40000 + 16) = .paged 0 0x40010 ∧ (mget s.biasreq 0).toNat % 4 ≠ 1)
    ∧ (∃ e, translate (sBar 0x3D 2) { part := 0, ctx := 0, user := false } .store 0 0x40010 = .ok 0x40010 e)
    ∧ (∃ e, translate (sBar 0x3D 2) { part := 0, ctx := 0, user := false } .load 0 0x40010 = .ok 0x40010 e)
    -- BIASREQ: a bad offset, the bias the page has, and the other one
    ∧ ((0x50034 : DWord).toNat / 8 % 1024 ≠ 0 ∧ capOn (sBar 0x3D 2) 0 capPortC = true ∧ flipAt (sBar 0x3D 2) 0 0 0 0x50000 = none
      ∧ pteBias 0x3D = (0x50000 : DWord).getLsbD 2 ∧ pteBias 0x3D ≠ (0x50004 : DWord).getLsbD 2 ∧ (0x50004 : DWord).toNat / 2 ^ 13 * 2 ^ 13 % 2 ^ 43 = 0x50000)
    ∧ (∃ k r, s1of (sBar 0x3D 2) 0 0 0 0x50000 = .leaf 0x3D k r) := by
  refine ⟨?_, by decide +kernel, by decide +kernel, ?_, by decide +kernel, by decide +kernel, by decide +kernel, by decide +kernel, by decide +kernel,
    tr_is (by decide +kernel), tr_is (by decide +kernel), by decide +kernel, tr_is (by decide +kernel), tr_is (by decide +kernel), by decide +kernel, s1_is (by decide +kernel)⟩
  · rintro k (rfl | rfl | rfl) <;> decide +kernel
  · rintro t (rfl | rfl) <;> decide +kernel

def lk (st_ : LinkSt) (att : Nat) : Link := { Link.reset with st := st_, att := att }
def atLvl (lvl : HLevel) : Hart := { Hart.reset with lvl := lvl }
def sLk (l : Link) (lvl : HLevel) (rs : Tbl RReq) : State := { s0 with links := State.reset.links.set 3 l, harts := tset State.reset.harts 1 (atLvl lvl), reqs := rs }
def nodeReq (o : ROwner) : RReq := { src := 0, node := 5, addr := 0x77, kind := .rd, op := 0, size := 4, a := 0, b := 0, port := some 3, part := 0, ctx := 0, owner := o }
/-- An entry for node 7, partition 2; memory with this leaf. -/
def peerE : DWord := BitVec.ofNat 64 (2 ^ 63 + 7 * 2 ^ 48 + 2 * 2 ^ 40)
def sNode (leaf : Nat) (caps : BitVec 18) : State :=
  let s := { s0 with peers := [(3, peerE)], parts := [(0, { stagePart with capen := caps })] }
  { s with hbm := msetBytes s.hbm 0x8000 8 leaf }
def trNo (r : TrRes) (denied : Bool) : Bool :=
  match r with
  | .absent => !denied
  | .denied => denied
  | _ => false
theorem tr_no {r : TrRes} {d : Bool} (h : trNo r d = true) : r = if d then .denied else .absent := by
  cases r <;> cases d <;> simp_all [trNo]
def hE (k14 k15 : BitVec 129) (lvl : HLevel) : Hart := hx [(14, k14), (15, k15)] [(1, 7), (2, 0x1122334455667788)] lvl 0

theorem witness_LinkAndNodeEvents :
    -- links: every state, and both kinds of level
    (∀ st_, st_ ∈ [LinkSt.down, .failed, .up, .degraded, .training] → ∀ lvl, lvl ∈ [HLevel.m, .hs] → ∀ att, att = 6 ∨ att = 7 →
      let s := sLk (lk st_ att) lvl []; s.links[3]? = some (lk st_ att) ∧ tget s.harts 1 = some (atLvl lvl) ∧ s.reqs = [] ∧ s.devq = [] ∧ s.inreqs = [] ∧ (lk st_ att).att = att)
    ∧ (let s := sLk (lk .up 0) .m [(4, nodeReq (.post 1))]; ∀ e ∈ s.reqs, e.2.owner = .post 1 ∧ e.2.port = some 3)
    ∧ (let s := { sLk (lk .up 0) .m [(4, nodeReq (.lane 0 5 2 7 2))] with groups := [(0, gThree)] }
      tget s.groups 0 = some gThree ∧ gThree.out = [outOf .st 4] ++ outOf .ld 5 :: [outOf .ld 9] ∧ (∀ e ∈ [outOf .st 4] ++ [outOf .ld 9], e.uid ≠ 5) ∧ s.devq = [])
    -- requests of nodes
    ∧ peerFor (sNode 0x3D 0x3FFFF) 7 3 = none ∧ (peerFor (sNode 0x3D 0) 7 2 = some 3 ∧ capOn (sNode 0x3D 0) (peerLPART peerE) capViaduct = false)
    ∧ (let s := sNode 0x3D 0x3FFFF; peerFor s 7 2 = some 3 ∧ mget s.peers 3 = peerE ∧ peerLPART peerE = 0 ∧ peerLCTX peerE = 0 ∧ capOn s 0 capViaduct = true ∧ capOn s 0 capNotify = true
      ∧ s.inreqs = [] ∧ s.heldAcc = [] ∧ s.locks = [] ∧ route s 0 (BitVec.ofNat 64 (509 * 2 ^ 55 + 0x50000)) = .paged 0 0x50000
      ∧ poisonedT s (.hbm 0 0x50000) 16 = false ∧ 0x50000 % 128 = 0 ∧ 127 + 1 ≤ 128)
    ∧ (∀ kind, kind = .load ∨ kind = .store ∨ kind = .amo → ∃ e, translate (sNode 0x3D 0x3FFFF) rq0 kind 0 0x50000 = .ok 0x50000 e)
    ∧ translate (sNode 0x3C 0x3FFFF) rq0 .load 0 0x50000 = .absent ∧ translate (sNode 0x39 0x3FFFF) rq0 .load 0 0x50000 = .denied
    -- an answer of a node
    ∧ (let s := { st b0 gThree with links := upLinks, reqs := [(8, nodeReq (.lane 0 5 2 7 2))] }
      portUp s 3 = true ∧ tget s.groups 0 = some gThree ∧ ∀ e ∈ [outOf .st 4, outOf .ld 9], e.uid ≠ 5)
    -- a hart's access: refused by its capability, misaligned, done; a trap; the returns
    ∧ (let x := hE 0 (capAll at5 0x001 0) .vu; tget (sHart x).harts 2 = some x ∧ x.busy = false ∧ x.refused = none ∧ capCheck (kget x 15) [1] at5 8 = some 3
      ∧ capCheck (kget x 15) [0] (at5 + 1) 8 = none ∧ (va509 0 0x50001).toNat % 8 ≠ 0 ∧ (va509 0 0x50000).toNat % 8 = 0)
    ∧ (∀ store, store = true ∨ store = false → let x := hE 0 (capAll at5 0x3FF 0) .vu
      ∃ u d, hartReq (sHart x) x (hartIn x 2 (if store then .wr else .rd) 8 (va509 0 0x50000) (xget x 2).toNat false 2) = .done u d)
    ∧ (capTag (kget (hE 0 0 .vs) 14) = false ∧ (capTag (kget (hE (capAll 0 0x3FF 4) 0 .vs) 14) = true ∧ capType (kget (hE (capAll 0 0x3FF 4) 0 .vs) 14) ≠ 0)
      ∧ (let k := kget (hE (capAll 0 0x001 0) 0 .vs) 14; capTag k = true ∧ capType k = 0 ∧ hasPerm k 2 = false)
      ∧ (let k := kget (hE (capAll 0 0x3FF 0) 0 .vs) 14; capTag k = true ∧ capType k = 0 ∧ hasPerm k 2 = true) ∧ (csrGet (hE 0 0 .vs) 0x200).getLsbD 8 = false)
    -- the tables of the harts
    ∧ (∀ lvl, lvl ∈ [HLevel.m, .hs, .vs, .vu] → tget (sHart (hE 0 0 lvl)).harts 2 = some (hE 0 0 lvl) ∧ (sHart (hE 0 0 lvl)).inreqs = []) := by
  refine ⟨?_, by decide +kernel, by decide +kernel, by decide +kernel, by decide +kernel, by decide +kernel, ?_, tr_no (d := false) (by decide +kernel), tr_no (d := true) (by decide +kernel),
    by decide +kernel, by decide +kernel, ?_, by decide +kernel, by decide +kernel⟩
  · rintro st_ h lvl h2 att (rfl | rfl) <;> revert st_ lvl <;> decide +kernel
  · rintro k (rfl | rfl | rfl) <;> exact tr_is (by decide +kernel)
  · rintro t (rfl | rfl) <;> exact req_done (by decide +kernel)

/-! ## Witnesses: contexts and partitions -/

/-- A small memory: a root at 0x2000 and a table at 0x4000 that map the first 8 GiB of die 0 to themselves. -/
def memS (w : SMap 8) : SMap 8 := [(0x2000, 0x03), (0x2001, 0x40), (0x4000, 0x3D)] ++ w

/-- Words of a memory of die 0. -/
def wordsAt (m : SMap 8) (a n : Nat) : List DWord := (List.range n).map (fun k => BitVec.ofNat 64 (mbytes m (a + 8 * k) 8))
theorem words_split (m : SMap 8) (a n k : Nat) : wordsAt m a (n + k) = wordsAt m a n ++ wordsAt m (a + 8 * n) k := by
  simp [wordsAt, List.range_add, List.map_append, List.map_map, Function.comp_def, Nat.mul_add, Nat.add_assoc]
theorem bytes_zero (m : SMap 8) : ∀ (n a : Nat), (∀ k, a ≤ k → k < a + n → mget m k = 0) → mbytes m a n = 0
  | 0, _, _ => rfl
  | n + 1, a, h => by
    rw [mbytes, h a (Nat.le_refl a) (by omega), bytes_zero m n (a + 1) (fun k h1 h2 => h k (by omega) (by omega))]; rfl
def clear (m : SMap 8) (a n : Nat) : Bool := m.all (fun e => decide (e.1 < a) || decide (a + 8 * n ≤ e.1))
theorem clear_zero {m : SMap 8} {a n : Nat} (h : clear m a n = true) {k : Nat} (h1 : a ≤ k) (h2 : k < a + 8 * n) : mget m k = 0 := by
  induction m with
  | nil => rfl
  | cons e t ih =>
    simp only [clear, List.all_cons, Bool.and_eq_true, Bool.or_eq_true, decide_eq_true_eq] at h
    obtain ⟨x, y⟩ := e
    simp only [mget]
    rw [if_neg (by intro hk; subst hk; simp only at h; omega)]
    exact ih h.2
theorem words_zero {m : SMap 8} {a n : Nat} (h : clear m a n = true) : wordsAt m a n = List.replicate n 0 := by
  rw [wordsAt, List.eq_replicate_iff]
  refine ⟨by simp, fun b hb => ?_⟩
  obtain ⟨k, hk, rfl⟩ := List.mem_map.1 hb
  have := List.mem_range.1 hk
  rw [bytes_zero m 8 _ (fun j h1 h2 => clear_zero h (by omega) (by omega))]; rfl
/-- The two tables that map the first 8 GiB of die 0 to themselves. -/
def Small (s : State) (p : Nat) : Prop := s2rootOf s p 0 = some 0x2000 ∧ rdPte s.hbm 0 0x2000 = 0x4003 ∧ rdPte s.hbm 0 0x4000 = 0x3D

theorem small_translate {s : State} {p : Nat} (h : Small s p) {off : Nat} (ho : off < 2 ^ 33) : s2translate s p 0 off = some (off, 0x3D) := by
  have i3 : tblIdx off 3 = 0 := by simp [tblIdx, leafSize]; omega
  have i2 : tblIdx off 2 = 0 := by simp [tblIdx, leafSize]; omega
  have o1 : pteOff 0x2000 = 0x2000 := by decide
  have o2 : pteOff 0x4003 = 0x4000 := by decide
  have o3 : pteOff 0x3D = 0 := by decide
  have a1 : pteV 0x4003 = true ∧ pteT 0x4003 = true ∧ pteV 0x3D = true ∧ pteT 0x3D = false := by decide
  simp only [s2translate, h.1, s2walk, i3, i2, o1, Nat.mul_zero, Nat.add_zero, h.2.1, a1, o2, h.2.2, o3, leafSize]
  simp only [Bool.not_true, Bool.false_eq_true, if_false, if_true, o3, Nat.zero_add, Option.some.injEq, Prod.mk.injEq, and_true, reduceCtorEq,
    Nat.reduceEqDiff]
  omega

theorem mapM_some {α β : Type} {f : α → Option β} {g : α → β} : ∀ {l : List α}, (∀ x ∈ l, f x = some (g x)) → l.mapM f = some (l.map g)
  | [], _ => rfl
  | x :: l, h => by
    rw [List.mapM_cons, h x (List.mem_cons_self ..), mapM_some (fun y hy => h y (List.mem_cons_of_mem _ hy))]; rfl

theorem small_svcRead {s : State} (h : Small s 16) {a n : Nat} (ha : a + 8 * n ≤ 2 ^ 33) : svcRead s a n = some (wordsAt s.hbm a n) := by
  apply mapM_some
  intro i hi
  have hn := List.mem_range.1 hi
  have d : a / 2 ^ 53 % 4 = 0 := by omega
  have e : a % 2 ^ 53 = a := by omega
  have ht : svcTarget s a i false = some (.hbm 0 (a + 8 * i)) := by
    rw [svcTarget, d, e, small_translate h (off := a + 8 * i) (by omega)]; rfl
  rw [ht]
  simp only [Option.map_some, readT, hkey, Nat.zero_mul, Nat.zero_add]

theorem small_recRead {s : State} {p : Nat} (h : Small s p) {a i n : Nat} (ha : a + 8 * i < 2 ^ 33) : recRead s p a i n = .done (wordsAt s.hbm (a + 8 * i) n) := by
  simp [recRead, recTarget, small_translate h ha, readT, hkey, wordsAt]

def partS : Part := { stagePart with ctab := 0x70000 }
/-- A context whose record at 0x60000 carries a command of sequence number 5. -/
def cxC (st_ : CtxSt) (prot : Bool) : Ctx := { stageCtx with st := st_, addr := 0x60000, dseq := 4, prot := prot, saverec := 0 }
def recC (cmd : BitVec 8) (more : SMap 8) : SMap 8 := memS ([(0x60008, cmd), (0x6000C, 5)] ++ more)
def keyK (ctr : DWord) (refusals : Nat) : KeyEnt := { key := 5, ctr := ctr, nseg := 2, refusals := refusals }
def sCx (x : Ctx) (m : SMap 8) : State :=
  { State.reset with hold := .none, parts := [(0, partS)], ctxs := [(0, x)], keys := [(0, keyK (BitVec.allOnes 64) 4)], hbm := m, uid := 50 }
/-- A context with the record's command: what a command's clause asks for. -/
def asked (cmd : Nat) (s : State) (bad : Bool) (c : Nat) (w : List DWord) : Bool := decide (c = cmd) && (badCtxRecord s 0 w == bad)
def asks (st_ : CtxSt) (prot : Bool) (cmd : Nat) (more : SMap 8) (bad : Bool) : Prop :=
  let s := sCx (cxC st_ prot) (recC (BitVec.ofNat 8 cmd) more)
  tget s.ctxs 0 = some (cxC st_ prot) ∧ ∃ c q w, ctxCommand s 0 (cxC st_ prot) (cxC st_ prot).dseq = some (c, q, w) ∧ asked cmd s bad c w = true
/-- The 512 words of the record. -/
def recL (cmd prot w5 : DWord) : List DWord := [0, 5 * 2 ^ 32 + cmd, 0, prot, 0, w5] ++ List.replicate 506 0
def asksB (st_ : CtxSt) (prot : Bool) (cmd : Nat) (more : SMap 8) (bad : Bool) (w : List DWord) : Bool :=
  let m := recC (BitVec.ofNat 8 cmd) more
  let v := (w.getD 1 0).toNat
  decide (rdPte m 0 0x2000 = 0x4003) && decide (rdPte m 0 0x4000 = 0x3D) && decide (wordsAt m 0x60008 1 = [w.getD 1 0]) && decide (v / 2 ^ 32 = 5)
    && decide (wordsAt m 0x60000 6 ++ List.replicate 506 0 = w) && clear m 0x60030 506
    && asked cmd (sCx (cxC st_ prot) m) bad (v % 256) w
theorem asks_of {st_ : CtxSt} {prot : Bool} {cmd : Nat} {more : SMap 8} {bad : Bool} (w : List DWord) (h : asksB st_ prot cmd more bad w = true) :
    asks st_ prot cmd more bad := by
  simp only [asksB, Bool.and_eq_true, decide_eq_true_eq] at h
  obtain ⟨⟨⟨⟨⟨⟨h1, h2⟩, h0⟩, h3⟩, hw⟩, hz⟩, h4⟩ := h
  rw [← words_zero hz, ← words_split _ 0x60000 6 506] at hw
  have hs : Small (sCx (cxC st_ prot) (recC (BitVec.ofNat 8 cmd) more)) 0 := ⟨rfl, h1, h2⟩
  refine ⟨by simp [sCx, tget], _, 5, _, ?_, h4⟩
  have a : (cxC st_ prot).addr = 0x60000 := rfl
  have d : (cxC st_ prot).dseq = 4 := rfl
  have m : (sCx (cxC st_ prot) (recC (BitVec.ofNat 8 cmd) more)).hbm = recC (BitVec.ofNat 8 cmd) more := rfl
  simp only [ctxCommand, a, small_recRead hs (a := 0x60000) (i := 1) (n := 1) (by decide), small_recRead hs (a := 0x60000) (i := 0) (n := 512) (by decide), m, d,
    Nat.reduceMul, Nat.reduceAdd, Nat.add_zero, Nat.mul_zero, h0, hw, List.getD_cons_zero, h3]
  rfl

theorem ask_0 : asks .preempting false 9 [] false := asks_of (recL 9 0 0) (by decide +kernel)
theorem ask_1 : asks .destroyed false 1 [] false := asks_of (recL 1 0 0) (by decide +kernel)
theorem ask_2 : asks .destroyed false 2 [] false := asks_of (recL 2 0 0) (by decide +kernel)
theorem ask_3 : asks .destroyed false 3 [] false := asks_of (recL 3 0 0) (by decide +kernel)
theorem ask_4 : asks .destroyed false 4 [] false := asks_of (recL 4 0 0) (by decide +kernel)
theorem ask_5 : asks .destroyed false 5 [] false := asks_of (recL 5 0 0) (by decide +kernel)
theorem ask_6 : asks .created false 1 [] false := asks_of (recL 1 0 0) (by decide +kernel)
theorem ask_7 : asks .created true 1 [(0x60018, 1)] false := asks_of (recL 1 1 0) (by decide +kernel)
theorem ask_8 : asks .created false 1 [(0x60028, 1)] true := asks_of (recL 1 0 1) (by decide +kernel)
theorem ask_9 : asks .loaded false 2 [] false := asks_of (recL 2 0 0) (by decide +kernel)
theorem ask_10 : asks .running true 3 [] false := asks_of (recL 3 0 0) (by decide +kernel)
theorem ask_11 : asks .faulted false 3 [] false := asks_of (recL 3 0 0) (by decide +kernel)
theorem ask_12 : asks .saved false 4 [] false := asks_of (recL 4 0 0) (by decide +kernel)
theorem ask_13 : asks .saved false 5 [] false := asks_of (recL 5 0 0) (by decide +kernel)
theorem ask_14 : asks .destroyed false 6 [] false := asks_of (recL 6 0 0) (by decide +kernel)
theorem ask_15 : asks .faulted false 6 [] false := asks_of (recL 6 0 0) (by decide +kernel)

/-- No command, one that the state does not accept, a record that passes and one that does not, and the others; and what the clauses
ask of the state besides. -/
theorem witness_ContextAndPartitionEvents_commands :
    asks .preempting false 9 [] false ∧ (∀ n, n ∈ [1, 2, 3, 4, 5] → asks .destroyed false n [] false)
    ∧ asks .created false 1 [] false ∧ asks .created true 1 [(0x60018, 1)] false ∧ asks .created false 1 [(0x60028, 1)] true
    ∧ asks .loaded false 2 [] false ∧ asks .running true 3 [] false ∧ asks .faulted false 3 [] false ∧ asks .saved false 4 [] false ∧ asks .saved false 5 [] false
    ∧ asks .destroyed false 6 [] false ∧ asks .faulted false 6 [] false
    ∧ (let s := sCx (cxC .running true) []
      tget s.parts 0 = some partS ∧ partS.st = .active ∧ (cxC .running true).cmd = 0 ∧ blocksOf s 0 0 = [] ∧ s.inreqs = [] ∧ queuesOf s 0 0 = [] ∧ s.grids = []
        ∧ tget s.keys 0 = some (keyK (BitVec.allOnes 64) 4) ∧ 4 ≤ (keyK 0 4).refusals ∧ s.hold = .none) := by
  refine ⟨ask_0, ?_, ask_6, ask_7, ask_8, ask_9, ask_10, ask_11, ask_12, ask_13, ask_14, ask_15, by decide +kernel⟩
  intro n h
  simp only [List.mem_cons, List.not_mem_nil, or_false] at h
  rcases h with rfl | rfl | rfl | rfl | rfl
  · exact ask_1
  · exact ask_2
  · exact ask_3
  · exact ask_4
  · exact ask_5

/-- A save that has drained, and grids of a save or restore that have ended. -/
def cxPre (st_ : CtxSt) (ph : Nat) (checks : List (Nat × Nat)) : Ctx := { cxC st_ true with ph := ph, sgrid := some 3, checks := checks }
def sSv (x : Ctx) : State := { sCx x (memS []) with grids := [(3, { stageGrid with st := .done, src := .device false })] }
/-- Pools that have nothing to take back, and a record that needs no wait. -/
theorem witness_ContextAndPartitionEvents_waits : let s := sCx (cxC .running true) (memS [])
    (drainPools s 0 0).2.waits (drainPools s 0 0).1 0 = false ∧ (serviceRecord s 0 0 (cxC .running true).saverec).waits s 0 = false ∧ s.devq = [] := by
  decide +kernel

theorem witness_ContextAndPartitionEvents_saves :
    (∀ prot, prot = true ∨ prot = false → let x := { cxC .preempting prot with ph := 1 }
      tget (sCx x (memS [])).ctxs 0 = some x ∧ blocksOf (sCx x (memS [])) 0 0 = [] ∧ ctxQuiet (sCx x (memS [])) 0 0 = true)
    ∧ (let x := { cxC .preempting true with ph := 1 }
      let u := { sCx x (memS []) with keys := tmod (sCx x (memS [])).keys 0 (fun k => { k with ctr := k.ctr + 1 }) }
      launchService (showCtx u 0 0) 0 0 x.saverec false = none)
    ∧ (let x := cxPre .preempting 0 [(0, 16), (0, 0)]
      serviceEnd (sSv x) x = some (3, { stageGrid with st := .done, src := .device false }) ∧ segPlaced x = 1 ∧ segCodes x 0 = [0])
    ∧ (let x := cxPre .restoring 2 [(0, 0), (1, 0)]; (serviceEnd (sSv x) x).isSome = true ∧ restoreCode x { stageGrid with st := .done, src := .device false } 2 = 0)
    ∧ (let x := cxPre .restoring 2 [(0, 0), (1, 3)]; (serviceEnd (sSv x) x).isSome = true ∧ restoreCode x { stageGrid with st := .done, src := .device false } 2 ≠ 0) := by
  refine ⟨?_, by decide +kernel, by decide +kernel, by decide +kernel, by decide +kernel⟩
  rintro p (rfl | rfl) <;> decide +kernel

/-- A control block of partition 0 at 0x60000: a command of sequence number 9, core 0, four slices and two channels of die 0. -/
def pcbC (cmd arg : Nat) (sl ch : BitVec 8) (more : SMap 8) : SMap 8 :=
  memS ([(0x60008, BitVec.ofNat 8 cmd), (0x6000A, BitVec.ofNat 8 arg), (0x6000B, BitVec.ofNat 8 (arg / 256)), (0x6000C, 9), (0x60010, 3), (0x60501, 0x80), (0x60900, sl), (0x60940, ch)] ++ more)
def sPt (m : SMap 8) (parts : Tbl Part) : State := { State.reset with hold := .none, svcRoots := [0x2000, 0, 0, 0], pregs := [(0, 0x60001)], parts := parts, hbm := m, uid := 50 }
def partX (st_ : PartSt) (ph : Nat) : Part := { stagePart with st := st_, phase := ph, pcb := 0x60000, cseq := 3, s2root := [0, 0, 0, 0] }
def pcHas (m : SMap 8) (parts : Tbl Part) (f : PCmd → Bool) : Prop := ∃ c, partCommand (sPt m parts) 0 = some c ∧ f c = true
/-- The 512 words of the control block. -/
def pcbL (w1 w5 w7 sl ch : DWord) : List DWord :=
  [0, 9 * 2 ^ 32 + w1, 3, 0, 0, w5, 0, w7] ++ (List.replicate 152 0 ++ ([0x8000] ++ (List.replicate 127 0 ++ ([sl, 0, 0, 0, 0, 0, 0, 0, ch] ++ List.replicate 215 0))))
def pcIs (m : SMap 8) (parts : Tbl Part) (w : List DWord) (f : PCmd → Bool) : Bool :=
  let v := (w.getD 1 0).toNat
  decide (rdPte m 0 0x2000 = 0x4003) && decide (rdPte m 0 0x4000 = 0x3D) && decide (wordsAt m 0x60000 8 ++ (List.replicate 152 0 ++ (wordsAt m 0x60500 1
      ++ (List.replicate 127 0 ++ (wordsAt m 0x60900 9 ++ List.replicate 215 0)))) = w)
    && clear m 0x60040 152 && clear m 0x60508 127 && clear m 0x60948 215 && decide (v / 2 ^ 32 = 9)
    && decide ((w.getD 0 0).toNat / 2 ^ 32 = 0)
    && (match tget parts 0 with
      | some x => decide ((if x.cmd = 0 then x.dseq else x.cseq) ≠ 9)
      | none => true)
    && f { cmd := v % 256, q := 9, pcb := 0x60000, w := w }
theorem pc_has {m : SMap 8} {parts : Tbl Part} {f : PCmd → Bool} (w : List DWord) (h : pcIs m parts w f = true) : pcHas m parts f := by
  simp only [pcIs, Bool.and_eq_true, decide_eq_true_eq] at h
  obtain ⟨⟨⟨⟨⟨⟨⟨⟨⟨h1, h2⟩, hw⟩, z1⟩, z2⟩, z3⟩, h3⟩, h4⟩, h5⟩, h6⟩ := h
  rw [← words_zero z1, ← words_zero z2, ← words_zero z3, ← words_split _ 0x60900 9 215, ← words_split _ 0x60508 127 224, ← words_split _ 0x60500 1 351,
    ← words_split _ 0x60040 152 352, ← words_split _ 0x60000 8 504] at hw
  have hs : Small (sPt m parts) 16 := ⟨rfl, h1, h2⟩
  refine ⟨_, ?_, h6⟩
  have p0 : pcbOf (sPt m parts) 0 = some 0x60000 := by
    have e : (sPt m parts).pregs = [(0, 0x60001)] := rfl
    rw [pcbOf, e]; decide
  have m0 : (sPt m parts).hbm = m := rfl
  have q0 : (sPt m parts).parts = parts := rfl
  simp only [partCommand, p0, small_svcRead hs (a := 0x60000) (n := 512) (by decide), m0, q0, hw, h3, h4]
  cases hp : tget parts 0 with
  | none => rfl
  | some x => rw [hp] at h5; simp only [decide_eq_true_eq] at h5; simp only; rw [if_neg (fun e => h5 e.symm)]; rfl
def isCmd (k : Nat) (c : PCmd) : Bool := decide (c.cmd = k)
/-- The codes of the checks that a CREATE makes. -/
def createCode (s : State) (c : PCmd) : Nat :=
  if badPcb s 0 c.w then 2 else if busy s 0 c.w then 3 else if (readSlices c.w 288).getD ((c.w.getD 3 0).toNat / 16 % 4) 0 = 0 then 7 else 0
def other : Part := { stagePart with slices := [1, 0, 0, 0], cmap := [] }

def creates (m : SMap 8) (parts : Tbl Part) (code : Nat) : Prop := pcHas m parts (fun c => isCmd 1 c && decide (createCode (sPt m parts) c = code))
theorem pc_0 : pcHas (pcbC 2 0 15 6 []) [] (isCmd 2) := pc_has (pcbL 2 0 0 15 6) (by decide +kernel)
theorem pc_1 : creates (pcbC 1 0 15 0 []) [] 2 := pc_has (pcbL 1 0 0 15 0) (by decide +kernel)
theorem pc_2 : creates (pcbC 1 0 15 6 []) [(3, other)] 3 := pc_has (pcbL 1 0 0 15 6) (by decide +kernel)
theorem pc_3 : creates (pcbC 1 0 0 0 []) [] 7 := pc_has (pcbL 1 0 0 0 0) (by decide +kernel)
theorem pc_4 : creates (pcbC 1 0 15 6 []) [] 0 := pc_has (pcbL 1 0 0 15 6) (by decide +kernel)
theorem witness_ContextAndPartitionEvents_create :
    pcHas (pcbC 2 0 15 6 []) [] (isCmd 2) ∧ creates (pcbC 1 0 15 0 []) [] 2 ∧ creates (pcbC 1 0 15 6 []) [(3, other)] 3
    ∧ creates (pcbC 1 0 0 0 []) [] 7 ∧ creates (pcbC 1 0 15 6 []) [] 0 := ⟨pc_0, pc_1, pc_2, pc_3, pc_4⟩

/-- The state in which ENTER reads the table, and what it finds. -/
def entering (s : State) (c : PCmd) : State := takePcb { s with parts := tmod s.parts 0 (fun x => { x with cseq := c.q }) } 0 c.w
def entersOk (s : State) (c : PCmd) : Bool :=
  match svcRead (entering s c) (c.w.getD 5 0).toNat 1 with
  | some [e] =>
    e.getLsbD 0 && (match recRead (entering s c) 0 (e.toNat / 2 ^ 12 * 2 ^ 12 % 2 ^ 53) 0 512 with
      | .done w => recordFresh w
      | _ => false)
  | _ => false

def enterMem : SMap 8 := pcbC 5 0 15 6 [(0x60039, 0x20), (0x6002A, 7), (0x70000, 1), (0x70002, 8)]
def enterPart : Part := { partX .active 0 with s2root := [0x2000, 0, 0, 0] }

theorem pc_5 : pcHas (pcbC 3 0 15 6 []) [(0, partX .active 0)] (isCmd 3) := pc_has (pcbL 3 0 0 15 6) (by decide +kernel)
theorem pc_6 : pcHas (pcbC 5 1024 15 6 []) [(0, partX .active 0)] (fun c => isCmd 5 c && decide ((c.w.getD 1 0).toNat / 2 ^ 16 % 2 ^ 16 = 1024)) :=
  pc_has (pcbL 67108869 0 0 15 6) (by decide +kernel)
theorem pc_7 : pcHas enterMem [(0, enterPart)] (fun c => isCmd 5 c && decide ((c.w.getD 1 0).toNat / 2 ^ 16 % 2 ^ 16 = 0) && entersOk (sPt enterMem [(0, enterPart)]) c) :=
  pc_has (pcbL 5 0x70000 0x2000 15 6) (by decide +kernel)
theorem pc_8 : pcHas (pcbC 2 0 15 6 []) [(0, partX .active 0)] (isCmd 2) := pc_has (pcbL 2 0 0 15 6) (by decide +kernel)
theorem pc_9 : pcHas (pcbC 2 0 15 6 []) [(0, partX .destroying 0)] (isCmd 2) := pc_has (pcbL 2 0 0 15 6) (by decide +kernel)
theorem pc_10 : pcHas (pcbC 3 0 15 6 []) [(0, partX .resizing 2)] (isCmd 3) := pc_has (pcbL 3 0 0 15 6) (by decide +kernel)
theorem pc_11 : pcHas (pcbC 3 0 15 6 []) [(0, partX .resizing 5)] (isCmd 3) := pc_has (pcbL 3 0 0 15 6) (by decide +kernel)
theorem pc_12 : pcHas (pcbC 4 0 15 6 []) [(0, partX .active 0)] (isCmd 4) := pc_has (pcbL 4 0 0 15 6) (by decide +kernel)

theorem witness_ContextAndPartitionEvents_partition :
    pcHas (pcbC 3 0 15 6 []) [(0, partX .active 0)] (isCmd 3)
    ∧ pcHas (pcbC 5 1024 15 6 []) [(0, partX .active 0)] (fun c => isCmd 5 c && decide ((c.w.getD 1 0).toNat / 2 ^ 16 % 2 ^ 16 = 1024))
    ∧ pcHas enterMem [(0, enterPart)] (fun c => isCmd 5 c && decide ((c.w.getD 1 0).toNat / 2 ^ 16 % 2 ^ 16 = 0) && entersOk (sPt enterMem [(0, enterPart)]) c)
    ∧ pcHas (pcbC 2 0 15 6 []) [(0, partX .active 0)] (isCmd 2) ∧ pcHas (pcbC 2 0 15 6 []) [(0, partX .destroying 0)] (isCmd 2)
    ∧ (let s := sPt (pcbC 2 0 15 6 []) [(0, partX .active 0)]
      anyCtx s 0 (fun st => decide (st = .preempting) || decide (st = .restoring)) = false ∧ capOn s 0 capLive = true ∧ s.blocks = [])
    ∧ pcHas (pcbC 3 0 15 6 []) [(0, partX .resizing 2)] (isCmd 3) ∧ pcHas (pcbC 3 0 15 6 []) [(0, partX .resizing 5)] (isCmd 3)
    ∧ pcHas (pcbC 4 0 15 6 []) [(0, partX .active 0)] (isCmd 4) :=
  ⟨pc_5, pc_6, pc_7, pc_8, pc_9, by decide +kernel, pc_10, pc_11, pc_12⟩

/-- The leaves and tables of a second stage whose tables have at most their first entry. -/
theorem leaves_head {m : SMap 8} {k tbl ia : Nat} (h : clear m (tbl + 8) 1023 = true) :
    s2leaves m 0 (k + 1) tbl ia = (let e := rdPte m 0 tbl
      if !pteV e then [] else if pteT e then s2leaves m 0 k (pteOff e) ia else if k = 3 then [] else [(ia, k, tbl, e)]) := by
  have z : ∀ i, i < 1023 → rdPte m 0 (tbl + 8 * (i + 1)) = 0 := fun i hi => by
    rw [rdPte, bytes_zero m 8 _ (fun j h1 h2 => clear_zero h (by simp [hkey] at h1; omega) (by simp [hkey] at h2; omega))]; rfl
  have v0 : pteV 0 = false := by decide
  have r : List.range 1024 = 0 :: (List.range 1023).map Nat.succ := List.range_succ_eq_map
  rw [s2leaves, r, List.flatMap_cons, List.flatMap_eq_nil_iff.2, List.append_nil]
  · simp only [Nat.mul_zero, Nat.add_zero, Nat.zero_mul]
  · intro i hi
    obtain ⟨j, hj, rfl⟩ := List.mem_map.1 hi
    simp only [Nat.succ_eq_add_one, z j (List.mem_range.1 hj), v0, Bool.not_false, if_true]
theorem tables_head {m : SMap 8} {k tbl : Nat} (h : clear m (tbl + 8) 1023 = true) :
    s2tables m 0 (k + 1) tbl = tbl :: (let e := rdPte m 0 tbl
      if pteV e && pteT e then s2tables m 0 k (pteOff e) else []) := by
  have z : ∀ i, i < 1023 → rdPte m 0 (tbl + 8 * (i + 1)) = 0 := fun i hi => by
    rw [rdPte, bytes_zero m 8 _ (fun j h1 h2 => clear_zero h (by simp [hkey] at h1; omega) (by simp [hkey] at h2; omega))]; rfl
  have v0 : pteV 0 = false := by decide
  have r : List.range 1024 = 0 :: (List.range 1023).map Nat.succ := List.range_succ_eq_map
  rw [s2tables, r, List.flatMap_cons, List.flatMap_eq_nil_iff.2, List.append_nil]
  · simp only [Nat.mul_zero, Nat.add_zero]
  · intro i hi
    obtain ⟨j, hj, rfl⟩ := List.mem_map.1 hi
    simp only [Nat.succ_eq_add_one, z j (List.mem_range.1 hj), v0, Bool.false_and, Bool.false_eq_true, if_false]

/-- A partition in a phase of its resize: core 0 of its map goes from physical core 0 to 5, and channel 1 of die 0 leaves. -/
def partR (ph : Nat) : Part :=
  { partX .resizing ph with tmap := [(0, 0x8005)], slices := [15, 0, 0, 0], tslices := [15, 0, 0, 0], chans := [3, 0, 0, 0], tchans := [1, 0, 0, 0], s2root := [0x2000, 0, 0, 0] }
def bRm : Block := { b0 with vcores := [1], grid := 9, desc := { stageDesc with variants := [{ stageVariant with spad := 0x40 }] } }
def cxW : Ctx := { stageCtx with roots := [0x2000, 0, 0, 0], swapbase := va509 0 0x100000, nswap := 4, swapstride := 0x10000 }
/-- Four tables down to the leaf of frame 512, in channel 1. -/
def memL : SMap 8 := [(0x2000, 0x03), (0x2001, 0x40), (0x4000, 0x03), (0x4001, 0x60), (0x6000, 0x03), (0x6001, 0x80), (0x8000, 0x3D), (0x8002, 0x40)]
def sR (x : Part) (m : SMap 8) : State := { sPt m [(0, x)] with blocks := [], ops := [] }

theorem leaves_L : s2leaves memL 0 4 0x2000 0 = [(0, 0, 0x8000, 0x40003D)] := by
  have e1 : rdPte memL 0 0x2000 = 0x4003 := by decide +kernel
  have e2 : rdPte memL 0 0x4000 = 0x6003 := by decide +kernel
  have e3 : rdPte memL 0 0x6000 = 0x8003 := by decide +kernel
  have e4 : rdPte memL 0 0x8000 = 0x40003D := by decide +kernel
  have f : pteOff 0x4003 = 0x4000 ∧ pteOff 0x6003 = 0x6000 ∧ pteOff 0x8003 = 0x8000 := by decide
  have b : pteV 0x4003 = true ∧ pteT 0x4003 = true ∧ pteV 0x6003 = true ∧ pteT 0x6003 = true ∧ pteV 0x8003 = true ∧ pteT 0x8003 = true
    ∧ pteV 0x40003D = true ∧ pteT 0x40003D = false := by decide
  simp only [leaves_head (m := memL) (tbl := 0x2000) (by decide +kernel), leaves_head (m := memL) (tbl := 0x4000) (by decide +kernel),
    leaves_head (m := memL) (tbl := 0x6000) (by decide +kernel), leaves_head (m := memL) (tbl := 0x8000) (by decide +kernel), e1, e2, e3, e4, f, b]
  rfl
theorem tables_L : s2tables memL 0 4 0x2000 = [0x2000, 0x4000, 0x6000, 0x8000] := by
  have e1 : rdPte memL 0 0x2000 = 0x4003 := by decide +kernel
  have e2 : rdPte memL 0 0x4000 = 0x6003 := by decide +kernel
  have e3 : rdPte memL 0 0x6000 = 0x8003 := by decide +kernel
  have e4 : rdPte memL 0 0x8000 = 0x40003D := by decide +kernel
  have f : pteOff 0x4003 = 0x4000 ∧ pteOff 0x6003 = 0x6000 ∧ pteOff 0x8003 = 0x8000 := by decide
  have b : pteV 0x4003 = true ∧ pteT 0x4003 = true ∧ pteV 0x6003 = true ∧ pteT 0x6003 = true ∧ pteV 0x8003 = true ∧ pteT 0x8003 = true
    ∧ pteV 0x40003D = true ∧ pteT 0x40003D = false := by decide
  simp only [tables_head (m := memL) (tbl := 0x2000) (by decide +kernel), tables_head (m := memL) (tbl := 0x4000) (by decide +kernel),
    tables_head (m := memL) (tbl := 0x6000) (by decide +kernel), tables_head (m := memL) (tbl := 0x8000) (by decide +kernel), e1, e2, e3, e4, f, b]
  rfl

theorem leavesOf_L (p : Nat) (hp : p = 0 ∨ p = 16) : leavesOf (sR (partR 5) memL) p 0 = [(0, 0, 0x8000, 0x40003D)] ∧ tablesOf (sR (partR 5) memL) p 0 = [0x2000, 0x4000, 0x6000, 0x8000] := by
  have r : s2rootOf (sR (partR 5) memL) p 0 = some 0x2000 := by rcases hp with rfl | rfl <;> rfl
  have o : pteOff 0x2000 = 0x2000 := by decide
  exact ⟨by rw [leavesOf, r]; simp only [o]; exact leaves_L, by rw [tablesOf, r]; simp only [o]; exact tables_L⟩

theorem first_found {n : Nat} {f : Nat → Nat} {q : Nat → Bool} (h : q (f 0) = true) : ((List.range (n + 1)).map f).find? q = some (f 0) := by
  rw [List.range_succ_eq_map, List.map_cons, List.find?_cons, h]

theorem found_first {α β : Type} {f : Nat → Option α} {g : Nat → α → β} {v : α} (h : f 0 = some v) :
    (List.range 4).findSome? (fun d => (f d).map (g d)) = some (g 0 v) := by
  have r : List.range 4 = [0, 1, 2, 3] := by decide
  rw [r, List.findSome?_cons, h]; rfl
theorem page_leaf : leavingLeaf (sR (partR 5) memL) 0 (partR 5) 0 = some (0, 0, 0x8000, 0x40003D) := by
  rw [leavingLeaf, (leavesOf_L 0 (.inl rfl)).1]; decide +kernel
theorem page_unused : frameUsed (sR (partR 5) memL) 0 0 = false := by
  have ps : (16 :: (sR (partR 5) memL).parts.map Prod.fst) = [16, 0] := rfl
  simp only [frameUsed, ps, List.any_cons, List.any_nil, leavesOf_L 0 (.inl rfl), leavesOf_L 16 (.inr rfl)]
  decide
theorem page_free : freeRunOf (sR (partR 5) memL) (partR 5) 0 1 = some 0 := by
  have t : ((partR 5).tchans.getD 0 0).testBit (frameChan 0) = true := by decide
  obtain ⟨n, d⟩ : ∃ n, dieFrames / 1 = n + 1 := ⟨2 ^ 24 - 1, by decide⟩
  rw [freeRunOf, d]
  refine first_found ?_
  simp only [Nat.zero_mul, t, List.range_succ_eq_map, List.range_zero, List.map_nil, List.all_cons, List.all_nil, Nat.add_zero, page_unused, Bool.not_false, Bool.and_self]

/-- Everything PAGE_MOVE asks for. -/
theorem witness_ContextAndPartitionEvents_page : (List.range 4).findSome? (fun d => (leavingLeaf (sR (partR 5) memL) 0 (partR 5) d).map (fun l => (d, l))) = some (0, 0, 0, 0x8000, 0x40003D)
    ∧ pteRun 0x40003D = false ∧ freeRunOf (sR (partR 5) memL) (partR 5) 0 1 = some 0 ∧ Memory.wf (sR (partR 5) memL) = true ∧ 0 * 8192 + 8192 ≤ 0x8000 :=
  ⟨found_first page_leaf, by decide, page_free, by decide +kernel, by decide⟩

theorem witness_ContextAndPartitionEvents_resize :
    (tget (sR (partR 2) (memS [])).parts 0 = some (partR 2) ∧ (partR 2).st = .resizing ∧ (sR (partR 2) (memS [])).blocks = [] ∧ (5 : Nat) ∈ mapCores (partR 2).tmap
      ∧ (5 : Nat) ∉ mapCores (partR 2).cmap)
    ∧ (onRemoved (sR (partR 3) (memS [])) 0 (partR 3) = [] ∧ (sR (partR 3) (memS [])).ops = [])
    -- blocks on a removed core: one that may leave, one that may not
    ∧ (∀ nosw, nosw = true ∨ nosw = false → let x := { partR 3 with cmap := [(0, 0x8000), (1, 0x8001)], force := true }
      let b := { bRm with resident := nosw }
      let s := { sR x (memS []) with blocks := [(7, b)], ctxs := [(0, cxW)] }
      onRemoved s 0 x = [(7, b)] ∧ tget s.blocks 7 = some b ∧ mayLeave s 7 b = !nosw)
    -- a slice that has nothing left, and one that has a region
    ∧ (∀ k, k = 0 ∨ k = 1 → let x := { partR 4 with sweep := [(k, 0)] }
      let s := { sR x (memS []) with co := { Coh.reset with dir := [(10, 1)] } }
      (liveRegions s (k / 80)).filter (fun r => decide (0 ≤ r * 512) && decide (homeSlice (x.slices.getD (k / 80) 0) (r * 512) = k % 80)) = (if k = 0 then [10] else [])
        ∧ s.co.ctxn = [])
    -- a core that moves, and the end
    ∧ (let s := { sR (partR 5) (memS []) with spad := [(7, 1)] }
      remappedV (partR 5) 0 = true ∧ mget s.moved (0 * 512 + 0) = 0 ∧ moveChain s 0 (partR 5) 512 0 = [(0, 0, 5)] ∧ s.groups = [] ∧ s.passes = [] ∧ s.copies = [] ∧ s.nbcmds = []
        ∧ s.locks = [] ∧ s.inreqs = [] ∧ mwf s.spad = true ∧ (partR 5).moving = none)
    ∧ (let x := { partR 5 with tmap := [(0, 0x8000)], tchans := [3, 0, 0, 0] }; ∀ v, v < 512 → remappedV x v = true → mget (sR x memL).moved (0 * 512 + v) ≠ 0) := by
  refine ⟨by decide +kernel, by decide +kernel, ?_, ?_, by decide +kernel, by decide +kernel⟩
  · rintro n (rfl | rfl) <;> decide +kernel
  · rintro n (rfl | rfl) <;> decide +kernel
/-- No frame of a leaving channel is mapped. -/
theorem witness_ContextAndPartitionEvents_detach : let x := { partR 5 with tmap := [(0, 0x8000)], s2root := [0, 0, 0, 0] }
    ∀ d, d < 4 → leavingLeaf (sR x []) 0 x d = none := by
  intro x d hd
  have l : leavesOf (sR x []) 0 d = [] := by
    have r : s2rootOf (sR x []) 0 d = some 0 := by
      have : d = 0 ∨ d = 1 ∨ d = 2 ∨ d = 3 := by omega
      rcases this with rfl | rfl | rfl | rfl <;> rfl
    have z : ∀ a, rdPte [] d a = 0 := fun a => by rw [rdPte, bytes_zero [] 8 _ (fun _ _ _ => rfl)]; rfl
    have h : (sR x []).hbm = [] := rfl
    have v0 : pteV 0 = false := by decide
    rw [leavesOf, r]
    simp only [h, s2leaves, z, v0, Bool.not_false, if_true]
    exact List.flatMap_eq_nil_iff.2 (fun _ _ => rfl)
  rw [leavingLeaf, l]; rfl

/-! ## Witnesses: the keystone, power, and steps -/

/-- A module that runs, with its port H up. -/
def sUp : State := let s := staged State.reset 0
  { s with aliasOf := some 5, links := s.links.set 18 { Link.reset with st := .up, en := true } }
def sSpdm (stage : Nat) (l : List Nat) : State := { sUp with spdm := { stage := stage, sessions := l } }
def sIde (y : IdeSt) (st : BitVec 2) : State := { sSpdm 3 [7] with ide := [(0, y)], tdi := mset [] 0 st, tdiNonce := mset [] 0 9 }
def sLvl (l : HLevel) : State := { sUp with harts := [(2, { Hart.reset with lvl := l })] }

theorem witness_KeystoneAndPowerEvents_boot :
    (State.reset.hold = .boot ∧ State.reset.bootSt = 0 ∧ 1 = State.reset.stage + 1)
    ∧ (let s := { State.reset with stage := 3 }; s.hold = .boot ∧ s.bootSt = 0 ∧ 4 = s.stage + 1)
    ∧ (let s := { State.reset with stage := 1 }; s.hold = .boot ∧ s.bootSt = 0 ∧ 2 = s.stage + 1 ∧ ∃ l, s.links[18]? = some l ∧ l.st = .down)
    ∧ ((true : Bool) = true ∧ Config.keyDigest = Config.keyDigest ∧ Config.minSvn.toNat ≤ Config.minSvn.toNat)
    ∧ ¬((false : Bool) = true ∧ Config.keyDigest = Config.keyDigest ∧ Config.minSvn.toNat ≤ 0) :=
  ⟨by decide +kernel, by decide +kernel, ⟨rfl, rfl, rfl, _, rfl, rfl⟩, ⟨rfl, rfl, Nat.le_refl _⟩, by simp⟩

theorem witness_KeystoneAndPowerEvents_attestation : (sSpdm 0 []).aliasOf ≠ none ∧ portUp (sSpdm 0 []) 18 = true ∧ (sSpdm 0 []).spdm.stage < 1
    ∧ portUp (sSpdm 3 [7]) 18 = true ∧ 3 ≤ (sSpdm 3 [7]).spdm.stage ∧ 7 ∈ (sSpdm 3 [7]).spdm.sessions ∧ 8 ∉ (sSpdm 3 [7]).spdm.sessions
    ∧ (∀ y, y = .keyed ∨ y = .secure ∨ y = .off → ideOf (sIde y 0) 0 = y) ∧ tget (sIde .off 0).parts 0 ≠ none ∧ tget (sIde .off 0).parts 1 = none
    ∧ mget (sIde .secure 0).tdi 0 = 0 ∧ mget (sIde .secure 1).tdi 0 = 1 ∧ mget (sIde .secure 1).tdiNonce 0 = 9 ∧ mget (sIde .secure 1).tdiNonce 0 ≠ 8
    ∧ mget (sIde .secure 2).tdi 0 ≠ 1 ∧ capOn sUp 0 capService = true ∧ State.reset.hold ≠ .power ∧ State.reset.elog = [] := by
  refine ⟨by decide +kernel, by decide +kernel, by decide +kernel, by decide +kernel, by decide +kernel, by decide +kernel, by decide +kernel, ?_, by decide +kernel⟩
  rintro y (rfl | rfl | rfl) <;> decide +kernel

theorem witness_KeystoneAndPowerEvents_errors :
    (∀ e, State.reset.elog.getLast? = some e → e.kind ≠ 1 ∨ e.addr ≠ (0x12345 : DWord) ∨ e.unit ≠ 7 ∨ e.ctx ≠ 0)
    ∧ errRun State.reset 1 7 0x12345 ≠ 8 ∧ errRun { State.reset with corr := [(65543, (72, 7))] } 1 7 0x12345 = 8
    ∧ (0x12345 : DWord).toNat / 1024 = 72 := ⟨by simp [State.reset], by decide +kernel⟩

theorem witness_KeystoneAndPowerEvents_power : (let s := { State.reset with pgood := true, hold := .power }; s.pgood = true ∧ s.hold = .power)
    ∧ State.reset.hold = .boot ∧ sUp.hold = .none ∧ (∃ x, tget sUp.harts 2 = some x ∧ x.lvl = .m)
    ∧ (∀ k, k < 13 → sensor 0 k < 110) ∧ min 2400 (max 600 sUp.plim.toNat) < 2500 ∧ sUp.twarn.toNat ≤ sensor (100 * 2 ^ 8) 1
    ∧ (∀ k, k < 13 → sensor (100 * 2 ^ 8) k < 110) ∧ 100 * 100 < min 2400 (max 600 sUp.plim.toNat) * 95
    ∧ ¬((∃ k, k < 4 ∧ sUp.twarn.toNat ≤ sensor 0 k) ∨ ∃ k, k < 8 ∧ 95 ≤ sensor 0 (5 + k))
    ∧ 2300 ≤ min 2400 (max 600 sUp.plim.toNat) ∧ sensor 0 0 < sUp.twarn.toNat ∧ min 2400 (max 600 sUp.plim.toNat) * 95 ≤ 2300 * 100 := by
  refine ⟨by decide, by decide, by decide, ⟨_, rfl, rfl⟩, by decide +kernel, by decide +kernel, by decide +kernel, by decide +kernel, by decide +kernel,
    ?_, by decide +kernel⟩
  rintro (⟨k, hk, h⟩ | ⟨k, hk, h⟩)
  · exact absurd h ((by decide +kernel : ∀ k, k < 4 → ¬sUp.twarn.toNat ≤ sensor 0 k) k hk)
  · exact absurd h ((by decide +kernel : ∀ k, k < 8 → ¬95 ≤ sensor 0 (5 + k)) k hk)

theorem witness_KeystoneAndPowerEvents_registers :
    (∀ l : HLevel, ∃ x, tget (sLvl l).harts 2 = some x ∧ x.lvl = l) ∧ portUp (sLvl .m) 18 = true
    ∧ mget { sUp with msixPend := mset [] 3 1 }.msixPend (0 * 256 + 3) = 1 ∧ mget sUp.msixPend (0 * 256 + 3) ≠ 1 :=
  ⟨fun _ => ⟨_, rfl, rfl⟩, by decide +kernel⟩

/-! Steps: a word of a group, of a hart, and of the near-bank engine, each where its step fetches it. -/

def sFetch : State := { stageSlot State.reset 0b00000000100000000000000000000101 with issuer := .slot 0 0 }
def isWord (f : Fetched Word) (w : Word) : Bool :=
  match f with
  | .word v => decide (v = w)
  | .moves _ => false
theorem fetch_word {f : Fetched Word} {w : Word} (h : isWord f w = true) : f = .word w := by
  cases f <;> simp_all [isWord]

theorem witness_StepRunsDecoded_slot : sFetch.inputs = [.slot 0 0] ∧ sFetch.hold = .none
    ∧ (∃ g, tget sFetch.groups 0 = some g ∧ mayIssue sFetch g (slotOf g 0) = true
      ∧ ∃ e, checkAcc sFetch (reqOf sFetch g) .fetch (slotOf g 0).pc 4 (slotOf g 0).pc.toNat 4 = .ok (.hbm 0 0x10000) e)
    ∧ poisonedT sFetch (.hbm 0 0x10000) 4 = false
    ∧ decode ((List.range 4).map (fun k => mget sFetch.hbm (hkey 0 0x10000 + k))) = .ok (.bra 5) :=
  ⟨rfl, rfl, ⟨_, rfl, by decide +kernel, acc_of (by decide +kernel)⟩, by decide +kernel, by decide +kernel⟩

def sHartFetch : State := stageHart State.reset 0b00000000010100011000010101111011
theorem witness_StepRunsDecoded_hart : sHartFetch.inputs = [.hart 0] ∧ sHartFetch.hold = .none
    ∧ (∃ x, tget sHartFetch.harts 0 = some x
      ∧ fetchHart { sHartFetch with inputs := [], clock := sHartFetch.clock + 1, issuer := .hart 0 } 0 x = .word 0b00000000010100011000010101111011)
    ∧ decodeHart 0b00000000010100011000010101111011 = some (.csetbnd 5 3 10) :=
  ⟨rfl, rfl, ⟨_, rfl, fetch_word (by decide +kernel)⟩, by decide +kernel⟩

def sNbFetch : State := stageNb State.reset (0x6 * 2 ^ 60 + 0x2A * 2 ^ 48)
/-- A base word (addi x5, x0, 1), and a word of the extension's opcode that is none of its instructions. -/
def sHartBase (w : Word) : State := stageHart State.reset w
theorem witness_StepRunsDecoded_base : ∀ w : Word, w = 0x00100293 ∨ w = 0xFFFFFFFB → ∃ x, tget (sHartBase w).harts 0 = some x
    ∧ (sHartBase w).inputs = [.hart 0] ∧ decodeHart w = none ∧ capOpcode w = decide (w ≠ 0x00100293)
    ∧ fetchHart { sHartBase w with inputs := [], clock := (sHartBase w).clock + 1, issuer := .hart 0 } 0 x = .word w := by
  rintro w (rfl | rfl) <;> exact ⟨_, rfl, rfl, by decide +kernel, by decide +kernel, fetch_word (by decide +kernel)⟩

/-- A hart at HS whose supervisor software interrupt pends and is enabled takes it at M. -/
def xPending : Hart := { Hart.reset with lvl := .hs, csr := [(0x304, 2), (0x305, 0x1000), (0x344, 2)], pc := 0x80 }
def sHartInt : State := { State.reset with harts := [(0, xPending)], hold := .none, inputs := [.hart 0] }
theorem witness_StepRunsDecoded_interrupt : sHartInt.inputs = [.hart 0] ∧ sHartInt.hold = .none ∧ tget sHartInt.harts 0 = some xPending
    ∧ xPending.busy = false ∧ xPending.refused = none ∧ hartInt xPending = some (1, .m) := by decide +kernel
theorem test_interrupt : (let y := trapM xPending (2 ^ 63 + 1) 0
    y.pc = 0x1000 ∧ y.lvl = .m ∧ csrGet y 0x341 = 0x80 ∧ csrGet y 0x342 = 0x8000000000000001) := by decide +kernel

theorem witness_StepRunsDecoded_bar : ({ sUp with inputs := [.bar 0 0x20100 8] } : State).inputs = .bar 0 0x20100 8 :: [] ∧ sUp.hold = .none := ⟨rfl, rfl⟩

theorem witness_StepRunsDecoded_nb : ∃ id c ip, sNbFetch.inputs = [.nb id] ∧ tget sNbFetch.nbcmds id = some c ∧ c.at? = some ip
    ∧ decodeNb (mget sNbFetch.seqst ((2 * nwDie c.word + nwStack c.word) * 4096 + (allotment sNbFetch c.part).1 + ip)) = some (.nbDjnz 0x2A) :=
  ⟨0, _, 0, rfl, rfl, by decide +kernel, by decide +kernel⟩

/-- The turn of a core with a ready slot, at the clock of that turn. -/
theorem witness_StepRunsDecoded_turn : (let s := { sFetch with inputs := [], clock := 3 }; s.inputs = [] ∧ (s.clock + 1) % 4 = 0
    ∧ (let v := { s with clock := s.clock + 1 }; nextCore v (slotMoves v) = some 0 ∧ chosen v (slotMoves v) 0 = some (0, 0))) := by decide +kernel

theorem witness_StepRunsDecoded_event : ({ sUp with inputs := [.event .powerGood] } : State).inputs = .event .powerGood :: []
    ∧ sUp.hold = .none := ⟨rfl, rfl⟩

/-- Well-formed instructions of each kind that has words. -/
theorem witness_DecodeEncode : (Instr.sadd 3 4 3).wf = true ∧ kindOf (.sadd 3 4 3) = .harran ∧ (Instr.csetbnd 5 3 10).wf = true
    ∧ kindOf (.csetbnd 5 3 10) = .hart ∧ (Instr.nbDjnz 0x2A).wf = true ∧ kindOf (.nbDjnz 0x2A) = .nearBank := by decide +kernel

/-- A module in ERASE. -/
theorem witness_EraseIsKept : (let s := eraseAlarm sUp
    s.hold = .erase ∧ s.keys = [] ∧ s.groups = [] ∧ s.parts = [] ∧ s.aliasOf = none ∧ (∀ l ∈ s.links, l.st = .down) ∧ s.inputs = []) := by
  decide +kernel

/-! ## Steps: results worked out by hand from the rules of the spec -/

/-- What an instruction leaves in a scalar register of group 0. -/
def sAfter (s : State) (i : Instr) (d : Nat) : Option DWord := (ran i s).map (fun g => mget g.s d)
/-- What it leaves in a vector register of lanes 0 to 3. -/
def vAfter (s : State) (i : Instr) (d : Nat) : Option (List Word) :=
  (ran i s).map (fun g => (List.range 4).map (fun l => mget g.v (32 * d + l)))
/-- What it leaves in a predicate. -/
def pAfter (s : State) (i : Instr) (d : Nat) : Option Word := (ran i s).map (fun g => mget g.p d)

def scalars (l : List (Instr × DWord)) : Bool := l.all (fun x => decide (sAfter s0 x.1 3 = some x.2))
def vectors (s : State) (d : Nat) (l : List (Instr × List Word)) : Bool := l.all (fun x => decide (vAfter s x.1 d = some x.2))
def preds (s : State) (l : List (Instr × Word)) : Bool := l.all (fun x => decide (pAfter s x.1 1 = some x.2))

/-- R96: 5 and -3. -/
theorem test_scalar_arithmetic : scalars [(.sadd 3 1 2, 2), (.ssub 3 1 2, 8), (.smul 3 1 2, -15), (.smulh 3 1 2, -1),
    (.smulhu 3 1 2, 4), (.sdiv 3 1 2, -1), (.sdivu 3 1 2, 0), (.srem 3 1 2, 2), (.sremu 3 1 2, 5), (.smin 3 1 2, -3), (.smax 3 1 2, 5),
    (.sminu 3 1 2, 5), (.smaxu 3 1 2, -3), (.ssetlt 3 1 2, 0), (.ssetltu 3 1 2, 1), (.sseteq 3 1 2, 0), (.saddi 3 1 0x1FF, 4)]
    = true := by decide +kernel

/-- R96, R97, R99: bits, shifts by 61 and by 5, counts, a division by sz, constants, and lane 0 of v1. -/
theorem test_scalar_bits : scalars [(.sand 3 1 2, 5), (.sor 3 1 2, -3), (.sxor 3 1 2, -8), (.sshl 3 1 2, 0xA000000000000000), (.sshr 3 1 2, 0),
    (.sshr 3 2 1, 0x07FFFFFFFFFFFFFF), (.ssra 3 2 1, -1), (.sclz 3 1, 61), (.spopc 3 2, 63), (.sclz 3 24, 64), (.sdiv 3 1 24, -1), (.srem 3 1 24, 5),
    (.smov 3 2, -3), (.sli 3 0x8000, 0xFFFFFFFFFFFF8000), (.slane 0 3 1 24, 1), (.slane 0 3 1 1, 0)] = true := by decide +kernel

/-- R102, i32 without SAT: v1 = 1, 2, -1, -2^31 and v2 = 10, -2, 30, 1. -/
theorem test_vector_arithmetic : vectors s0 3 [(.vadd 0 3 1 2, [11, 0, 29, 0x80000001]), (.vsub 0 3 1 2, [-9, 4, -31, 0x7FFFFFFF]),
    (.vmul 0 3 1 2, [10, -4, -30, 0x80000000]), (.vmulh 0 3 1 2, [0, -1, -1, -1]), (.vmin 0 3 1 2, [1, -2, -1, 0x80000000]),
    (.vmax 0 3 1 2, [10, 2, 30, 1]), (.vabs 0 3 1, [1, 2, 1, 0x80000000]), (.vneg 0 3 1, [-1, -2, 1, 0x80000000]), (.vclz 0 3 1, [31, 30, 0, 0]),
    (.vpopc 0 3 1, [1, 1, 32, 1]), (.vaddi 3 1 0x1FF, [0, 1, -2, 0x7FFFFFFF]), (.vmov 0 3 2, [10, -2, 30, 1]), (.sbcast 3 2, [-3, -3, -3, -3])]
    && vectors s0 2 [(.vmad 0 2 1 2, [20, -6, 0, 0x80000001])] = true := by decide +kernel

/-- R103, R105, R107, R108. -/
theorem test_vector_bits : vectors s0 3 [(.vand 0 3 1 2, [0, 2, 30, 0]), (.vor 0 3 1 2, [11, -2, -1, 0x80000001]),
    (.vxor 0 3 1 2, [11, 0xFFFFFFFC, 0xFFFFFFE1, 0x80000001]), (.vnot 0 3 1, [-2, -3, 0, 0x7FFFFFFF]), (.vshl 0 3 1 2, [1024, 0x80000000, 0xC0000000, 0]),
    (.vshr 0 3 1 2, [0, 0, 3, 0x40000000]), (.vsra 0 3 1 2, [0, 0, -1, 0xC0000000]), (.vsel 0 3 1 2, [1, 2, -1, 0x80000000]), (.vshfl 0 3 1 2, [0, 0, 0, 2]),
    (.vlane 0 3 1 24, [1, 1, 1, 1]), (.vradd 0 3 1, [0x80000002, 0x80000002, 0x80000002, 0x80000002]),
    (.vrmin 0 3 1, [0x80000000, 0x80000000, 0x80000000, 0x80000000]), (.vrmax 0 3 1, [2, 2, 2, 2]), (.vscan 0 3 1, [1, 3, 2, 0x80000002])]
    = true := by decide +kernel

/-- R104: fields (pos, len) (4, 8), (1, 1), (31, 63) and (0, 0). -/
def sField : State := st b0 { g0 with v := (g0.v ++ [(96, 0x12345678), (97, 2), (98, 0x80000000), (99, 7), (128, 0x804), (129, 0x101), (130, 0x3F1F)]) }
theorem test_vector_fields : vectors sField 5 [(.vbfx 0 5 3 4, [0x67, -1, -1, 0])]
    && vectors sField 1 [(.vbfi 0 1 3 4, [0x781, 0, 0x7FFFFFFF, 0x80000000])] = true := by decide +kernel

/-- R106: predicates of a comparison, and of predicates; p0 holds lanes 0 and 2, p7 every lane. -/
theorem test_vector_predicates : preds s0 [(.vcmpeq 0 1 1 1, 0xF), (.vcmplt 0 1 1 2, 0xD), (.vcmple 0 1 2 1, 2), (.vpand 1 0 7, 5), (.vpor 1 0 0, 5),
    (.vpxor 1 0 7, 0xA), (.vpnot 1 0, 0xA)] = true := by decide +kernel

/-- R33, R102: under the guard p0, lanes 1 and 3 keep their values; VSEL gives them the other operand (R105). With SAT, VABS and VNEG of the
minimum give the maximum. -/
def sGuard : State := st b0 { g0 with a := { g0.a with mr := 0 } }
def sSat : State := st b0 { g0 with a := { g0.a with mr := 0x407 } }
theorem test_vector_guard : vectors sGuard 2 [(.vadd 0 2 1 1, [2, -2, -2, 1])] && vectors sGuard 3 [(.vsel 0 3 1 2, [1, -2, -1, 1])]
    && vectors sSat 3 [(.vabs 0 3 1, [1, 2, 1, 0x7FFFFFFF]), (.vneg 0 3 1, [-1, -2, 1, 0x7FFFFFFF]), (.vadd 0 3 1 1, [2, 4, -2, 0x80000000])]
    = true := by decide +kernel

/-- FP32: v1 = 1, -2, +∞, 0.25; v2 = 2, 0.5, -∞, NaN; v3 = 1, 1, 0, 0. -/
def gF : Group := { gT 6 with v := [(32, 0x3F800000), (33, 0xC0000000), (34, 0x7F800000), (35, 0x3E800000),
  (64, 0x40000000), (65, 0x3F000000), (66, 0xFF800000), (67, 0x7FC00001), (96, 0x3F800000), (97, 0x3F800000)] }
def sF : State := st b0 gF
/-- R111, R112. -/
theorem test_float_arithmetic : vectors sF 3 [(.fadd 0 3 1 2, [0x40400000, 0xBFC00000, 0x7FC00000, 0x7FC00000]),
    (.fsub 0 3 1 2, [0xBF800000, 0xC0200000, 0x7F800000, 0x7FC00000]), (.fmul 0 3 1 2, [0x40000000, 0xBF800000, 0xFF800000, 0x7FC00000]),
    (.fma 0 3 1 2, [0x40400000, 0, 0xFF800000, 0x7FC00000]), (.fms 0 3 1 2, [0x3F800000, 0xC0000000, 0xFF800000, 0x7FC00000]),
    (.fnma 0 3 1 2, [0xBF800000, 0x40000000, 0x7F800000, 0x7FC00000]), (.fdiv 0 3 1 2, [0x3F000000, 0xC0800000, 0x7FC00000, 0x7FC00000]),
    (.fmin 0 3 1 2, [0x3F800000, 0xC0000000, 0xFF800000, 0x3E800000]), (.fmax 0 3 1 2, [0x40000000, 0x3F000000, 0x7F800000, 0x3E800000]),
    (.fabs 0 3 2, [0x40000000, 0x3F000000, 0x7F800000, 0x7FC00001]), (.fneg 0 3 2, [0xC0000000, 0xBF000000, 0x7F800000, 0xFFC00001])] = true := by
  decide +kernel
/-- R113 to R115, with 2^0.25 = 1.1892071 (0x3F9837F0). -/
theorem test_float_functions : vectors sF 4 [(.fsqrt 0 4 1, [0x3F800000, 0x7FC00000, 0x7F800000, 0x3F000000]),
    (.frcp 0 4 1, [0x3F800000, 0xBF000000, 0, 0x40800000]), (.frsq 0 4 1, [0x3F800000, 0x7FC00000, 0, 0x40000000]),
    (.fclass 0 4 1, [0x40, 2, 0x80, 0x40]), (.frint 0 4 1, [0x3F800000, 0xC0000000, 0x7F800000, 0])]
    && preds sF [(.fcmpeq 0 1 1 1, 0xF), (.fcmplt 0 1 1 2, 3), (.fcmple 0 1 1 2, 3), (.fcmpun 0 1 1 2, 8)] = true := by decide +kernel
theorem test_float_exp_log : vectors sF 4 [(.fexp2 0 4 1, [0x40000000, 0x3E800000, 0x7F800000, 0x3F9837F0]),
    (.flog2 0 4 1, [0, 0x7FC00000, 0x7F800000, 0xC0000000])] = true := by decide +kernel

/-- The example "one sum, two ways": FRADD loses 2^-24 twice. -/
def sSum : State := st b0 { gT 6 with a := { (gT 6).a with exec := 0xFFFFFFFF }, v := [(32, 0x3F800000), (33, 0x33800000), (34, 0x33800000)] }
theorem test_fradd : vAfter sSum (.fradd 0 4 1) 4 = some [0x3F800000, 0x3F800000, 0x3F800000, 0x3F800000] := by decide +kernel

/-- The example "one rotated block" (R84, R89): slot 3 with SEED 0, block 0. -/
def sRot : State := st b0 { gT 8 with a := { (gT 8).a with exec := 0xFFFFFFFF }, v := [(65, 0x3F800000)] }
theorem test_rotate : vAfter sRot (.hadr 3 24 4 2) 4 = some [0x3E00BE00, 0xBE003E00, 0x3E00BE00, 0xBE003E00] := by decide +kernel

/-- R86: FP32 runs v2, v3 to FP16; and -2 to i32, with what NaN and ∞ give without SAT. -/
theorem test_convert : vAfter sF (.cvt 7 4 2) 4 = some [0x3C004000, 0x3C003800, 0x0000FC00, 0x00007E00]
    ∧ vAfter sF (.cvti 0 4 1) 4 = some [1, -2, 0x80000000, 0] := by decide +kernel
/-- R87, four elements per lane; R90 over the four lanes. -/
def sPack : State := st b0 { gT 5 with v := [(32, 0x44332211), (64, 0x88776655)] }
theorem test_pack : vAfter sPack (.pack 0 4 1 2) 4 = some [0x77553311, 0, 0, 0] ∧ vAfter sPack (.unpk 0 4 1 2) 4 = some [0x66225511, 0, 0, 0]
    ∧ vAfter s0 (.amax 0 4 1 2) 4 = some [0x80000000, 0x80000000, 0x80000000, 0x80000000] := by decide +kernel

/-- Where slot A stands after an instruction, in bytes from where it stood. -/
def pcAfter (s : State) (i : Instr) : Option DWord := (ran i s).map (fun g => g.a.pc - stagePc)

/-- R153 to R155, R158: targets count words from the branch; p0 holds lanes 0 and 2 of the four active ones. -/
theorem test_branches : [(Instr.nop, (4 : DWord)), (.bra 5, 20), (.bra 0x7FFFFF, -4), (.bany 0 0 3, 12), (.ball 0 0 3, 4), (.bany 1 0 3, 12),
    (.bany 1 7 3, 4), (.ball 0 7 3, 12), (.call 2, 8)].all (fun x => decide (pcAfter s0 x.1 = some x.2)) = true := by decide +kernel
/-- R158: CALL writes the address of the next word to v30 and v31 of the active lanes. -/
theorem test_call : vAfter s0 (.call 2) 30 = some (List.replicate 4 ((stagePc + 4).setWidth 32)) ∧
    vAfter s0 (.call 2) 31 = some (List.replicate 4 ((stagePc >>> 32).setWidth 32)) := by decide +kernel
/-- R156: the lanes of p0 go on in slot B at the target; one waiting entry holds all four. -/
def sDiv : State := st b0 { g0 with a := { g0.a with jp := true, jpc := stagePc + 64 } }
theorem test_diverge : (ran (.bc 0 0 4) sDiv).any (fun g => decide (g.a.exec = 0xA) && decide (g.a.pc = stagePc + 4) && !g.a.jp && decide (g.b.exec = 5)
    && decide (g.b.pc = stagePc + 16) && decide (g.stack.map (fun (e : SEntry) => e.mask) = [0xF])) = true := by decide +kernel
/-- R30, R35: MODE, and the two halves of a literal. -/
theorem test_mode_lit : (ran (.mode 1 2 8 0 3) s0).map (fun g => g.a.mr) = some 0x683
    ∧ (ran (.lit 0x7F) s0).map (fun g => (g.a.lat, g.a.lc)) = some (0x7F, 1) := by decide +kernel

/-- What a load leaves in a vector register when it returns, and the word in memory when a store is performed. -/
def loaded (s : State) (i : Instr) (d : Nat) : Option (List Word) :=
  (nextOf (exec i s)).bind (fun t => (nextOf (execLoadReturn 0 t)).bind (fun t => (tget t.groups 0).map (fun g =>
    (List.range 4).map (fun l => mget g.v (32 * d + l)))))
def stored (s : State) (i : Instr) : Option Nat :=
  (nextOf (exec i s)).bind (fun t => (nextOf (execStorePerformed 0 t)).map (fun t => readT t (.hbm 0 0x50000) 8))
/-- R174, R176: at 0x50000 stand 00 FF EE DD CC BB AA 99 and 88 …; lanes 1 and 2 are 16 and 32 bytes on, lane 3 where lane 0 is. -/
theorem test_loads : loaded (sm_ gm) (.vld32 0 12 4 6) 12 = some [0xDDEEFF00, 0, 0, 0xDDEEFF00]
    ∧ loaded (sm_ gm) (.vld8 0 12 6 6) 12 = some [0x88, 0, 0, 0x88] ∧ loaded (sm_ gm) (.vld16 0 12 6 6) 12 = some [0x7788, 0, 0, 0x7788]
    ∧ loaded (sm_ gm) (.vld64 0 12 4 6) 13 = some [0x99AABBCC, 0, 0, 0x99AABBCC] := by decide +kernel
/-- R174: lanes 0 and 3 store to one address, and lane 3, whose v1 is 0x80000000, stands. -/
def gSt : Group := { gm with v := g0.v ++ [(32 * 6 + 1, 16), (32 * 6 + 2, 32)] }
theorem test_stores : stored (sm_ gSt) (.vst32 0 1 4 6) = some 0x99AABBCC80000000 ∧ stored (sm_ gSt) (.vst8 0 1 4 6) = some 0x99AABBCCDDEEFF00
    ∧ stored (sm_ gm) (.sst 0 6 4) = some (va509 0 0x50008).toNat := by decide +kernel
/-- R200: the lanes of an atomic to one word; lane 0 adds 11, the others 0. -/
theorem test_atomic : (nextOf (exec (.amoadd 0 8 4 6) (sm_ (gQ 0)))).map (fun t => readT t (.hbm 0 0x50000) 4) = some 0xDDEEFF0B
    ∧ (nextOf (exec (.amomaxu 0 8 4 6) (sm_ (gQ 0)))).map (fun t => readT t (.hbm 0 0x50000) 4) = some 0xDDEEFF00
    ∧ (nextOf (exec (.amoand 0 8 4 6) (sm_ (gQ 0)))).map (fun t => readT t (.hbm 0 0x50000) 4) = some 0 := by decide +kernel

/-- The rows of "decoding non-instructions": a reserved opcode; SLI with a literal and imm16 ≠ 0; an odd pair; PUNMAP at user level. -/
def stepped (w : Nat) (f : Group → Group) : Option Group :=
  let s := stageSlot State.reset (BitVec.ofNat 32 w)
  (nextOf (step { s with ctxs := s.ctxs.map (fun x => (x.1, { x.2 with frame := spadAddr 0 0 })), groups := s.groups.map (fun x => (x.1, { f x.2 with hlev := 0 })) })).bind (fun t => tget t.groups 0)
theorem test_emulation : (stepped 0x0D800000 id).map (fun g => [g.tcause, g.emuword, g.emuop, g.emud, g.emua, g.emub, g.emuimm, g.a.pc])
      = some [1, 0x0D800000, 0x1B, 0, 0, 0, 0, va509 0 0x28000]
    ∧ (stepped 0x20860005 id).map (fun g => (mget g.s 6, g.a.pc)) = some (5, stagePc + 4)
    ∧ (stepped 0x20860005 (fun g => { g with a := { g.a with lc := 1 } })).map (fun g => (g.tcause, g.emuop)) = some (1, 0xA241) := by decide +kernel
theorem test_emulation_pair : (stepped (0x40800000 + 25 * 2 ^ 14) (fun g => { g with a := { g.a with mr := 0xB7 } })).map (fun g => (g.tcause, g.emuop))
      = some (1, 0x281) ∧ (stepped 0xE6800000 id).map (fun g => (g.tcause, g.hlev, g.tpc, g.tmask)) = some (19, 2, stagePc, 0xFFFFFFFF) := by
  decide +kernel

/-- The example "a bounded buffer for a compartment" (R433, R435): CSETOFF, CSETBND, CANDPERM, CINCOFF. -/
def aBuf : DWord := 0xFE80000090000000
def sBuf (k1 : BitVec 129) : State := sHart (hx [(1, k1)] [(13, aBuf), (10, 0x2000), (11, 3), (12, 0x4000), (14, 0x3FFF)] .vs 0)
def kAfter (k1 : BitVec 129) (i : Instr) : Option (BitVec 129) :=
  (nextOf (exec i (sBuf k1))).bind (fun t => (tget t.harts 2).map (fun x => mget x.k 2))
theorem test_capabilities : kAfter (capAll 0 0x3FF 0) (.csetoff 13 1 2) = some (capAll aBuf.toNat 0x3FF 0)
    ∧ kAfter (capAll aBuf.toNat 0x3FF 0) (.csetbnd 10 1 2) = some (mkCap true aBuf.toNat 0 0 0x1FFF 0x3FF 0)
    ∧ kAfter (mkCap true aBuf.toNat 0 0 0x1FFF 0x3FF 0) (.candperm 11 1 2) = some (0x1000007FFC000C000FE80000090000000)
    ∧ (kAfter (mkCap true aBuf.toNat 0 0 0x1FFF 3 0) (.cincoff 12 1 2)).map (fun k => (k.getLsbD 128, k.setWidth 64)) = some (false, aBuf + 0x4000)
    ∧ (kAfter (mkCap true aBuf.toNat 0 0 0x1FFF 3 0) (.cincoff 14 1 2)).map (fun k => k.getLsbD 128) = some true := by decide +kernel

/-- R459: 100 W under a limit of 2,400 W and nothing warm raise every die by one step; 2,500 W lower it, to 4/16 at least. -/
theorem test_power : (nextOf (execPowerComparison 100 0 { sUp with steps := 0x99994 })).map (fun t => (t.steps, t.noww)) = some (0x9AAA5, 100)
    ∧ (nextOf (execPowerComparison 2500 0 { sUp with steps := 0x93994 })).map (fun t => t.steps) = some 0x93883 := by decide +kernel

end Sys2Proof.Tests
end

section
/-! PROOFS. Lane arithmetic: the bits, shifts and fields of class 2 (R102 to R105), the compares and predicate operations
(R106), and the one-operand functions and compares of class 3 (R113, R114). -/

namespace Sys2Proof.Machine

/-! ## Accepted types -/

theorem contains_of_mem {ets : List ET} {et : ET} (h : et ∈ ets) : ets.contains et = true :=
  List.contains_iff_mem.2 h

/-- The set X of R100 leaves out no type. -/
theorem setX_contains (et : ET) : setX.contains et = true := by cases et <;> rfl

/-- No type of set F is the accumulator cell, so a literal may stand for operand b under all of them (R36). -/
theorem setF_without_a96 : setF.contains .a96 = false := rfl

/-- The literal condition of the forms over set A, of which no type is the accumulator cell (R36). -/
theorem litOk_setA {g : Group} {side : Nat} {b : BitVec 7} {et : ET} (hl : LitPending g side → b = 0) :
    LitPending g side → b = 0 ∧ (setA.contains .a96 = true → et ≠ .a96) :=
  fun hp => ⟨hl hp, fun h96 => absurd h96 (by decide)⟩

/-- The literal condition of the forms over set X: no literal stands for a quad (R36). -/
theorem litOk_setX {g : Group} {side : Nat} {b : BitVec 7} {et : ET} (hl : LitPending g side → b = 0 ∧ et ≠ .a96) :
    LitPending g side → b = 0 ∧ (setX.contains .a96 = true → et ≠ .a96) :=
  fun hp => ⟨(hl hp).1, fun _ => (hl hp).2⟩

theorem etRegs_of_float {et : ET} (h : et ∈ setF) : etRegs et = 1 := by
  simp only [setF, List.mem_cons, List.not_mem_nil, or_false] at h
  rcases h with rfl | rfl | rfl <;> rfl

/-- Under a float type an element's value is what its encoding decodes to (R109). -/
theorem elemV_of_float {et : ET} (h : et ∈ setF) (k x : Nat) :
    elemV et k x = fDecode (fmtOf et) (elemU (etBits et) k x) := by
  simp only [setF, List.mem_cons, List.not_mem_nil, or_false] at h
  rcases h with rfl | rfl | rfl <;> rfl

/-- The types of the field instructions have one element in an operand (R104). -/
theorem etCount_of_field {et : ET} (h : et ∈ setW) : etCount et = 1 := by
  simp only [setW, List.mem_cons, List.not_mem_nil, or_false] at h
  rcases h with rfl | rfl | rfl <;> rfl

/-! ## Bit fields (R104) -/

@[simp] theorem elemU_zero (w x : Nat) : elemU w 0 x = x % 2 ^ w := by simp [elemU]

/-- VBFX in the terms of R104: the field, sign-extended under a signed type. -/
theorem elemU_bfExtract {et : ET} (het : et ∈ setW) (x b k : Nat) (hk : k < etCount et) :
    elemU (etBits et) k (bfExtract et x b) = ((if bfLen (etBits et) b = 0 then 0
      else if etSigned et then signedOf (bfLen (etBits et) b) (x / 2 ^ (b % 64))
      else ((x / 2 ^ (b % 64) % 2 ^ bfLen (etBits et) b : Nat) : Int)) % 2 ^ etBits et).toNat := by
  obtain rfl : k = 0 := by rw [etCount_of_field het] at hk; omega
  rw [elemU_zero, bfExtract]
  by_cases hempty : bfLen (etBits et) b = 0
  · rw [if_pos hempty, if_pos hempty, Nat.zero_mod, Int.zero_emod, Int.toNat_zero]
  · rw [if_neg hempty, if_neg hempty]
    by_cases hsigned : etSigned et = true
    · rw [if_pos hsigned, if_pos hsigned, Nat.mod_eq_of_lt (wrapTo_lt _ _), wrapTo_eq]
    · rw [if_neg hsigned, if_neg hsigned]
      norm_cast

/-- VBFI in the terms of R104: the field's bits from a, the others from the old d. -/
theorem bfInsert_eq (et : ET) (d a b : Nat) :
    bfInsert et d a b = (d &&& (2 ^ etBits et - 1 - (2 ^ bfLen (etBits et) b - 1) * 2 ^ (b % 64)))
      ||| ((a * 2 ^ (b % 64)) &&& ((2 ^ bfLen (etBits et) b - 1) * 2 ^ (b % 64))) := by
  simp only [bfInsert, Nat.shiftLeft_eq]

/-- A field instruction, whose operand b is a single register whatever the type, writes what `F` gives of the type, the
operands and the old d (R29, R104). -/
theorem field_lanes {s : State} {gid side : Nat} {g : Group} {i : Instr} {w : Word} {d a b : BitVec 7} {et : ET}
    {F : ET → Nat → Nat → Nat → Nat} (op : Nat) (hty : typeOf g side = some et)
    (h : Ready s gid side g [] [] [(d.toNat, etRegs et), (a.toNat, etRegs et), (b.toNat, 1)])
    (he : exec i s = issueWord w
      (Form.mk0 [opV d.toNat, opV a.toNat, opV1 b.toNat] (some setW) (.replaces (b = 0)) false)
      (fun is => is.putLanes d.toNat is.n (fun l =>
        F is.et (vregs is.g d.toNat l is.n) (vregs is.g a.toNat l is.n) (is.vb b.toNat 1 l))) s)
    (hop : w.toNat / 2 ^ 23 = op) (hcap : capsOfOp op = []) (hsup : supOp op = false)
    (het : et ∈ setW) (hl : LitPending g side → b = 0) :
    SetsLanes s i gid side g (activeOf g side) d.toNat (etRegs et) (fun l =>
      F et (vregs g d.toNat l (etRegs et)) (vregs g a.toNat l (etRegs et)) (vectorB g side b.toNat 1 l)) := by
  refine un_lanes _ op hty h he hop hcap hsup (contains_of_mem het) ?_ (fun hp => by simp [LitUse.takes, hl hp]) ?_
  · intro o ho
    simp only [List.mem_cons, List.not_mem_nil, or_false] at ho
    rcases ho with rfl | rfl | rfl <;> simp [Operand.Named, opV, opV1, spanRegs]
  · simp only [issueOf_n hty, issueOf_et hty, issueOf_vb]
    rfl

/-! ## Moves and selection (R102, R105) -/

theorem vmov_lanes {s : State} {gid side : Nat} {g : Group} {et : ET} {h : BitVec 2} {d b : BitVec 7}
    (hty : typeOf g side = some et) (hr : Ready s gid side g [] [] [(d.toNat, etRegs et), (b.toNat, etRegs et)])
    (hl : LitPending g side → b = 0 ∧ et ≠ .a96) :
    SetsLanes s (.vmov h d b) gid side g (activeOf g side) d.toNat (etRegs et)
      (vectorB g side b.toNat (etRegs et)) := by
  refine vb_lanes _ 128 hty hr (exec_vmov h d b s) (op_vmov h d b) rfl rfl (setX_contains et) ?_
    (litOk_setX hl) ?_
  · intro o ho
    simp only [List.mem_cons, List.not_mem_nil, or_false] at ho
    rcases ho with rfl | rfl <;> simp [Operand.Named, opV, spanRegs]
  · simp only [issueOf_n hty, issueOf_vb]
    rfl

/-- VSEL writes every lane of EXEC, not only those that pass the guard (R105). -/
theorem vsel_lanes {s : State} {gid side : Nat} {g : Group} {et : ET} {h : BitVec 2} {d a b : BitVec 7}
    (hty : typeOf g side = some et)
    (hr : Ready s gid side g [] [] [(d.toNat, etRegs et), (a.toNat, etRegs et), (b.toNat, etRegs et)])
    (hl : LitPending g side → b = 0 ∧ et ≠ .a96) :
    SetsLanes s (.vsel h d a b) gid side g (slotOf g side).exec d.toNat (etRegs et) (fun l =>
      if (guardMask g (slotOf g side).mr).getLsbD l then vregs g a.toNat l (etRegs et)
      else vectorB g side b.toNat (etRegs et) l) := by
  refine vb_lanes _ 149 hty hr (exec_vsel h d a b s) (op_vsel h d a b) rfl rfl (setX_contains et) ?_
    (litOk_setX hl) ?_
  · intro o ho
    simp only [List.mem_cons, List.not_mem_nil, or_false] at ho
    rcases ho with rfl | rfl | rfl <;> simp [Operand.Named, opV, spanRegs]
  · simp only [issueOf_n hty, issueOf_vb, issueOf_g, issueOf_sl]

/-! ## Shifts (R103) -/

section Shifts
variable {s : State} {gid side : Nat} {g : Group} {et : ET} {h : BitVec 2} {d a b : BitVec 7}

theorem vshl_elems (hty : typeOf g side = some et)
    (hr : Ready s gid side g [] [] [(d.toNat, etRegs et), (a.toNat, etRegs et), (b.toNat, etRegs et)])
    (het : et ∈ setA) (hl : LitPending g side → b = 0) :
    SetsElems s (.vshl h d a b) gid side g et d.toNat (fun l k => satTo g side et
      (elemI et k (vregs g a.toNat l (etRegs et))
        * 2 ^ (elemU (etBits et) k (vectorB g side b.toNat (etRegs et) l) % etBits et))) := by
  refine elems_of (vecBin_lanes 142 hty hr (exec_vshl h d a b s) (op_vshl h d a b) rfl rfl (contains_of_mem het)
    (litOk_setA hl)) (fun l k hk => ?_)
  rw [elem_pack_fit _ _ _ _ _ hk]
  norm_cast

theorem vshr_elems (hty : typeOf g side = some et)
    (hr : Ready s gid side g [] [] [(d.toNat, etRegs et), (a.toNat, etRegs et), (b.toNat, etRegs et)])
    (het : et ∈ setA) (hl : LitPending g side → b = 0) :
    SetsElems s (.vshr h d a b) gid side g et d.toNat (fun l k =>
      (elemU (etBits et) k (vregs g a.toNat l (etRegs et))
        / 2 ^ (elemU (etBits et) k (vectorB g side b.toNat (etRegs et) l) % etBits et) : Nat)) :=
  elems_of (vecBin_lanes 143 hty hr (exec_vshr h d a b s) (op_vshr h d a b) rfl rfl (contains_of_mem het)
    (litOk_setA hl)) (fun _ _ hk => elem_pack_nat _ _ _ hk)

/-- VSRA shifts the two's complement element under unsigned types too (R103, log 119). -/
theorem vsra_elems (hty : typeOf g side = some et)
    (hr : Ready s gid side g [] [] [(d.toNat, etRegs et), (a.toNat, etRegs et), (b.toNat, etRegs et)])
    (het : et ∈ setA) (hl : LitPending g side → b = 0) :
    SetsElems s (.vsra h d a b) gid side g et d.toNat (fun l k =>
      signedOf (etBits et) (elemU (etBits et) k (vregs g a.toNat l (etRegs et)))
        / 2 ^ (elemU (etBits et) k (vectorB g side b.toNat (etRegs et) l) % etBits et)) := by
  refine elems_of (vecBin_lanes 144 hty hr (exec_vsra h d a b s) (op_vsra h d a b) rfl rfl (contains_of_mem het)
    (litOk_setA hl)) (fun l k hk => ?_)
  rw [elem_pack_wrap _ _ _ hk]
  norm_cast

end Shifts

/-! ## Predicates (R106, R113) -/

theorem vpnot_pred {s : State} {gid side : Nat} {g : Group} {d a : BitVec 7}
    (hr : Ready s gid side g [d.toNat, a.toNat] [] []) (hl : ¬LitPending g side) :
    SetsPred s (.vpnot d a) gid side g (activeOf g side) d.toNat (~~~preg g a.toNat) := by
  refine one_form_pred 156 hr (exec_vpnot d a s) (op_vpnot d a) rfl rfl rfl rfl rfl ?_ rfl
    (fun hp => absurd hp hl) rfl rfl (by simp [Form.mk0]) rfl
  intro o ho
  simp only [Form.mk0, List.mem_cons, List.not_mem_nil, or_false] at ho
  rcases ho with rfl | rfl <;> simp [Operand.Named, opP]

/-- The mask of a compare has a lane's bit when the relation holds for every element of the lane. -/
theorem maskOf_all_iff (n : Nat) (r : Nat → Nat → Bool) (l : Nat) (hl : l < 32) :
    (maskOf (fun l => (List.range n).all (r l))).getLsbD l = true ↔ ∀ k, k < n → r l k = true := by
  rw [maskOf_bit _ l hl]
  simp

/-- An integer compare sets the bits of the lanes where its relation holds for every element (R106). -/
theorem vecCmp_bits {s : State} {gid side : Nat} {g : Group} {i : Instr} {w : Word} {d a b : BitVec 7} {et : ET}
    {r : Int → Int → Prop} [DecidableRel r] (op : Nat) (hty : typeOf g side = some et)
    (h : Ready s gid side g [d.toNat] [] [(a.toNat, etRegs et), (b.toNat, etRegs et)])
    (he : exec i s = vecCmp w d a b (fun x y => decide (r x y)) s)
    (hop : w.toNat / 2 ^ 23 = op) (hcap : capsOfOp op = []) (hsup : supOp op = false)
    (het : et ∈ setA) (hl : LitPending g side → b = 0) :
    ∃ m, SetsPred s i gid side g (activeOf g side) d.toNat m
      ∧ ∀ l, l < 32 → (m.getLsbD l = true ↔ ∀ k, k < etCount et →
        r (elemI et k (vregs g a.toNat l (etRegs et))) (elemI et k (vectorB g side b.toNat (etRegs et) l))) := by
  refine ⟨_, vecCmp_pred op hty h he hop hcap hsup (contains_of_mem het) hl, fun l hlt => ?_⟩
  rw [maskOf_all_iff _ _ l hlt]
  simp only [decide_eq_true_eq]

/-- A float compare sets the bits of the lanes where its relation holds for every element (R113). -/
theorem floatCmp_bits {s : State} {gid side : Nat} {g : Group} {i : Instr} {w : Word} {d a b : BitVec 7} {et : ET}
    {r : FVal → FVal → Bool} (op : Nat) (hty : typeOf g side = some et)
    (h : Ready s gid side g [d.toNat] [] [(a.toNat, 1), (b.toNat, 1)])
    (he : exec i s = floatCmp w d a b r s)
    (hop : w.toNat / 2 ^ 23 = op) (hcap : capsOfOp op = []) (hsup : supOp op = false)
    (het : et ∈ setF) (hl : LitPending g side → b = 0) :
    ∃ m, SetsPred s i gid side g (activeOf g side) d.toNat m
      ∧ ∀ l, l < 32 → (m.getLsbD l = true ↔ ∀ k, k < etCount et →
        r (fDecode (fmtOf et) (elemU (etBits et) k (vregs g a.toNat l 1)))
          (fDecode (fmtOf et) (elemU (etBits et) k (vectorB g side b.toNat 1 l))) = true) := by
  have hn : etRegs et = 1 := etRegs_of_float het
  refine ⟨maskOf (fun l => (List.range (etCount et)).all (fun k =>
    r (fDecode (fmtOf et) (elemU (etBits et) k (vregs g a.toNat l 1)))
      (fDecode (fmtOf et) (elemU (etBits et) k (vectorB g side b.toNat 1 l))))),
    one_form_pred op h he hop hcap hsup rfl rfl ?_ ?_ ?_ ?_ rfl rfl (by simp [formVb, Form.mk0]) ?_,
    maskOf_all_iff _ _⟩
  · rw [issueOf_et hty]; exact contains_of_mem het
  · rw [issueOf_et hty]
    intro o ho
    simp only [formVb, Form.mk0, List.mem_cons, List.not_mem_nil, or_false] at ho
    rcases ho with rfl | rfl | rfl <;> simp [Operand.Named, opV, opP, spanRegs, hn]
  · simp only [formVb, setF_without_a96, Bool.and_false]
  · intro hp; simp [formVb, Form.mk0, LitUse.takes, hl hp]
  · simp only [issueOf_n hty, issueOf_et hty, issueOf_vb, hn, elemV_of_float het]
    rfl

theorem fIsNaN_eq (x : FVal) : fIsNaN x = (x == .nan) := by cases x <;> rfl

/-! ## One-operand float functions (R113, R114) -/

/-- A one-operand function of class 3 writes what `fFun1` gives of each element, under the slot's rounding mode and SAT. -/
theorem floatFun_elems {s : State} {gid side : Nat} {g : Group} {i : Instr} {w : Word} {d a : BitVec 7} {et : ET}
    {fn : Fun1} (op : Nat) (hty : typeOf g side = some et)
    (h : Ready s gid side g [] [] [(d.toNat, 1), (a.toNat, 1)])
    (he : exec i s = floatUn w d a (fun is f x => fFun1 fn f is.rm is.sat x) s)
    (hop : w.toNat / 2 ^ 23 = op) (hcap : capsOfOp op = []) (hsup : supOp op = false)
    (het : et ∈ setF) (hl : ¬LitPending g side) :
    SetsElems s i gid side g et d.toNat (fun l k =>
      fFun1 fn (fmtOf et) (mrRM (slotOf g side).mr) (mrSAT (slotOf g side).mr)
        (elemU (etBits et) k (vregs g a.toNat l 1))) := by
  have hn : etRegs et = 1 := etRegs_of_float het
  refine elems_of (un_lanes (f := fun l => mapF2 et (fun ff x _ =>
      fFun1 fn ff (mrRM (slotOf g side).mr) (mrSAT (slotOf g side).mr) x) (vregs g a.toNat l 1) 0)
    _ op hty h he hop hcap hsup (contains_of_mem het) ?_ (fun hp => absurd hp hl) ?_)
    (fun _ _ hk => elem_pack_nat _ _ _ hk)
  · intro o ho
    simp only [List.mem_cons, List.not_mem_nil, or_false] at ho
    rcases ho with rfl | rfl <;> simp [Operand.Named, opV, spanRegs, hn]
  · simp only [issueOf_n hty, issueOf_et hty, hn]
    rfl

end Sys2Proof.Machine

open Sys2Proof Sys2Proof.Machine

/-- Settles O5: each instruction is one of the vector forms, whose writes the form's lemma gives; the shifts and fields
are then read element by element. -/
theorem vectorBits : Obligations.VectorBits := by
  unfold Obligations.VectorBits
  intro s gid side g et h d a b hty
  refine ⟨fun hl hr => vmov_lanes hty hr hl, fun hl hr => ?_, fun hl hr => ?_, fun het hl hr => ?_⟩
  · exact vecUn_lanes 141 hty hr (exec_vnot h d a s) (op_vnot h d a) rfl rfl (setX_contains et) hl
  · have hb : LitPending g side → b = 0 := fun hp => (hl hp).1
    refine ⟨?_, ?_, ?_, vsel_lanes hty hr hl,
      fun het => ⟨vshl_elems hty hr het hb, vshr_elems hty hr het hb, vsra_elems hty hr het hb⟩⟩
    · exact vecBin_lanes 138 hty hr (exec_vand h d a b s) (op_vand h d a b) rfl rfl (setX_contains et) (litOk_setX hl)
    · exact vecBin_lanes 139 hty hr (exec_vor h d a b s) (op_vor h d a b) rfl rfl (setX_contains et) (litOk_setX hl)
    · exact vecBin_lanes 140 hty hr (exec_vxor h d a b s) (op_vxor h d a b) rfl rfl (setX_contains et) (litOk_setX hl)
  · refine ⟨elems_of (field_lanes (F := fun t _ x y => bfExtract t x y) 147 hty hr (exec_vbfx h d a b s)
      (op_vbfx h d a b) rfl rfl het hl) (fun l k hk => elemU_bfExtract het _ _ k hk), ?_⟩
    have hins := field_lanes (F := bfInsert) 148 hty hr (exec_vbfi h d a b s) (op_vbfi h d a b) rfl rfl het hl
    simp only [bfInsert_eq] at hins
    exact hins

/-- Settles O6: the three compares are one form with three relations, the predicate operations one form with three
functions. -/
theorem vectorPredicates : Obligations.VectorPredicates := by
  unfold Obligations.VectorPredicates
  intro s gid side g h d a b
  refine ⟨fun et hty het hl hr i r hi => ?_, fun hl hr => ⟨?_, ?_, ?_⟩, fun hl hr => vpnot_pred hr hl⟩
  · rcases hi with ⟨rfl, rfl⟩ | ⟨rfl, rfl⟩ | ⟨rfl, rfl⟩
    · exact vecCmp_bits 150 hty hr (exec_vcmpeq h d a b s) (op_vcmpeq h d a b) rfl rfl het hl
    · exact vecCmp_bits 151 hty hr (exec_vcmplt h d a b s) (op_vcmplt h d a b) rfl rfl het hl
    · exact vecCmp_bits 152 hty hr (exec_vcmple h d a b s) (op_vcmple h d a b) rfl rfl het hl
  · exact predBin_pred 153 hr (exec_vpand d a b s) (op_vpand d a b) rfl rfl hl
  · exact predBin_pred 154 hr (exec_vpor d a b s) (op_vpor d a b) rfl rfl hl
  · exact predBin_pred 155 hr (exec_vpxor d a b s) (op_vpxor d a b) rfl rfl hl

/-- Settles O9: the eight functions are one form with eight values of `Fun1`, the four compares one form with four
relations. -/
theorem floatFunctionsAndCompares : Obligations.FloatFunctionsAndCompares := by
  unfold Obligations.FloatFunctionsAndCompares
  intro s gid side g et h d a b hty het
  refine ⟨fun hl hr i fn hi => ?_, fun hl hr i r hi => ?_⟩
  · simp only [List.mem_cons, List.not_mem_nil, or_false, Prod.mk.injEq] at hi
    rcases hi with ⟨rfl, rfl⟩ | ⟨rfl, rfl⟩ | ⟨rfl, rfl⟩ | ⟨rfl, rfl⟩ | ⟨rfl, rfl⟩ | ⟨rfl, rfl⟩ | ⟨rfl, rfl⟩
      | ⟨rfl, rfl⟩
    · exact floatFun_elems 207 hty hr (exec_fsqrt h d a s) (op_fsqrt h d a) rfl rfl het hl
    · exact floatFun_elems 208 hty hr (exec_frcp h d a s) (op_frcp h d a) rfl rfl het hl
    · exact floatFun_elems 209 hty hr (exec_frsq h d a s) (op_frsq h d a) rfl rfl het hl
    · exact floatFun_elems 210 hty hr (exec_fexp2 h d a s) (op_fexp2 h d a) rfl rfl het hl
    · exact floatFun_elems 211 hty hr (exec_flog2 h d a s) (op_flog2 h d a) rfl rfl het hl
    · exact floatFun_elems 212 hty hr (exec_fsin h d a s) (op_fsin h d a) rfl rfl het hl
    · exact floatFun_elems 213 hty hr (exec_fcos h d a s) (op_fcos h d a) rfl rfl het hl
    · exact floatFun_elems 214 hty hr (exec_ftanh h d a s) (op_ftanh h d a) rfl rfl het hl
  · rcases hi with ⟨rfl, rfl⟩ | ⟨rfl, rfl⟩ | ⟨rfl, rfl⟩ | ⟨rfl, rfl⟩
    · exact floatCmp_bits 202 hty hr (exec_fcmpeq h d a b s) (op_fcmpeq h d a b) rfl rfl het hl
    · exact floatCmp_bits 203 hty hr (exec_fcmplt h d a b s) (op_fcmplt h d a b) rfl rfl het hl
    · exact floatCmp_bits 204 hty hr (exec_fcmple h d a b s) (op_fcmple h d a b) rfl rfl het hl
    · have he : exec (.fcmpun h d a b) s
          = floatCmp (encode (.fcmpun h d a b)) d a b (fun x y => x == .nan || y == .nan) s := by
        simp only [exec_fcmpun, execFcmpun, fIsNaN_eq]
      exact floatCmp_bits 205 hty hr he (op_fcmpun h d a b) rfl rfl het hl
end

section
/-! PROOFS. The whole-slot control instructions of class 0 (R144, R152 to R155, R158, R160). -/

namespace Sys2Proof.Machine

/-! ## What the effects leave of the group -/

theorem finish_go {s : State} {gid side : Nat} {g : Group} {w : Word} (sl : Slot) :
    finish (issueOf s gid side g w) ((issueOf s gid side g w).go sl) = setGroup s gid (setSlot g side sl) := rfl

/-- An effect that puts its group back unchanged only moves the slot past its word. -/
theorem finish_put_self {s : State} {gid side : Nat} {g : Group} {w : Word} :
    finish (issueOf s gid side g w) ((issueOf s gid side g w).put g)
      = setGroup s gid (setSlot g side (slotAt (slotOf g side) ((slotOf g side).pc + 4))) :=
  finish_put_eq g

theorem pair_of_vregs (g : Group) (r l : Nat) :
    BitVec.ofNat 64 (vregs g r l 2) = vreg g (r + 1) l ++ vreg g r l := by
  apply BitVec.eq_of_toNat_eq
  have hhi := (vreg g (r + 1) l).isLt
  have hlo := (vreg g r l).isLt
  rw [BitVec.toNat_ofNat, toNat_app, vregs, vregs, vregs, Nat.mod_eq_of_lt (by omega)]
  omega

/-! ## A mode register put together from its fields (R30) -/

section ModeFields
variable (t : BitVec 1) (r : BitVec 2) (e : BitVec 4) (gs : BitVec 1) (p : BitVec 3)

theorem toNat_mode : (t ++ r ++ e ++ gs ++ p).toNat
    = (((t.toNat * 2 ^ 2 + r.toNat) * 2 ^ 4 + e.toNat) * 2 ^ 1 + gs.toNat) * 2 ^ 3 + p.toNat := by
  simp only [toNat_app]

theorem mrGP_mode : mrGP (t ++ r ++ e ++ gs ++ p) = p.toNat := by
  have hp := p.isLt
  rw [mrGP, toNat_mode]
  omega

theorem mrGS_mode : mrGS (t ++ r ++ e ++ gs ++ p) = decide (gs = 1) := by
  have hp := p.isLt
  have hgs := gs.isLt
  have hone : (1 : BitVec 1).toNat = 1 := rfl
  rw [mrGS, ← BitVec.testBit_toNat, toNat_mode, Nat.testBit_eq_decide_div_mod_eq, decide_eq_decide,
    ← BitVec.toNat_inj, hone]
  omega

theorem mrET_mode : mrET (t ++ r ++ e ++ gs ++ p) = e.toNat := by
  have hp := p.isLt
  have hgs := gs.isLt
  have he := e.isLt
  rw [mrET, toNat_mode]
  omega

theorem mrValid_mode (he : e ≠ 15) (hp : ¬(p = 7 ∧ gs = 1)) : mrValid (t ++ r ++ e ++ gs ++ p) = true := by
  have het : e.toNat ≠ 15 := fun h => he (BitVec.eq_of_toNat_eq h)
  have hgp : ¬(p.toNat = 7 ∧ gs = 1) := fun ⟨h7, h1⟩ => hp ⟨BitVec.eq_of_toNat_eq h7, h1⟩
  have hguard : (decide (p.toNat = 7) && decide (gs = 1)) = false := by
    rw [← Bool.decide_and]
    exact decide_eq_false hgp
  rw [mrValid, mrET_mode, mrGP_mode, mrGS_mode, hguard, decide_eq_true het]
  rfl

end ModeFields

/-! ## The forms of these words -/

/-- A word of format J without operands, whose own check passes, leaves its group as its effect says. -/
theorem becomes_formJ {s : State} {gid side : Nat} {g g' : Group} {i : Instr} {w : Word} {bad : Issue → Bool}
    {eff : Issue → Eff} (op : Nat) (h : Ready s gid side g [] [] [])
    (he : exec i s = issueWord w { formJ with bad := bad } eff s)
    (hop : w.toNat / 2 ^ 23 = op) (hcap : capsOfOp op = []) (hsup : supOp op = false)
    (hbad : bad (issueOf s gid side g w) = false)
    (hv : finish (issueOf s gid side g w) (eff (issueOf s gid side g w)) = setGroup s gid g') :
    Becomes s i gid g' :=
  becomes_of op h he hop (by rw [hcap]; rfl) (fun _ => ⟨hsup, rfl⟩) rfl rfl (by simp [formJ, Form.mk0]) hbad
    (fun _ => rfl) rfl (by simp [formJ, Form.mk0]) (by simp [formJ, Form.mk0]) hv

/-- A word of format J that touches the link registers v30 and v31 leaves its group as its effect says. -/
theorem becomes_formLink {s : State} {gid side : Nat} {g g' : Group} {i : Instr} {w : Word}
    {eff : Issue → Eff} (op : Nat) (h : Ready s gid side g [] [] [(30, 1), (31, 1)])
    (he : exec i s = issueWord w { formJ with touch := fun _ => [30, 31] } eff s)
    (hop : w.toNat / 2 ^ 23 = op) (hcap : capsOfOp op = []) (hsup : supOp op = false)
    (hv : finish (issueOf s gid side g w) (eff (issueOf s gid side g w)) = setGroup s gid g') :
    Becomes s i gid g' :=
  becomes_of op h he hop (by rw [hcap]; rfl) (fun _ => ⟨hsup, rfl⟩) rfl rfl (by simp [formJ, Form.mk0]) rfl
    (fun _ => rfl) rfl (fun _ hr => hr) (by simp [formJ, Form.mk0]) hv

/-- A word whose immediate a literal replaces leaves its group as its effect says, where no type and no convergence is
asked for. -/
theorem becomes_formImm {s : State} {gid side : Nat} {g g' : Group} {ps ss : List Nat} {n : Nat} {imm : BitVec n}
    {i : Instr} {w : Word} {ops : List Operand} {eff : Issue → Eff} (op : Nat) (h : Ready s gid side g ps ss [])
    (he : exec i s = issueWord w (Form.mk0 ops none (.replaces (imm = 0)) false) eff s)
    (hop : w.toNat / 2 ^ 23 = op) (hcap : capsOfOp op = []) (hsup : supOp op = false)
    (hops : ∀ o ∈ ops, o.Named (issueOf s gid side g w).et ps ss []) (hl : LitPending g side → imm = 0)
    (hv : finish (issueOf s gid side g w) (eff (issueOf s gid side g w)) = setGroup s gid g') :
    Becomes s i gid g' :=
  becomes_of op h he hop (by rw [hcap]; rfl) (fun _ => ⟨hsup, rfl⟩) rfl rfl hops rfl
    (fun hp => decide_eq_true (hl hp)) rfl (by simp [Form.mk0]) (by simp [Form.mk0]) hv

/-! ## The instructions -/

section Instructions
variable {s : State} {gid side : Nat} {g : Group}

theorem nop_becomes (h : Ready s gid side g [] [] []) :
    Becomes s .nop gid (setSlot g side (slotAt (slotOf g side) ((slotOf g side).pc + 4))) :=
  becomes_formJ 0 h (exec_nop s) op_nop rfl rfl rfl finish_put_self

theorem bra_becomes (h : Ready s gid side g [] [] []) (i : BitVec 23)
    (ht : pcValid ((slotOf g side).pc + 4 * i.signExtend 64) = true) :
    Becomes s (.bra i) gid (setSlot g side (slotAt (slotOf g side) ((slotOf g side).pc + 4 * i.signExtend 64))) :=
  becomes_formJ 1 h (exec_bra i s) (op_bra i) rfl rfl rfl (finish_jump ht)

theorem mode_becomes (h : Ready s gid side g [] [] []) (t : BitVec 1) (r : BitVec 2) (e : BitVec 4) (gs : BitVec 1)
    (p : BitVec 3) (he : e ≠ 15) (hp : ¬(p = 7 ∧ gs = 1)) :
    Becomes s (.mode t r e gs p) gid (setSlot g side
      { slotAt (slotOf g side) ((slotOf g side).pc + 4) with mr := t ++ r ++ e ++ gs ++ p }) :=
  becomes_formJ (eff := fun is => is.go { advance is.sl with mr := t ++ r ++ e ++ gs ++ p })
    (bad := fun _ => !mrValid (t ++ r ++ e ++ gs ++ p)) 11 h rfl (op_mode t r e gs p) rfl rfl
    (by rw [mrValid_mode t r e gs p he hp]; rfl) (finish_go _)

theorem lit_becomes (h : Ready s gid side g [] [] []) (i : BitVec 23) (hl : (slotOf g side).lc ≠ 3) :
    Becomes s (.lit i) gid (setSlot g side { slotAt (slotOf g side) ((slotOf g side).pc + 4) with
      lc := (slotOf g side).lc + 1
      lat := if (slotOf g side).lc = 0 then i.signExtend 64 else ((slotOf g side).lat <<< 23) ||| i.setWidth 64 }) :=
  becomes_formJ 12 h (exec_lit i s) (op_lit i) rfl rfl (decide_eq_false hl) (finish_go _)

theorem jset_becomes (h : Ready s gid side g [] [] []) (i : BitVec 16) (hl : LitPending g side → i = 0) :
    Becomes s (.jset i) gid (setSlot g side { slotAt (slotOf g side) ((slotOf g side).pc + 4) with
      jpc := (slotOf g side).pc + 4 * immOf g side i, jp := true }) := by
  refine becomes_formImm 5 h (exec_jset i s) (op_jset i) rfl rfl (by simp) hl ?_
  rw [issueOf_imm, issueOf_tgt]
  exact finish_go _

/-- The lanes of EXEC that a branch on predicate `p` takes (R152). -/
def branchLanes (g : Group) (side : Nat) (sense : BitVec 1) (p : BitVec 3) : Word :=
  (slotOf g side).exec &&& (if sense = 0 then preg g p.toNat else ~~~preg g p.toNat)

/-- A whole-slot branch goes to its target where its condition holds and past its word where it does not (R155). -/
theorem branch_becomes {p : BitVec 3} {imm : BitVec 16} {i : Instr} {w : Word} {eff : Issue → Eff} {c : Prop}
    [Decidable c] (op : Nat) (h : Ready s gid side g [p.toNat] [] []) (he : exec i s = issueWord w (formBr p imm) eff s)
    (hop : w.toNat / 2 ^ 23 = op) (hcap : capsOfOp op = []) (hsup : supOp op = false)
    (hl : LitPending g side → imm = 0)
    (heff : eff (issueOf s gid side g w) = if c
      then (issueOf s gid side g w).jump ((slotOf g side).pc + 4 * (issueOf s gid side g w).imm imm) (slotOf g side)
      else (issueOf s gid side g w).put g) :
    (c → pcValid ((slotOf g side).pc + 4 * immOf g side imm) = true →
      Becomes s i gid (setSlot g side (slotAt (slotOf g side) ((slotOf g side).pc + 4 * immOf g side imm))))
    ∧ (¬c → Becomes s i gid (setSlot g side (slotAt (slotOf g side) ((slotOf g side).pc + 4)))) := by
  have hops : ∀ o ∈ [opP p.toNat], o.Named (issueOf s gid side g w).et [p.toNat] [] [] := by simp [Operand.Named, opP]
  rw [issueOf_imm] at heff
  refine ⟨fun hc ht => ?_, fun hc => ?_⟩
  · refine becomes_formImm op h he hop hcap hsup hops hl ?_
    rw [heff, if_pos hc]
    exact finish_jump ht
  · refine becomes_formImm op h he hop hcap hsup hops hl ?_
    rw [heff, if_neg hc]
    exact finish_put_self

theorem jr_becomes (a : BitVec 7) (i : BitVec 9) (h : Ready s gid side g [] [a.toNat] [])
    (hl : LitPending g side → i = 0) (ht : pcValid (sreg g a.toNat + 4 * immOf g side i) = true) :
    Becomes s (.jr a i) gid (setSlot g side (slotAt (slotOf g side) (sreg g a.toNat + 4 * immOf g side i))) := by
  refine becomes_formImm 9 h (exec_jr a i s) (op_jr a i) rfl rfl (by simp [Operand.Named, opS]) hl ?_
  rw [issueOf_imm]
  exact finish_jump ht

/-- The group that a CALL to `tgt` leaves. -/
def calledGroup (g : Group) (side : Nat) (tgt : DWord) : Group :=
  setSlot (setLanes g (slotOf g side).exec 30 2 (fun _ => ((slotOf g side).pc + 4).toNat)) side
    (slotAt (slotOf g side) tgt)

theorem calledGroup_lanes (g : Group) (side : Nat) (tgt : DWord) :
    LanesAre g (calledGroup g side tgt) (slotOf g side).exec 30 2 (fun _ => ((slotOf g side).pc + 4).toNat) := by
  intro r l hl
  rw [calledGroup, vreg_setSlot]
  exact setLanes_lanesAre _ _ _ _ _ r l hl

theorem calledGroup_rest (g : Group) (side : Nat) (tgt : DWord) :
    calledGroup g side tgt
      = { setSlot g side (slotAt (slotOf g side) tgt) with v := (calledGroup g side tgt).v } := by
  simp only [calledGroup, setLanes, setSlot]
  split <;> rfl

theorem call_becomes (h : Ready s gid side g [] [] [(30, 1), (31, 1)]) (i : BitVec 23)
    (ht : pcValid ((slotOf g side).pc + 4 * i.signExtend 64) = true) :
    Becomes s (.call i) gid (calledGroup g side ((slotOf g side).pc + 4 * i.signExtend 64)) := by
  refine becomes_formLink 7 h (exec_call i s) (op_call i) rfl rfl ?_
  simp only [issueOf_tgt, ht, if_true]
  rfl

theorem ret_becomes (h : Ready s gid side g [] [] [(30, 1), (31, 1)]) {l : Nat} (hl : l < 32)
    (hact : (slotOf g side).exec.getLsbD l = true) (hlow : ∀ k, k < l → (slotOf g side).exec.getLsbD k = false)
    (ht : pcValid (vreg g 31 l ++ vreg g 30 l) = true) :
    Becomes s .ret gid (setSlot g side (slotAt (slotOf g side) (vreg g 31 l ++ vreg g 30 l))) := by
  refine becomes_formLink 8 h (exec_ret s) op_ret rfl rfl ?_
  rw [issueOf_sl, issueOf_g, lowLane_eq hl hact hlow, pair_of_vregs]
  exact finish_jump ht

end Instructions

end Sys2Proof.Machine

open Sys2Proof Sys2Proof.Machine

/-- Settles O15: each instruction leaves the group that its lemma gives; BANY and BALL are one branch under two
conditions. -/
theorem controlFlow : Obligations.ControlFlow := by
  unfold Obligations.ControlFlow
  intro s gid side g
  refine ⟨fun h => ⟨nop_becomes h, bra_becomes h, mode_becomes h, lit_becomes h, jset_becomes h⟩,
    fun sense p i h hl => ?_,
    fun h => ⟨fun i ht => ⟨_, call_becomes h i ht, calledGroup_lanes _ _ _, calledGroup_rest _ _ _⟩, ?_⟩,
    jr_becomes⟩
  · obtain ⟨banyTaken, banyNot⟩ := branch_becomes (c := branchLanes g side sense p ≠ 0) 3 h (exec_bany sense p i s)
      (op_bany sense p i) rfl rfl hl rfl
    obtain ⟨ballTaken, ballNot⟩ := branch_becomes (c := branchLanes g side sense p = (slotOf g side).exec) 4 h
      (exec_ball sense p i s) (op_ball sense p i) rfl rfl hl rfl
    exact ⟨banyTaken, fun hb => banyNot (not_not_intro hb), ballTaken, ballNot⟩
  · rintro l pc hl hact hlow rfl ht
    exact ret_becomes h hl hact hlow ht
end

section
/-! PROOFS. BRK and SYSC (R259, R265, R266): the trap that BRK takes, the request that SYSC posts, and the group that parks
behind it (R260). -/

namespace Sys2Proof.Machine

/-! ## A group with nothing outstanding (R172, R206) -/

theorem retireStores_returnLoads_of_out_nil {g : Group} (hout : g.out = []) : retireStores (returnLoads g) = g := by
  obtain ⟨⟩ := g
  cases hout
  rfl

theorem performStores_of_out_nil {s : State} {gid : Nat} {g : Group} (hg : tget s.groups gid = some g)
    (hout : g.out = []) : performStores s gid = s := by
  simp only [performStores, hg, hout]
  rfl

/-- With nothing outstanding there is nothing to perform or to return. -/
theorem drainLdSt_of_out_nil {s : State} {gid : Nat} {g : Group} (hg : tget s.groups gid = some g) (hout : g.out = []) :
    drainLdSt s gid = s := by
  simp only [drainLdSt, performStores_of_out_nil hg hout, hg, retireStores_returnLoads_of_out_nil hout, setGroup,
    tset_self _ _ _ hg]

theorem ldStZero_of_out_nil {g : Group} (hout : g.out = []) : ldStZero g = true := by simp [ldStZero, cntOf, hout]

theorem readyToPark_of_out_nil {s : State} {gid : Nat} {g : Group} (hg : tget s.groups gid = some g) (hout : g.out = [])
    (hpark : parkReady s gid = .done ()) : readyToPark s gid = .ok true := by
  simp [readyToPark, hg, ldStZero_of_out_nil hout, hpark]

/-! ## Parking (R143, R260) -/

/-- A group whose state lies in its park area: its slots, registers and stack are empty, its waits are kept aside. -/
def parkedGroup (g : Group) (reason : Nat) (seq : DWord) : Group :=
  { g with
    st := .parked, reason := reason, seq := seq, susp := keepWaits g 0, ref := none, nbwin := 0, recs := []
    a := Slot.free, b := Slot.free, v := [], s := [], p := [], stack := [] }

theorem parkGroup_done {s v : State} {gid reason : Nat} {seq : DWord} {g : Group} {b : Block} {cx : Ctx}
    (hg : tget s.groups gid = some g) (hb : tget s.blocks g.blk = some b)
    (hcx : tget s.ctxs (b.part * 1024 + b.ctx) = some cx)
    (hw : devWrite2 s { part := b.part, ctx := b.ctx, user := false } (parkAddr cx g) (parkHead g reason seq)
      (parkAddr cx g + 0x800) (parkRegs g) = .done v) :
    parkGroup s gid reason seq = setGroup (cancelEngine (cancelEngine v g.a) g.b) gid (parkedGroup g reason seq) := by
  simp only [parkGroup, hg, hb, hcx, hw]
  rfl

/-- A slot that is stalled for no engine has nothing to forget there. -/
theorem cancelEngine_of_wait_ne {sl : Slot} (s : State) (h : ∀ id, sl.wait ≠ .engine id) : cancelEngine s sl = s := by
  unfold cancelEngine
  split
  · next id hid => exact absurd hid (h id)
  · rfl

/-- Both slots of a group are free of engine stalls when its one slot and its other slot are. -/
theorem cancelEngine_both {g : Group} (side : Nat) (s : State) (hmine : ∀ id, (slotOf g side).wait ≠ .engine id)
    (hother : ∀ id, (slotOf g (otherSide side)).wait ≠ .engine id) : cancelEngine (cancelEngine s g.a) g.b = s := by
  by_cases hside : side = 0
  · subst hside
    rw [cancelEngine_of_wait_ne s (sl := g.a) hmine, cancelEngine_of_wait_ne s (sl := g.b) hother]
  · simp only [slotOf, otherSide, if_neg hside] at hmine hother
    rw [cancelEngine_of_wait_ne s (sl := g.a) hother, cancelEngine_of_wait_ne s (sl := g.b) hmine]

/-! ## The post of a service call (R262, R265, R266) -/

/-- Changing a record that is there sets the changed record. -/
theorem tmod_eq_tset {α : Type} {t : Tbl α} {k : Nat} {a : α} (f : α → α) (h : tget t k = some a) :
    tmod t k f = tset t k (f a) := by
  rw [← tmod_tset, tset_self t k a h]

/-- What the device keeps for the reply to a service call: v13, and v14 and v15 as one number, of each lane. -/
theorem replyPlaces_eq (g : Group) :
    (List.range 32).flatMap (fun l => [(vreg g 13 l).toNat, vregs g 14 l 2])
      = (List.range 32).flatMap
          (fun l => [(vreg g 13 l).toNat, (vreg g 14 l).toNat + 2 ^ 32 * (vreg g 15 l).toNat]) := by
  simp only [vregs, Nat.mul_zero, Nat.add_zero]

/-- A service call whose request is posted moves its slot on and parks the group with REASON 2. -/
theorem sysPost_posted {s u : State} {gid side : Nat} {g : Group} {m : Word} {kind : BitVec 23} {q : DWord}
    (hg : tget s.groups gid = some g) (hout : g.out = []) (hposted : g.posted = 0) (hpark : parkReady s gid = .done ())
    (hpost : postRequest s gid m kind.toNat (slotOf g side).pc (sysArgs g)
      ((List.range 32).flatMap (fun l => [(vreg g 13 l).toNat, vregs g 14 l 2])) = .posted u q)
    (hu : tget u.groups gid = some g) :
    sysPost s gid side m kind = parkGroup (setGroup u gid (setSlot g side (advance (slotOf g side)))) gid 2 q := by
  simp only [sysPost, hg, drainLdSt_of_out_nil hg hout, hposted, readyToPark_of_out_nil hg hout hpark, hpost,
    tmod_eq_tset _ hu, setGroup]
  rfl

/-! ## The instructions -/

section Instructions
variable {s : State} {gid side : Nat} {g : Group}

/-- A register of a list is one of those that the list, each as a single register, names to `Ready`. -/
theorem mem_singleRegs {regs : List Nat} {r : Nat} (hr : r ∈ regs) :
    r ∈ ([] : List Nat).map (· + 200)
      ++ (regs.map (fun r => (r, 1))).flatMap (fun v => (List.range v.2).map (· + v.1)) :=
  List.mem_append_right _ (List.mem_flatMap.2 ⟨(r, 1), List.mem_map.2 ⟨r, hr, rfl⟩,
    List.mem_map.2 ⟨0, List.mem_range.2 Nat.one_pos, Nat.zero_add r⟩⟩)

/-- A word of format J that may touch vector registers, whose own check passes, has its own effect. -/
theorem ready_formJ {w : Word} {bad : Issue → Bool} {regs : List Nat} {eff : Issue → Eff} (op : Nat)
    (h : Ready s gid side g [] [] (regs.map (fun r => (r, 1)))) (hop : w.toNat / 2 ^ 23 = op) (hcap : capsOfOp op = [])
    (hsup : supOp op = false) (hbad : bad (issueOf s gid side g w) = false) :
    issueWord w { formJ with bad := bad, touch := fun _ => regs } eff s
      = .next (finish (issueOf s gid side g w) (eff (issueOf s gid side g w))) :=
  ready_form op h hop (by rw [hcap]; rfl) (fun _ => ⟨hsup, rfl⟩) rfl rfl (by simp [formJ, Form.mk0]) hbad (fun _ => rfl) rfl
    (fun _ hr => mem_singleRegs hr) (by simp [formJ, Form.mk0])

theorem becomes_of_next {i : Instr} {g' : Group} (h : exec i s = .next (setGroup s gid g')) : Becomes s i gid g' :=
  ⟨_, h, rfl, by simp, fun k hk => by simp [hk]⟩

theorem encode_brk (i : BitVec 23) : encode (.brk i) = 0x09800000 ||| i.setWidth 32 := by
  apply BitVec.eq_of_toNat_eq
  have hi := i.isLt
  rw [BitVec.toNat_or, BitVec.toNat_setWidth, Nat.mod_eq_of_lt (by omega)]
  exact BitVec.toNat_append _ _

/-- An effect that asks for active lanes, where there is none, only moves the slot past its word. -/
theorem finish_ifActive {w : Word} (e : Eff) :
    finish (issueOf s gid side g w)
        (if (issueOf s gid side g w).act = 0 then (issueOf s gid side g w).put (issueOf s gid side g w).g else e)
      = if activeOf g side = 0 then setGroup s gid (setSlot g side (slotAt (slotOf g side) ((slotOf g side).pc + 4)))
        else finish (issueOf s gid side g w) e := by
  rw [apply_ite (finish (issueOf s gid side g w)), issueOf_g, finish_put_self]
  rfl

/-- BRK takes its trap in the active lanes, or moves on where there is none. -/
theorem exec_brk_next (h : Ready s gid side g [] [] []) (i : BitVec 23) :
    exec (.brk i) s = .next (if activeOf g side = 0
      then setGroup s gid (setSlot g side (slotAt (slotOf g side) ((slotOf g side).pc + 4)))
      else takeTrap s gid side { TrapI.plain 13 (activeOf g side) 0 with info := i.setWidth 64 }) := by
  rw [exec_brk, execBrk]
  refine (ready_formJ (bad := fun _ => false) (regs := []) 19 h (op_brk i) rfl rfl rfl).trans ?_
  exact congrArg _ (finish_ifActive _)

/-- SYSC posts its request for the active lanes, or moves on where there is none. -/
theorem exec_sysc_next (h : Ready s gid side g [] [] ((List.range 16).map (fun r => (r, 1)))) (i : BitVec 23)
    (hi : i.toNat < 0x400000) :
    exec (.sysc i) s = .next (if activeOf g side = 0
      then setGroup s gid (setSlot g side (slotAt (slotOf g side) ((slotOf g side).pc + 4)))
      else sysPost s gid side (activeOf g side) i) := by
  rw [exec_sysc, execSysc]
  refine (ready_formJ (regs := List.range 16) 20 h (op_sysc i) rfl rfl (decide_eq_false (Nat.not_le.2 hi))).trans ?_
  exact congrArg _ (finish_ifActive _)

end Instructions

end Sys2Proof.Machine

open Sys2Proof Sys2Proof.Machine

/-- Settles O29: BRK and SYSC move on or have their effect as `exec_brk_next` and `exec_sysc_next` say; the post of SYSC
parks the group, in which no slot is stalled for an engine. -/
theorem breakAndServiceCall : Obligations.BreakAndServiceCall := by
  unfold Obligations.BreakAndServiceCall
  intro s gid side g i h
  refine ⟨encode_brk i, fun hx => becomes_of_next ?_, fun hx => ?_, fun hi hr hx => becomes_of_next ?_, ?_⟩
  · rw [exec_brk_next h, if_pos hx]
  · rw [exec_brk_next h, if_neg hx]
    rfl
  · rw [exec_sysc_next hr i hi, if_pos hx]
  · intro hi hr u v q b cx hx hout hposted hpark hwait args replyTo hpost hu hb hcx h' park hw
    have hsys : sysPost s gid side (activeOf g side) i = parkGroup (setGroup u gid h') gid 2 q :=
      sysPost_posted h.issues.group hout hposted hpark (by rw [replyPlaces_eq]; exact hpost) hu
    have haddr : parkAddr cx h' = park := by simp [parkAddr, h', park]
    rw [exec_sysc_next hr i hi, if_neg hx, hsys, parkGroup_done (g := h') (b := b) (cx := cx) (v := v) (by simp)
      (by simpa [h'] using hb) (by simpa using hcx) (by rw [haddr]; exact hw),
      cancelEngine_both side v (by simp [h', slotAt]) (by simpa [h'] using hwait)]
    rfl
end
